-- ==== Sys2Proof/Word.lean ====
section
/-! DEFINITION. The word types of the package and their plainest arithmetic (00_scope R7: little-endian,
bit 0 least significant; 02_machine R27, R28, R29). -/
namespace Sys2Proof

/-- One byte. -/
abbrev Byte := BitVec 8
/-- One 64-bit register or memory word (R27). -/
abbrev Word := BitVec 64
/-- One 32-bit instruction word (R41). -/
abbrev Word32 := BitVec 32
/-- One 512-bit vector register (R28). -/
abbrev VWord := BitVec 512

/-- Number of an x register (R27). -/
abbrev Reg := BitVec 4
/-- Number of a vector register (R28). -/
abbrev VReg := BitVec 5
/-- Number of a mask register (R29). -/
abbrev MReg := BitVec 2
/-- Number of an accumulator tile (R30). -/
abbrev TReg := BitVec 4
/-- Number of a segment register (R31). -/
abbrev SegNo := BitVec 3

/-- `n` bits of the natural number `w` from bit `lo` up (R7). -/
def fld (w lo n : Nat) : Nat := w / 2 ^ lo % 2 ^ n

/-- Bit `i` of a natural number. -/
def bitOf (w i : Nat) : Bool := w / 2 ^ i % 2 == 1

/-- The value of the low `n` bits of `v` read as a two's-complement integer (S() of R63). -/
def sgn (n v : Nat) : Int :=
  if v % 2 ^ n < 2 ^ (n - 1) then (v % 2 ^ n : Nat) else ((v % 2 ^ n : Nat) : Int) - (2 ^ n : Nat)

/-- An integer kept in `n` bits (the low `n` bits of its two's complement). -/
def wrap (n : Nat) (v : Int) : Nat := (v % ((2 ^ n : Nat) : Int)).toNat

/-- Sign extension of an `n`-bit value to a register (R9). -/
def sext (n v : Nat) : Word := BitVec.ofInt 64 (sgn n v)

/-- Zero extension of an `n`-bit value to a register (R9). -/
def zext (n v : Nat) : Word := BitVec.ofNat 64 (v % 2 ^ n)

end Sys2Proof
end

