-- ==== Sys2Proof/Config.lean ====
section
/-! DEFINITION. What the manual leaves open: constants without a body, so that no proof sees their value.
Each is named in the assumption log (notes/assumptions). -/
namespace Sys2Proof

/-- Free value (log 8): a woken slot issues on the first (true) or the second (false) of its next two own
turns (R22). Applied to the State's counter `fresh`. -/
opaque Config.wakeFirst : Nat → Bool
/-- Free value (log 6): rank of a hearth among the hearths whose dirty bytes the home merges into one word
(R139, R161). Applied to the counter and the hearth. -/
opaque Config.mergeRank : Nat → Nat → Nat
/-- Free value (log 86): which of its lines a full L2 evicts (R3, R161); applied to the counter. -/
opaque Config.evictLine : Nat → Nat
/-- Free value (log 9): which of the results within the error bound a binary32 special function gives
(R232); a fixed function of the function code and the input bits. -/
opaque Config.specPick : Nat → Nat → Nat
/-- Free values (log 79): sender and sequence of the header that RECV writes for a spark, from its words, and the words of a
placement spark, from its RCB, its LSEQ and the slots and LIDs of its threads (R18, R153, R177). -/
opaque Config.sparkHeader : List Word → Nat × Nat
opaque Config.placeSpark : Word → Nat → List (Nat × Word) → List Word
/-- Free value (log 10): rank of a core among the cores that can take a group (R177). -/
opaque Config.placeRank : Nat → Nat → Nat
/-- Free value (log 15): the HOME clamp of the global window of another package that admits a local address (R25, R280):
hearth × 16 + clamp, or none where it is not valid. -/
opaque Config.remoteHome : Nat → Nat → Option Nat
/-- Free value (log 83): the page-table root a stoker writes for a job domain that no thread of the package has run in (R284); applied
to the address of the domain's node. -/
opaque Config.domainRoot : Word → Word
/-- Free value (log 15): whether a clamp of another package does not exist or is gated (R190); package and clamp. -/
opaque Config.remoteClampOff : Nat → Nat → Bool
/-- Free value (log 47): a byte of another package's memory, or one that an uncorrectable error hides, as a unit of this package reads it at
an instant (R355, R366): the machine's clock and the global address. -/
opaque Config.farByte : Nat → Word → Byte
/-- Free value (log 92): window and tick instant of a launch of another package, by RCBA and LSEQ (R312): none where it is no step of a
tick, else T and the sink offsets of its records. -/
opaque Config.farWindow : Word → Nat → Option (Nat × List Nat)
/-- The bundle of a flue port, which the system builder sets (log 91; R317). -/
opaque Config.bundleOf : Nat → Nat
/-- Free value (log 91): LEN of a flit whose payload the manual does not lay out, by TYPE (R319). -/
opaque Config.flitLen : Nat → Nat
/-- Nominal frequency in MHz of an island other than the clamps (log 1; R37, R97). -/
opaque Config.islandMHz : Nat → Nat
/-- Free value (log 95): cycles until an engine has switched to a newly loaded handler, by load and engine (R334). -/
opaque Config.engineSwitch : Nat → Nat → Nat
/-- Free value (log 17): how far an island's frequency moves at a power sample (R360). Applied to the counter. -/
opaque Config.freqStep : Nat → Nat
/-- SHAKE256 (log 11): message, output bytes (R308, R309, R322, R357, R361). -/
opaque Config.shake256 : List Byte → Nat → List Byte
/-- KMAC256 (log 11): key, customization, input, 32 output bytes (R309). -/
opaque Config.kmac256 : List Byte → List Byte → List Byte → List Byte
/-- Ed448 verification (log 11): public key, message, signature (R309, R322, R361). -/
opaque Config.ed448Verify : List Byte → List Byte → List Byte → Bool
/-- Ed448 signature by this package's identity key (log 11; R322, R362). -/
opaque Config.ed448Sign : List Byte → List Byte
/-- This package's Ed448 identity public key, 57 bytes (log 11; R362). -/
opaque Config.identityKey : List Byte
/-- The fresh X448 public value and nonce of a link's key exchange (log 11; R322), per port and epoch. -/
opaque Config.x448Public : Nat → Nat → List Byte
opaque Config.linkNonce : Nat → Nat → List Byte
/-- The X448 shared secret of port, epoch and the peer's public value (log 11; R322). -/
opaque Config.x448Shared : Nat → Nat → List Byte → List Byte
/-- Free values (log 18): what a firmware image carries, whose layout the manual leaves open (R361): the bytes that are signed, the
public key, the signature and the security version. -/
opaque Config.imageBody : List Byte → List Byte
opaque Config.imageKey : List Byte → List Byte
opaque Config.imageSignature : List Byte → List Byte
opaque Config.imageVersion : List Byte → Nat
/-- Fused SHAKE256-256 digest of the firmware key and fused security version (log 11; R361). -/
opaque Config.fusedKeyDigest : List Byte
opaque Config.fusedVersion : Nat

end Sys2Proof
end

