-- ==== Sys2Proof/Syntax/Codes.lean ====
section
/-! DEFINITION. The types of the field codes of an instruction word (03_encoding R44 to R46, R230, R241). -/
namespace Sys2Proof

/-- sz of the S format (R45): 64, 32, 16 or 8 bits. -/
inductive Width where
  | w64 | w32 | w16 | w8
  deriving DecidableEq, Repr

/-- Condition codes of R44. -/
inductive Cond where
  | eq | ne | lt | ge | ltn | gen | le | gt | len | gtn | al
  deriving DecidableEq, Repr

/-- sz of the M format for scalar accesses (R45): 8, 16, 32 or 64 bits. -/
inductive MSize where
  | b8 | b16 | b32 | b64
  deriving DecidableEq, Repr

/-- sz of the M format for vector accesses (R45): 64 or 32 bytes. -/
inductive VSize where
  | v64 | v32
  deriving DecidableEq, Repr

/-- Type codes of R46. -/
inductive Ty where
  | s8 | n8 | s16 | n16 | s32 | n32 | s64 | n64 | f16 | bf16 | f32 | f64 | e4m3 | e5m2 | e2m1
  deriving DecidableEq, Repr

/-- Order codes of R46. -/
inductive MemOrd where
  | none | acq | rel | ar
  deriving DecidableEq, Repr

/-- Scope codes of R46. -/
inductive Scope where
  | core | clamp | hearth | pkg | sys
  deriving DecidableEq, Repr

/-- Rounding modes of VCVT (R230). -/
inductive Round where
  | rne | rtz | rup | rdn
  deriving DecidableEq, Repr

/-- Kiln format codes of R241. -/
inductive KFormat where
  | bf16 | f16 | e4m3 | e5m2 | e2m1 | ce8
  deriving DecidableEq, Repr

end Sys2Proof
end

