-- ==== Sys2Proof/Syntax/Events.lean ====
section
/-! DEFINITION. The parameters of the hardware steps: embers, flits, windows, key exchanges and time references
(02_machine R26, 21_flue R317 to R335, 22_media R337). A flit is held as what it carries; the bits of its CRC, its GCM tag
and its encryption are not (NOTES, assumption 11). -/
namespace Sys2Proof

/-- A segment register: base, limit, rights (R31). -/
structure Seg where
  base : Word
  limit : BitVec 48
  rights : BitVec 8
  deriving DecidableEq, Repr

/-- The empty segment (R31). -/
def Seg.empty : Seg := ⟨0, 0, 0⟩

/-- A place an access reaches (R278): a local physical address of this package, or an address of another. -/
inductive Loc where
  | here (a : Nat)
  | there (pkg : Nat) (a : Nat)
  deriving DecidableEq, Repr

/-- What the engine of a word's home does as one indivisible step (R137, R140, R136, R144). -/
inductive AtomicOp where
  | add | and | or | xor | min | max | minn | maxn | xch | cas | fadd
  /-- handler h (R140) -/
  | ahx
  /-- the tag steps of LDFE and STEF (R136) -/
  | ldfe | stef
  deriving DecidableEq, Repr

/-- An atomic on its way to the word's home (R138, R139). -/
structure AtomicReq where
  op : AtomicOp
  loc : Loc
  /-- bytes: 4 or 8 -/
  size : Nat
  b : Word
  /-- compare value of ACAS, handler number of AHX -/
  c : Word
  /-- the fill that takes the answer, for returning forms -/
  ret : Option Nat
  /-- the issuing slot -/
  slot : Nat
  /-- low 32 bits of the issuing instruction's PC (R107) -/
  pc : Nat
  /-- the issuer runs in a deterministic region (R145) -/
  det : Bool
  /-- the offset for EADDR (R107) -/
  ea : Word
  /-- the translated segment address, while the translation of issue holds (R292) -/
  va : Option Nat
  /-- the segment register (R108) -/
  seg : Nat
  deriving DecidableEq, Repr

/-- The window of a stream toward a package (R324, R325). -/
structure WindowName where
  sid : Nat
  dst : Nat
  win : Nat
  deriving DecidableEq, Repr

/-- A contribution to, or the close of, an ordered reduction (R143, R144). -/
structure RedReq where
  loc : Loc
  /-- bytes: 4 or 8 -/
  size : Nat
  /-- the contribution; none for DCLOSE -/
  value : Option Word
  lid : Nat
  rcba : Word
  /-- E, the group's thread count -/
  extent : Nat
  slot : Nat
  pc : Nat
  ea : Word
  /-- the word is tagged (R36) -/
  tagged : Bool
  va : Option Nat
  seg : Nat
  /-- stream and window in which it came from another package, whose slot learns what became of it (R145, R148) -/
  origin : Option WindowName
  deriving DecidableEq, Repr

/-- A message: header and words (R151). -/
structure Message where
  sender : Nat
  seq : Nat
  words : List Word
  deriving DecidableEq, Repr

/-- One record of a count block (R329). -/
structure CountRec where
  win : Nat
  n : Nat
  base : Nat
  /-- the oldest window of the stream that the source has not seen acknowledged (log 94) -/
  low : Nat
  deriving DecidableEq, Repr

/-- A WRITE flit, or an ATOMIC flit with a sequence (R326). -/
structure WriteFlit where
  sid : Nat
  dst : Nat
  seq : Nat
  win : Nat
  low : Nat
  /-- local address of the 64-byte block in the destination -/
  block : Nat
  mask : Nat
  bytes : List Byte
  atomic : Option AtomicReq
  reduce : Option RedReq
  deriving DecidableEq, Repr

/-- What a release does at its location once its windows are complete (R329). -/
inductive ReleaseBody where
  | none
  | write (a : Nat) (bytes : List Byte) (tag : Option Bool)
  | atomic (r : AtomicReq)
  | contribute (r : RedReq)
  | close (r : RedReq)
  deriving DecidableEq, Repr

/-- A RELEASE, COUNTREL or PROBE flit: its stream and the count block, one record per stream of the slot (R329). -/
structure ReleaseFlit where
  sid : Nat
  dst : Nat
  recs : List CountRec
  body : ReleaseBody
  probe : Bool
  deriving DecidableEq, Repr

/-- A request that is answered: a READ, or an atomic without a window (R317, R319). -/
structure ReadFlit where
  /-- SID of the stream of the slot and segment that reads: the source package is in it (R324, R332) -/
  sid : Nat
  dst : Nat
  /-- names the answer at the source -/
  id : Nat
  a : Nat
  size : Nat
  /-- a tagged load: the answer carries the tag (R124, R136) -/
  tagged : Bool
  atomic : Option AtomicReq
  deriving DecidableEq, Repr

/-- An ember packet (R26). -/
structure EmberPacket where
  rcba : Word
  lid : Word
  haddr : Word
  mseq : Nat
  xfull : BitVec 16
  pc : Word
  status : Word
  x : List Word
  sg : List Seg
  deriving DecidableEq, Repr

/-- What an answer says: the value; the value, and a handler was refused (R141, R334); the tag was not in the state awaited (R136);
the access was refused at the target (R332); uncorrectable data (R128); an open reduction (R145). -/
inductive RespStatus where
  | ok | handler | tag | refused | ecc | redconf
  deriving DecidableEq, Repr

/-- What an end sends in KEYX flits (R322): its public value, nonce and identity, then its signature over the transcript; the first
flit goes without a signature. -/
structure KeyExchange where
  public_ : List Byte
  nonce : List Byte
  identity : List Byte
  signature : List Byte
  deriving DecidableEq, Repr

/-- An address as a host port names it (R350). -/
structure HostAddr where
  port : Nat
  addr : Nat
  deriving DecidableEq, Repr

/-- Where a scrub looks (R355): at an address at home, or in the L2 of a hearth, or at an entry of the send store, by stream, package and
SEQ. -/
inductive ScrubAt where
  | home (addr : Nat)
  | l2 (hearth addr : Nat)
  | store (sid dst seq : Nat)
  deriving DecidableEq, Repr

/-- The payload of a flit by type (R319). -/
inductive FlitBody where
  | write (f : WriteFlit)
  | release (f : ReleaseFlit)
  | countrel (f : ReleaseFlit)
  | flagack (w : WindowName)
  | shortfall (w : WindowName) (base n bitmap : Nat)
  | notable (w : WindowName) (seq : Nat)
  | frozen (w : WindowName) (seq : Nat)
  /-- a window refused at the target (R332): bit SEQ mod 4,096 is set for each write that was applied -/
  | resume (w : WindowName) (refused : Option Nat)
  /-- the same bits as SHORTFALL (R330) -/
  | giveup (w : WindowName) (bitmap : Nat)
  | probe (f : ReleaseFlit)
  | probeack (w : WindowName) (frozen : Bool)
  | read (f : ReadFlit)
  /-- an answer: its status is 0, or why there is no value (`RespStatus`) -/
  | resp (dst id : Nat) (bytes : List Byte) (tag : Bool) (status : RespStatus)
  | atomic (f : WriteFlit)
  /-- a message, with the package and slot it comes from -/
  | msg (dst slot src sender : Nat) (m : Message) (spark : Bool)
  /-- a spark for a stoker of another package, which SVCD or FZSVC names (R180, R332): a MSG of four words -/
  | spark (dst core : Nat) (w0 w1 w2 w3 : Word)
  /-- a RESP that answers no request (R141, R145, R148, R152): a write, an atomic, a contribution or a message was refused at its
  target. It names the stream and the window, and for REDCONF the fault registers -/
  | report (w : WindowName) (status : RespStatus) (ea einfo : Word)
  /-- an ember, with the package and slot it comes from -/
  | ember (dst clamp src slot : Nat) (p : EmberPacket)
  | emberack (dst slot : Nat) (ok : Bool)
  | lack (seq : Nat) (nak : Bool)
  | pause (on : Bool)
  | keyx (m : KeyExchange)
  | keyout
  | idle
  /-- flit n of a message of the TYPE that needs more than 224 bytes; the message takes effect with its last flit (R319, R330, R335) -/
  | piece (type dst n : Nat)
  deriving DecidableEq, Repr

/-- A flit as a link carries it (R319): the fields of its header, and what its payload says. -/
structure LinkFlit where
  /-- CRC-32C and the GCM tag hold: their computation is the link's (log 11) -/
  crcOk : Bool
  tagOk : Bool
  cont : Bool
  /-- CLASS: lossless -/
  lossless : Bool
  kph : Bool
  dpkg : Nat
  type : Nat
  len : Nat
  lseq : Nat
  age : Nat
  fctr : Nat
  /-- the IV under which the payload is sealed, and the additional data that the tag covers (R322) -/
  iv : List Byte
  aad : List Byte
  /-- the bits of the payload that the TYPE leaves unused -/
  spare : Nat
  body : FlitBody
  deriving DecidableEq, Repr

/-- An input of the supply of time (R337, R338): which reference (0 PTP, 1 1PPS, 2 10 MHz), whether it is present, the slew it asks
for in parts per 10^9, and the offset of DTIME it measures in ns. -/
structure TimeReference where
  kind : Nat
  present : Bool
  slew : Int
  offset : Int
  deriving DecidableEq, Repr

end Sys2Proof
end

