-- ==== Sys2Proof/Syntax.lean ====
section
/-! DEFINITION. Every row of spec/opcode_table.json: 212 instructions of a 32-bit word (03_encoding R41 to R47) and
98 hardware steps (spec/95_what_each_step_holds.md), which have no encoding and whose parameters say which unit
acts, and on what. A field keeps the name the manual's format gives it (R42). -/
namespace Sys2Proof

/-- The instructions and hardware steps of the opcode table. -/
inductive Instr where
  /-- ADD (R64) -/
  | add (d : Reg) (a : Reg) (b : Reg) (sz : Width)
  /-- SUB (R64) -/
  | sub (d : Reg) (a : Reg) (b : Reg) (sz : Width)
  /-- MUL (R65) -/
  | mul (d : Reg) (a : Reg) (b : Reg) (sz : Width)
  /-- MULH (R65) -/
  | mulh (d : Reg) (a : Reg) (b : Reg) (sz : Width)
  /-- MULHN (R65) -/
  | mulhn (d : Reg) (a : Reg) (b : Reg) (sz : Width)
  /-- DIV (R66) -/
  | div (d : Reg) (a : Reg) (b : Reg) (sz : Width)
  /-- DIVN (R66) -/
  | divn (d : Reg) (a : Reg) (b : Reg) (sz : Width)
  /-- REM (R66) -/
  | rem (d : Reg) (a : Reg) (b : Reg) (sz : Width)
  /-- REMN (R66) -/
  | remn (d : Reg) (a : Reg) (b : Reg) (sz : Width)
  /-- AND (R64) -/
  | and (d : Reg) (a : Reg) (b : Reg) (sz : Width)
  /-- ANDN (R64) -/
  | andn (d : Reg) (a : Reg) (b : Reg) (sz : Width)
  /-- OR (R64) -/
  | or (d : Reg) (a : Reg) (b : Reg) (sz : Width)
  /-- XOR (R64) -/
  | xor (d : Reg) (a : Reg) (b : Reg) (sz : Width)
  /-- SHL (R67) -/
  | shl (d : Reg) (a : Reg) (b : Reg) (sz : Width)
  /-- SHR (R67) -/
  | shr (d : Reg) (a : Reg) (b : Reg) (sz : Width)
  /-- SRA (R67) -/
  | sra (d : Reg) (a : Reg) (b : Reg) (sz : Width)
  /-- ROL (R67) -/
  | rol (d : Reg) (a : Reg) (b : Reg) (sz : Width)
  /-- ROR (R67) -/
  | ror (d : Reg) (a : Reg) (b : Reg) (sz : Width)
  /-- MIN (R64) -/
  | min (d : Reg) (a : Reg) (b : Reg) (sz : Width)
  /-- MAX (R64) -/
  | max (d : Reg) (a : Reg) (b : Reg) (sz : Width)
  /-- MINN (R64) -/
  | minn (d : Reg) (a : Reg) (b : Reg) (sz : Width)
  /-- MAXN (R64) -/
  | maxn (d : Reg) (a : Reg) (b : Reg) (sz : Width)
  /-- SEL (R68) -/
  | sel (d : Reg) (a : Reg) (b : Reg)
  /-- CMPEQ (R68) -/
  | cmpeq (d : Reg) (a : Reg) (b : Reg) (sz : Width)
  /-- CMPNE (R68) -/
  | cmpne (d : Reg) (a : Reg) (b : Reg) (sz : Width)
  /-- CMPLT (R68) -/
  | cmplt (d : Reg) (a : Reg) (b : Reg) (sz : Width)
  /-- CMPLTN (R68) -/
  | cmpltn (d : Reg) (a : Reg) (b : Reg) (sz : Width)
  /-- CMPLE (R68) -/
  | cmple (d : Reg) (a : Reg) (b : Reg) (sz : Width)
  /-- CMPLEN (R68) -/
  | cmplen (d : Reg) (a : Reg) (b : Reg) (sz : Width)
  /-- ABS (R69) -/
  | abs (d : Reg) (a : Reg) (sz : Width)
  /-- NEG (R64) -/
  | neg (d : Reg) (a : Reg) (sz : Width)
  /-- CLZ (R69) -/
  | clz (d : Reg) (a : Reg) (sz : Width)
  /-- CTZ (R69) -/
  | ctz (d : Reg) (a : Reg) (sz : Width)
  /-- POPC (R69) -/
  | popc (d : Reg) (a : Reg) (sz : Width)
  /-- BREV (R69) -/
  | brev (d : Reg) (a : Reg) (sz : Width)
  /-- BFX (R70) -/
  | bfx (d : Reg) (a : Reg) (b : Reg)
  /-- BFXS (R70) -/
  | bfxs (d : Reg) (a : Reg) (b : Reg)
  /-- BFI (R70) -/
  | bfi (d : Reg) (a : Reg) (b : Reg)
  /-- SEXT (R71) -/
  | sext (d : Reg) (a : Reg) (sz : Width)
  /-- ZEXT (R71) -/
  | zext (d : Reg) (a : Reg) (sz : Width)
  /-- MOV (R71) -/
  | mov (d : Reg) (a : Reg)
  /-- ADDI (R73) -/
  | addi (d : Reg) (a : Reg) (imm : BitVec 18)
  /-- ANDI (R73) -/
  | andi (d : Reg) (a : Reg) (imm : BitVec 18)
  /-- ORI (R73) -/
  | ori (d : Reg) (a : Reg) (imm : BitVec 18)
  /-- XORI (R73) -/
  | xori (d : Reg) (a : Reg) (imm : BitVec 18)
  /-- MULI (R73) -/
  | muli (d : Reg) (a : Reg) (imm : BitVec 18)
  /-- SHLI (R74) -/
  | shli (d : Reg) (a : Reg) (k : BitVec 6)
  /-- SHRI (R74) -/
  | shri (d : Reg) (a : Reg) (k : BitVec 6)
  /-- SRAI (R74) -/
  | srai (d : Reg) (a : Reg) (k : BitVec 6)
  /-- CMPI (R75) -/
  | cmpi (d : Reg) (a : Reg) (c : Cond) (m : BitVec 14)
  /-- MOVW (R77) -/
  | movw (d : Reg) (hw : BitVec 2) (keep : Bool) (imm : BitVec 16)
  /-- LEA (R78) -/
  | lea (t : Reg) (a : Reg) (g : SegNo) (sz : MSize) (off : BitVec 10)
  /-- B (R81) -/
  | b (c : Cond) (a : Reg) (disp : BitVec 18)
  /-- BC (R81) -/
  | bc (c : Cond) (a : Reg) (b : Reg) (disp : BitVec 14)
  /-- LOOP (R81) -/
  | loop (a : Reg) (disp : BitVec 18)
  /-- CALL (R82) -/
  | call (disp : BitVec 26)
  /-- JR (R82) -/
  | jr (a : Reg)
  /-- RET (R82) -/
  | ret
  /-- CALLR (R82) -/
  | callr (a : Reg)
  /-- REPF (R83) -/
  | repf (n : BitVec 5) (len : BitVec 4) (dv : BitVec 5) (dx : BitVec 4)
  /-- BURN (R88) -/
  | burn (h : Reg) (un : BitVec 2) (mn : BitVec 9) (mx : BitVec 11)
  /-- BURNR (R89) -/
  | burnr (h : Reg) (a : Reg) (b : Reg)
  /-- BURNQ (R90) -/
  | burnq (d : Reg)
  /-- BURNE (R91) -/
  | burne
  /-- LD (R132) -/
  | ld (t : Reg) (a : Reg) (g : SegNo) (sz : MSize) (acq : Bool) (off : BitVec 10)
  /-- LDN (R132) -/
  | ldn (t : Reg) (a : Reg) (g : SegNo) (sz : MSize) (acq : Bool) (off : BitVec 10)
  /-- ST (R132) -/
  | st (t : Reg) (a : Reg) (g : SegNo) (sz : MSize) (rel : Bool) (off : BitVec 10)
  /-- LDV (R134) -/
  | ldv (v : VReg) (a : Reg) (g : SegNo) (sz : VSize) (acq : Bool) (off : BitVec 9)
  /-- STV (R134) -/
  | stv (v : VReg) (a : Reg) (g : SegNo) (sz : VSize) (rel : Bool) (off : BitVec 9)
  /-- LDVG (R134) -/
  | ldvg (v : VReg) (i : VReg) (b : Reg) (g : SegNo) (ty : Ty) (mk : Bool)
  /-- STVS (R134) -/
  | stvs (v : VReg) (i : VReg) (b : Reg) (g : SegNo) (ty : Ty) (mk : Bool)
  /-- LDF (R124) -/
  | ldf (t : Reg) (a : Reg) (g : SegNo) (sc : Scope)
  /-- LDFE (R136) -/
  | ldfe (t : Reg) (a : Reg) (g : SegNo) (sc : Scope)
  /-- STF (R124) -/
  | stf (t : Reg) (a : Reg) (g : SegNo) (sc : Scope)
  /-- STEF (R136) -/
  | stef (t : Reg) (a : Reg) (g : SegNo) (sc : Scope)
  /-- TAGRD (R136) -/
  | tagrd (t : Reg) (a : Reg) (g : SegNo) (sc : Scope)
  /-- TAGSET (R124) -/
  | tagset (v : Reg) (a : Reg) (g : SegNo) (sc : Scope)
  /-- AADD (R137) -/
  | aadd (t : Reg) (a : Reg) (g : SegNo) (b : Reg) (w : Bool) (ret : Bool) (o : MemOrd) (sc : Scope)
  /-- AAND (R137) -/
  | aand (t : Reg) (a : Reg) (g : SegNo) (b : Reg) (w : Bool) (ret : Bool) (o : MemOrd) (sc : Scope)
  /-- AOR (R137) -/
  | aor (t : Reg) (a : Reg) (g : SegNo) (b : Reg) (w : Bool) (ret : Bool) (o : MemOrd) (sc : Scope)
  /-- AXOR (R137) -/
  | axor (t : Reg) (a : Reg) (g : SegNo) (b : Reg) (w : Bool) (ret : Bool) (o : MemOrd) (sc : Scope)
  /-- AMIN (R137) -/
  | amin (t : Reg) (a : Reg) (g : SegNo) (b : Reg) (w : Bool) (ret : Bool) (o : MemOrd) (sc : Scope)
  /-- AMAX (R137) -/
  | amax (t : Reg) (a : Reg) (g : SegNo) (b : Reg) (w : Bool) (ret : Bool) (o : MemOrd) (sc : Scope)
  /-- AMINN (R137) -/
  | aminn (t : Reg) (a : Reg) (g : SegNo) (b : Reg) (w : Bool) (ret : Bool) (o : MemOrd) (sc : Scope)
  /-- AMAXN (R137) -/
  | amaxn (t : Reg) (a : Reg) (g : SegNo) (b : Reg) (w : Bool) (ret : Bool) (o : MemOrd) (sc : Scope)
  /-- AXCH (R137) -/
  | axch (t : Reg) (a : Reg) (g : SegNo) (b : Reg) (w : Bool) (ret : Bool) (o : MemOrd) (sc : Scope)
  /-- AFADD (R137) -/
  | afadd (t : Reg) (a : Reg) (g : SegNo) (b : Reg) (w : Bool) (ret : Bool) (o : MemOrd) (sc : Scope)
  /-- ACAS (R137) -/
  | acas (t : Reg) (a : Reg) (g : SegNo) (b : Reg) (w : Bool) (o : MemOrd) (sc : Scope)
  /-- AHX (R140) -/
  | ahx (t : Reg) (a : Reg) (g : SegNo) (b : Reg) (ret : Bool) (o : MemOrd) (sc : Scope)
  /-- DREDF_F64 (R143) -/
  | dredfF64 (a : Reg) (g : SegNo) (b : Reg) (sc : Scope)
  /-- DREDF_F32 (R143) -/
  | dredfF32 (a : Reg) (g : SegNo) (b : Reg) (sc : Scope)
  /-- DCLOSE_F64 (R143) -/
  | dcloseF64 (a : Reg) (g : SegNo) (sc : Scope)
  /-- DCLOSE_F32 (R143) -/
  | dcloseF32 (a : Reg) (g : SegNo) (sc : Scope)
  /-- FENCE (R147) -/
  | fence (o : MemOrd) (sc : Scope)
  /-- FENCES (R148) -/
  | fences (t : Reg) (sc : Scope)
  /-- DCWB (R149) -/
  | dcwb (a : Reg) (g : SegNo) (sc : Scope)
  /-- PF (R149) -/
  | pf (a : Reg) (g : SegNo) (sc : Scope)
  /-- PUTN (R150) -/
  | putn (d : Reg) (a : Reg) (core : BitVec 4) (slot : BitVec 4)
  /-- XCLR (R150) -/
  | xclr (d : Reg)
  /-- XPRES (R150) -/
  | xpres (d : Reg) (a : Reg)
  /-- SEND (R152) -/
  | send (d : Reg) (a : Reg) (b : Reg) (phys : Bool) (spark : Bool) (n : BitVec 3)
  /-- RECV (R153) -/
  | recv (d : Reg) (a : Reg) (b : Reg) (n : BitVec 3)
  /-- SPKRET (R154) -/
  | spkret
  /-- SPAWN (R186) -/
  | spawn (d : Reg) (a : Reg) (b : Reg) (ember : Bool) (s : BitVec 4)
  /-- REAP (R189) -/
  | reap (d : Reg) (s : BitVec 4)
  /-- LAUNCH (R187) -/
  | launch (d : Reg) (a : Reg) (b : Reg) (graph : Bool)
  /-- EXIT (R188) -/
  | exit
  /-- MIGR (R190) -/
  | migr (d : Reg) (a : Reg)
  /-- DTASK (R191) -/
  | dtask (d : Reg)
  /-- SLOTQ (R192) -/
  | slotq (d : Reg) (a : Reg)
  /-- NOP (R119) -/
  | nop
  /-- HALT (R119) -/
  | halt
  /-- WFI (R119) -/
  | wfi
  /-- YIELD (R119) -/
  | yield
  /-- ISYNC (R120) -/
  | isync
  /-- ERET (R122) -/
  | eret
  /-- UIRET (R122) -/
  | uiret
  /-- TRAP (R119) -/
  | trap (code : BitVec 12)
  /-- BRK (R117) -/
  | brk (code : BitVec 12)
  /-- MFC (R121) -/
  | mfc (d : Reg) (crn : BitVec 12)
  /-- MTC (R121) -/
  | mtc (a : Reg) (crn : BitVec 12)
  /-- SEGLD (R121) -/
  | segld (b : Reg) (a : Reg) (n : SegNo)
  /-- SEGRD (R121) -/
  | segrd (d : Reg) (p : Bool) (n : SegNo)
  /-- TLBI (R123) -/
  | tlbi (a : Reg) (k : BitVec 2) (sc : Scope)
  /-- VADD (R224) -/
  | vadd (d : VReg) (a : VReg) (b : VReg) (ty : Ty) (mk : Bool)
  /-- VSUB (R224) -/
  | vsub (d : VReg) (a : VReg) (b : VReg) (ty : Ty) (mk : Bool)
  /-- VMUL (R224) -/
  | vmul (d : VReg) (a : VReg) (b : VReg) (ty : Ty) (mk : Bool)
  /-- VMULH (R224) -/
  | vmulh (d : VReg) (a : VReg) (b : VReg) (ty : Ty) (mk : Bool)
  /-- VADDS (R224) -/
  | vadds (d : VReg) (a : VReg) (b : VReg) (ty : Ty) (mk : Bool)
  /-- VSUBS (R224) -/
  | vsubs (d : VReg) (a : VReg) (b : VReg) (ty : Ty) (mk : Bool)
  /-- VMIN (R224) -/
  | vmin (d : VReg) (a : VReg) (b : VReg) (ty : Ty) (mk : Bool)
  /-- VMAX (R224) -/
  | vmax (d : VReg) (a : VReg) (b : VReg) (ty : Ty) (mk : Bool)
  /-- VAND (R224) -/
  | vand (d : VReg) (a : VReg) (b : VReg) (ty : Ty) (mk : Bool)
  /-- VOR (R224) -/
  | vor (d : VReg) (a : VReg) (b : VReg) (ty : Ty) (mk : Bool)
  /-- VXOR (R224) -/
  | vxor (d : VReg) (a : VReg) (b : VReg) (ty : Ty) (mk : Bool)
  /-- VSHL (R224) -/
  | vshl (d : VReg) (a : VReg) (b : VReg) (ty : Ty) (mk : Bool)
  /-- VSHR (R224) -/
  | vshr (d : VReg) (a : VReg) (b : VReg) (ty : Ty) (mk : Bool)
  /-- VSRA (R224) -/
  | vsra (d : VReg) (a : VReg) (b : VReg) (ty : Ty) (mk : Bool)
  /-- VABS (R224) -/
  | vabs (d : VReg) (a : VReg) (ty : Ty) (mk : Bool)
  /-- VFADD (R225) -/
  | vfadd (d : VReg) (a : VReg) (b : VReg) (ty : Ty) (mk : Bool)
  /-- VFSUB (R225) -/
  | vfsub (d : VReg) (a : VReg) (b : VReg) (ty : Ty) (mk : Bool)
  /-- VFMUL (R225) -/
  | vfmul (d : VReg) (a : VReg) (b : VReg) (ty : Ty) (mk : Bool)
  /-- VFMIN (R225) -/
  | vfmin (d : VReg) (a : VReg) (b : VReg) (ty : Ty) (mk : Bool)
  /-- VFMAX (R225) -/
  | vfmax (d : VReg) (a : VReg) (b : VReg) (ty : Ty) (mk : Bool)
  /-- VFABS (R225) -/
  | vfabs (d : VReg) (a : VReg) (ty : Ty) (mk : Bool)
  /-- VFNEG (R225) -/
  | vfneg (d : VReg) (a : VReg) (ty : Ty) (mk : Bool)
  /-- VFMA (R226) -/
  | vfma (d : VReg) (a : VReg) (b : VReg) (ty : Ty) (mk : Bool)
  /-- VFMS (R226) -/
  | vfms (d : VReg) (a : VReg) (b : VReg) (ty : Ty) (mk : Bool)
  /-- VFNMA (R226) -/
  | vfnma (d : VReg) (a : VReg) (b : VReg) (ty : Ty) (mk : Bool)
  /-- VBCAST (R227) -/
  | vbcast (d : VReg) (b : Reg) (ty : Ty) (mk : Bool)
  /-- VINS (R227) -/
  | vins (d : VReg) (k : BitVec 6) (b : Reg) (ty : Ty)
  /-- VEXT (R227) -/
  | vext (v : VReg) (k : BitVec 6) (b : Reg) (ty : Ty)
  /-- VADDX (R227) -/
  | vaddx (d : VReg) (a : VReg) (b : Reg) (ty : Ty) (mk : Bool)
  /-- VFMULX (R227) -/
  | vfmulx (d : VReg) (a : VReg) (b : Reg) (ty : Ty) (mk : Bool)
  /-- VCMP (R229) -/
  | vcmp (n : MReg) (a : VReg) (b : VReg) (c : Cond) (ty : Ty) (mk : Bool)
  /-- VSEL (R228) -/
  | vsel (d : VReg) (a : VReg) (b : VReg) (ty : Ty)
  /-- MAND (R228) -/
  | mand (n : MReg) (a : MReg) (b : MReg)
  /-- MOR (R228) -/
  | mor (n : MReg) (a : MReg) (b : MReg)
  /-- MNOT (R228) -/
  | mnot (n : MReg) (a : MReg)
  /-- MPOPC (R228) -/
  | mpopc (x : Reg) (a : MReg) (ty : Ty) (mk : Bool)
  /-- VCVT (R230) -/
  | vcvt (d : VReg) (a : VReg) (nan : Bool) (rm : Round) (src : Ty) (p : BitVec 2) (dst : Ty) (mk : Bool)
  /-- VCVTS (R231) -/
  | vcvts (d : VReg) (a : VReg) (k : BitVec 4) (src : Ty) (p : BitVec 2) (dst : Ty) (mk : Bool)
  /-- VEXP2 (R232) -/
  | vexp2 (d : VReg) (a : VReg) (ty : Ty) (mk : Bool)
  /-- VLOG2 (R232) -/
  | vlog2 (d : VReg) (a : VReg) (ty : Ty) (mk : Bool)
  /-- VRCP (R232) -/
  | vrcp (d : VReg) (a : VReg) (ty : Ty) (mk : Bool)
  /-- VRSQ (R232) -/
  | vrsq (d : VReg) (a : VReg) (ty : Ty) (mk : Bool)
  /-- VSQRT (R232) -/
  | vsqrt (d : VReg) (a : VReg) (ty : Ty) (mk : Bool)
  /-- VTANH (R232) -/
  | vtanh (d : VReg) (a : VReg) (ty : Ty) (mk : Bool)
  /-- VSIGM (R232) -/
  | vsigm (d : VReg) (a : VReg) (ty : Ty) (mk : Bool)
  /-- VRADD (R234) -/
  | vradd (d : VReg) (a : VReg) (ty : Ty) (mk : Bool)
  /-- VRMAX (R234) -/
  | vrmax (d : VReg) (a : VReg) (ty : Ty) (mk : Bool)
  /-- VRMIN (R234) -/
  | vrmin (d : VReg) (a : VReg) (ty : Ty) (mk : Bool)
  /-- VRMAXI (R234) -/
  | vrmaxi (d : VReg) (a : VReg) (ty : Ty) (mk : Bool)
  /-- VSCAN (R235) -/
  | vscan (d : VReg) (a : VReg) (ty : Ty) (mk : Bool)
  /-- VPERM (R236) -/
  | vperm (d : VReg) (a : VReg) (b : VReg) (ty : Ty) (mk : Bool)
  /-- VSLIDE (R236) -/
  | vslide (d : VReg) (a : VReg) (k : BitVec 5) (ty : Ty) (mk : Bool)
  /-- VSLIDE_UP (R236) -/
  | vslideUp (d : VReg) (a : VReg) (k : BitVec 5) (ty : Ty) (mk : Bool)
  /-- VROT (R236) -/
  | vrot (d : VReg) (a : VReg) (k : BitVec 5) (ty : Ty) (mk : Bool)
  /-- VDOT4 (R237) -/
  | vdot4 (d : VReg) (a : VReg) (b : VReg) (ty : Ty) (mk : Bool)
  /-- VDOTF8 (R237) -/
  | vdotf8 (d : VReg) (a : VReg) (b : VReg) (ty : Ty) (mk : Bool)
  /-- VSORTK (R258) -/
  | vsortk (d : VReg) (a : VReg) (b : VReg) (ty : Ty) (mk : Bool)
  /-- VMERGEK (R258) -/
  | vmergek (d : VReg) (a : VReg) (b : VReg) (ty : Ty)
  /-- VRND (R268) -/
  | vrnd (d : VReg) (a : VReg) (mk : Bool)
  /-- DSTKP (R272) -/
  | dstkp (d : Reg) (a : Reg) (b : Reg)
  /-- DSTKA (R272) -/
  | dstka (d : Reg) (a : Reg) (b : Reg)
  /-- DSTKC (R272) -/
  | dstkc (b : Reg)
  /-- KFMT (R242) -/
  | kfmt (c : BitVec 2) (nan : Bool) (strict : Bool) (fb : KFormat) (fa : KFormat)
  /-- KMMA (R249) -/
  | kmma (t : TReg) (a : Reg) (b : Reg) (c : BitVec 2) (as : Bool) (acc : Bool)
  /-- KMMAS (R249) -/
  | kmmas (t : TReg) (a : Reg) (b : Reg) (c : BitVec 2) (as : Bool) (acc : Bool)
  /-- KMMV (R249) -/
  | kmmv (t : TReg) (b : Reg) (c : BitVec 2) (as : Bool) (acc : Bool)
  /-- KZERO (R198) -/
  | kzero (t : TReg)
  /-- KLDA (R251) -/
  | klda (t : TReg) (a : Reg) (acc : Bool)
  /-- KSTA (R198) -/
  | ksta (t : TReg) (a : Reg)
  /-- KCVT (R251) -/
  | kcvt (t : TReg) (a : Reg) (c : BitVec 2)
  /-- KSYNC (R198) -/
  | ksync
  /-- KSCALE_A (R248) -/
  | kscaleA (a : Reg) (b : Reg)
  /-- KSCALE_B (R248) -/
  | kscaleB (a : Reg) (b : Reg)
  /-- CTXSV (R252) -/
  | ctxsv (keep : Bool) (s : BitVec 4)
  /-- CTXLD (R252) -/
  | ctxld (a : Reg) (s : BitVec 4)
  /-- ACCSPILL (R198) -/
  | accspill
  /-- ACCFILL (R198) -/
  | accfill
  /-- CPYW (R295) -/
  | cpyw (a : Reg) (b : Reg) (k : BitVec 2)
  /-- CPYQ (R305) -/
  | cpyq (d : Reg)
  /-- CPYX (R305) -/
  | cpyx (d : Reg)
  /-- CPY (R299) -/
  | cpy (d : Reg) (o : MemOrd) (sc : Scope)
  /-- CPYT (R300) -/
  | cpyt (d : Reg) (o : MemOrd) (sc : Scope)
  /-- CPYK (R301) -/
  | cpyk (d : Reg) (o : MemOrd) (sc : Scope)
  /-- CPYS (R307) -/
  | cpys (d : Reg) (o : MemOrd) (sc : Scope)
  /-- MWIN_COUNT (R312) -/
  | mwinCount (d : Reg)
  /-- MWIN (R312) -/
  | mwin (d : Reg) (a : Reg)
  /-- MTICK (R312) -/
  | mtick (d : Reg)
  /-- MACK (R312) -/
  | mack (a : Reg)
  /-- FRAME_ISSUE (R85) -/
  | frameIssue (core : Nat)
  /-- SEQUENCER_RELEASE (R85) -/
  | sequencerRelease (core : Nat)
  /-- BURNE_COMPLETE (R14) -/
  | burneComplete (slot : Nat)
  /-- BURN_HANDLER_ENTRY (R94) -/
  | burnHandlerEntry (slot : Nat)
  /-- HANDLER_OVERRUN (R95) -/
  | handlerOverrun (slot : Nat)
  /-- ATOMIC_PERFORM (R139) -/
  | atomicPerform (k : Nat)
  /-- REDUCTION_CONTRIBUTION (R144) -/
  | reductionContribution (k : Nat)
  /-- REDUCTION_ADMIT (R144) -/
  | reductionAdmit (grate : Nat) (k : Nat)
  /-- REDUCTION_CLOSE (R144) -/
  | reductionClose (k : Nat)
  /-- PUTN_DELIVERY (R150) -/
  | putnDelivery (slot : Nat)
  /-- MESSAGE_DELIVERY (R151) -/
  | messageDelivery (k : Nat)
  /-- SPARK_HANDLER_START (R154) -/
  | sparkHandlerStart (core : Nat)
  /-- ILLEGAL_WORD (R48) -/
  | illegalWord (w : Word32)
  /-- DEFERRED_TRAP (R107) -/
  | deferredTrap (slot : Nat)
  /-- TLBI_ACK (R292) -/
  | tlbiAck (slot : Nat)
  /-- PART_WRITE (R34) -/
  | partWrite (core : Nat) (v : Word)
  /-- USER_INTERRUPT_ENTRY (R114) -/
  | userInterruptEntry (slot : Nat)
  /-- TAGWAIT (R23) -/
  | tagwait (slot : Nat)
  /-- SLOT_WAKE (R22) -/
  | slotWake (slot : Nat)
  /-- LOAD_FILL (R27) -/
  | loadFill (slot : Nat) (k : Nat)
  /-- VECTOR_LOAD_FILL (R28) -/
  | vectorLoadFill (slot : Nat) (k : Nat)
  /-- STORE_BUFFER_DRAIN (R133) -/
  | storeBufferDrain (slot : Nat)
  /-- L2_EVICTION (R161) -/
  | l2Eviction (hearth : Nat) (line : Nat)
  /-- HOME_MERGE (R161) -/
  | homeMerge (hearth : Nat) (line : Nat)
  /-- EMBER_ARRIVAL (R25) -/
  | emberArrival (clamp : Nat) (pkg : Nat) (slot : Nat) (p : EmberPacket)
  /-- EMBER_HANDOFF (R25) -/
  | emberHandoff (clamp : Nat)
  /-- EMBERACK (R335) -/
  | emberack (slot : Nat) (ok : Bool)
  /-- HALT_REQUEST (R118) -/
  | haltRequest (slot : Nat)
  /-- RESUME_REQUEST (R118) -/
  | resumeRequest (slot : Nat)
  /-- SPARK_DELIVERY (R18) -/
  | sparkDelivery (core : Nat)
  /-- LAUNCH_ACCEPT (R173) -/
  | launchAccept (hearth : Nat) (rcba : Nat)
  /-- OVERFLOW_MOVE (R174) -/
  | overflowMove (hearth : Nat)
  /-- PRIORITY_AGING (R176) -/
  | priorityAging (hearth : Nat)
  /-- PLACEMENT (R177) -/
  | placement (hearth : Nat)
  /-- PREEMPT (R179) -/
  | preempt (hearth : Nat) (rcba : Nat)
  /-- GROUP_COMPLETE (R181) -/
  | groupComplete (hearth : Nat) (rcba : Nat)
  /-- CHECKED_RERUN (R357) -/
  | checkedRerun (hearth : Nat) (rcba : Nat)
  /-- L2_WRITEBACK_FAIL (R356) -/
  | l2WritebackFail (hearth : Nat) (line : Nat)
  /-- PAGE_WALK (R285) -/
  | pageWalk (clamp : Nat) (root : Nat) (va : Nat) (write : Bool)
  /-- PAGE_FAULT_WAKE (R288) -/
  | pageFaultWake (slot : Nat) (token : Nat) (decline : Bool)
  /-- KILN_GRANT (R239) -/
  | kilnGrant (clamp : Nat)
  /-- KILN_RETIRE (R240) -/
  | kilnRetire (core : Nat)
  /-- COMMAND_ACCEPT (R298) -/
  | commandAccept (core : Nat)
  /-- CPYK_KILN_ISSUE (R301) -/
  | cpykKilnIssue (core : Nat) (k : Nat)
  /-- COPY_COMPLETE (R302) -/
  | copyComplete (core : Nat) (k : Nat)
  /-- COPY_FAULT_RESUME (R304) -/
  | copyFaultResume (core : Nat) (k : Nat) (decline : Bool)
  /-- NVME_READ_COMPLETE (R307) -/
  | nvmeReadComplete (k : Nat) (error : Bool) (data : List Byte)
  /-- STORAGE_CONTROLLER_RESET (R354) -/
  | storageControllerReset
  /-- KEY_SLOT_INSTALL (R307) -/
  | keySlotInstall (n : Nat) (kmac : List Byte) (ed448 : List Byte)
  /-- TICK (R342) -/
  | tick (n : Nat)
  /-- SLIPPED_TICK_LAUNCH (R344) -/
  | slippedTickLaunch (n : Nat)
  /-- RECORD_PRESENT (R340) -/
  | recordPresent (n : Nat)
  /-- RECORD_EXPIRE (R343) -/
  | recordExpire (n : Nat)
  /-- DTADJ_STEP (R338) -/
  | dtadjStep (v : Word)
  /-- TIME_REFERENCE_INPUT (R337) -/
  | timeReferenceInput (r : TimeReference)
  /-- FLIT_RECEIVE (R320) -/
  | flitReceive (port : Nat) (f : LinkFlit)
  /-- LACK (R320) -/
  | lack (port : Nat) (seq : Nat) (nak : Bool)
  /-- LINK_DOWN (R320) -/
  | linkDown (port : Nat)
  /-- PAUSE (R321) -/
  | pause (port : Nat) (on : Bool)
  /-- KEYX (R322) -/
  | keyx (port : Nat) (m : KeyExchange)
  /-- REKEY_START (R323) -/
  | rekeyStart (port : Nat)
  /-- KEYOUT (R323) -/
  | keyout (port : Nat)
  /-- KEYOUT_TIMEOUT (R323) -/
  | keyoutTimeout (port : Nat)
  /-- WRITE_ARRIVAL (R328) -/
  | writeArrival (grate : Nat) (f : WriteFlit)
  /-- RELEASE_ARRIVAL (R329) -/
  | releaseArrival (grate : Nat) (f : ReleaseFlit)
  /-- FLAGACK (R327) -/
  | flagack (a : WindowName)
  /-- SHORTFALL_TIMEOUT (R330) -/
  | shortfallTimeout (grate : Nat) (a : WindowName)
  /-- SHORTFALL (R330) -/
  | shortfall (a : WindowName) (bitmap : Nat)
  /-- GIVEUP (R330) -/
  | giveup (a : WindowName) (bitmap : Nat)
  /-- NOTABLE (R328) -/
  | notable (a : WindowName) (seq : Nat)
  /-- NOTABLE_RETRY (R328) -/
  | notableRetry (a : WindowName) (seq : Nat)
  /-- STREAM_ENTRY_FREE (R328) -/
  | streamEntryFree (grate : Nat) (sid : Nat)
  /-- PROBE (R331) -/
  | probe (grate : Nat) (f : ReleaseFlit)
  /-- PROBEACK (R331) -/
  | probeack (a : WindowName) (frozen : Bool)
  /-- DEADLINK_TIMEOUT (R331) -/
  | deadlinkTimeout (pkg : Nat)
  /-- FROZEN (R332) -/
  | frozen (a : WindowName)
  /-- FZCTL_RETRY (R332) -/
  | fzctlRetry (grate : Nat) (token : Nat)
  /-- FZCTL_REFUSE (R332) -/
  | fzctlRefuse (grate : Nat) (token : Nat)
  /-- RESUME (R332) -/
  | resume (a : WindowName) (refused : Option Nat)
  /-- REMOTE_READ (R317) -/
  | remoteRead (grate : Nat) (f : ReadFlit)
  /-- AHLOAD_LOAD (R334) -/
  | ahloadLoad (n : Nat)
  /-- AHLOAD_UNLOAD (R333) -/
  | ahloadUnload (n : Nat)
  /-- RING_TAIL_WRITE (R352) -/
  | ringTailWrite (n : Nat) (v : Word)
  /-- RING_RECORD (R352) -/
  | ringRecord (n : Nat)
  /-- RING_RESUME (R353) -/
  | ringResume (n : Nat)
  /-- RING_ENABLE (R351) -/
  | ringEnable (n : Nat) (v : Word)
  /-- HOST_WRITE (R169) -/
  | hostWrite (place : HostAddr) (data : List Byte)
  /-- HOST_READ (R169) -/
  | hostRead (place : HostAddr) (size : Nat)
  /-- REGISTER_WRITE (R8) -/
  | registerWrite (crn : Nat) (idx : Nat) (v : Word)
  /-- ISLCEIL_WRITE (R365) -/
  | islceilWrite (island : Nat) (v : Word)
  /-- ISLAND_POWER_SAMPLE (R360) -/
  | islandPowerSample (island : Nat) (power : Nat)
  /-- SCRUB (R355) -/
  | scrub (place : ScrubAt) (found : Option Bool)
  /-- PACKAGE_FAILOVER (R358) -/
  | packageFailover (pkg : Nat) (spare : Nat)
  /-- DEVICE_RESET (R39) -/
  | deviceReset
  /-- BOOT (R361) -/
  | boot (image : List Byte)
  /-- ATTESTATION_REQUEST (R362) -/
  | attestationRequest (nonce : List Byte)
  /-- CORE_RESET (R110) -/
  | coreReset (core : Nat)
  /-- POWER_GATE (R293) -/
  | powerGate (clamp : Nat) (on : Bool)
  deriving DecidableEq, Repr

end Sys2Proof
end

