-- ==== Sys2Proof/WellFormed.lean ====
section
/-! DEFINITION. Which instructions a legal word can hold (03_encoding R48 and the type lists of the owning
chapters). A hardware step is always well formed. -/
namespace Sys2Proof

/-- Lane width of a type (R220); an e2m1 element has 4 bits (R204). -/
def Ty.bits : Ty → Nat
  | .s8 => 8 | .n8 => 8 | .s16 => 16 | .n16 => 16 | .s32 => 32 | .n32 => 32 | .s64 => 64 | .n64 => 64
  | .f16 => 16 | .bf16 => 16 | .f32 => 32 | .f64 => 64 | .e4m3 => 8 | .e5m2 => 8 | .e2m1 => 4

/-- Lane count L = 512 / w (R220). -/
def Ty.lanes (t : Ty) : Nat := 512 / t.bits

/-- Integer types, codes 0 to 7. -/
def Ty.isInt : Ty → Bool
  | .s8 | .n8 | .s16 | .n16 | .s32 | .n32 | .s64 | .n64 => true
  | _ => false

/-- The signed integer types. -/
def Ty.isSigned : Ty → Bool
  | .s8 | .s16 | .s32 | .s64 => true
  | _ => false

/-- The types of VFP: f16, bf16, f32, f64 (R220). -/
def Ty.isFloat : Ty → Bool
  | .f16 | .bf16 | .f32 | .f64 => true
  | _ => false

/-- The conditions VCMP accepts on float types: EQ, NE, LT, GE, LE, GT (R229). -/
def Cond.isSignedCond : Cond → Bool
  | .eq | .ne | .lt | .ge | .le | .gt => true
  | _ => false

/-- The type pairs and parts of VCVT (R230): types differ, r ≤ 4 and p < r. -/
def cvtLegal (dst src : Ty) (p : Nat) : Bool :=
  dst != src && decide (max dst.bits src.bits ≤ 4 * min dst.bits src.bits) &&
    decide (p < max dst.bits src.bits / min dst.bits src.bits)

/-- The format pairs of R241. -/
def fmtPair (fa fb : KFormat) : Bool :=
  match fa, fb with
  | .bf16, .bf16 => true
  | .f16, .f16 => true
  | .e2m1, .e2m1 => true
  | .e4m3, .e4m3 | .e4m3, .e5m2 | .e4m3, .ce8 | .e5m2, .e4m3 | .e5m2, .e5m2 | .e5m2, .ce8
  | .ce8, .e4m3 | .ce8, .e5m2 | .ce8, .ce8 => true
  | _, _ => false

/-- A descriptor pair is named by its even register (R43, R48). -/
def evenReg (r : Reg) : Bool := r.toNat % 2 == 0

/-- Whether some legal word holds the instruction (R48). -/
def wellFormed : Instr → Bool
  | .add _ _ _ _ => true
  | .sub _ _ _ _ => true
  | .mul _ _ _ _ => true
  | .mulh _ _ _ _ => true
  | .mulhn _ _ _ _ => true
  | .div _ _ _ _ => true
  | .divn _ _ _ _ => true
  | .rem _ _ _ _ => true
  | .remn _ _ _ _ => true
  | .and _ _ _ _ => true
  | .andn _ _ _ _ => true
  | .or _ _ _ _ => true
  | .xor _ _ _ _ => true
  | .shl _ _ _ _ => true
  | .shr _ _ _ _ => true
  | .sra _ _ _ _ => true
  | .rol _ _ _ _ => true
  | .ror _ _ _ _ => true
  | .min _ _ _ _ => true
  | .max _ _ _ _ => true
  | .minn _ _ _ _ => true
  | .maxn _ _ _ _ => true
  | .sel _ _ _ => true
  | .cmpeq _ _ _ _ => true
  | .cmpne _ _ _ _ => true
  | .cmplt _ _ _ _ => true
  | .cmpltn _ _ _ _ => true
  | .cmple _ _ _ _ => true
  | .cmplen _ _ _ _ => true
  | .abs _ _ _ => true
  | .neg _ _ _ => true
  | .clz _ _ _ => true
  | .ctz _ _ _ => true
  | .popc _ _ _ => true
  | .brev _ _ _ => true
  | .bfx _ _ _ => true
  | .bfxs _ _ _ => true
  | .bfi _ _ _ => true
  | .sext _ _ sz => sz != .w64
  | .zext _ _ sz => sz != .w64
  | .mov _ _ => true
  | .addi _ _ _ => true
  | .andi _ _ _ => true
  | .ori _ _ _ => true
  | .xori _ _ _ => true
  | .muli _ _ _ => true
  | .shli _ _ _ => true
  | .shri _ _ _ => true
  | .srai _ _ _ => true
  | .cmpi _ a c m => c != .al || (a == 0 && m == 0)
  | .movw _ _ _ _ => true
  | .lea _ _ _ _ _ => true
  | .b c a _ => c != .al || a == 0
  | .bc c a b _ => c != .al || (a == 0 && b == 0)
  | .loop _ _ => true
  | .call _ => true
  | .jr a => a != 15
  | .ret => true
  | .callr _ => true
  | .repf _ _ _ _ => true
  | .burn _ _ mn mx => decide (mn.toNat ≤ mx.toNat)
  | .burnr _ _ _ => true
  | .burnq _ => true
  | .burne => true
  | .ld _ _ _ _ _ _ => true
  | .ldn _ _ _ _ _ _ => true
  | .st _ _ _ _ _ _ => true
  | .ldv _ _ _ _ _ _ => true
  | .stv _ _ _ _ _ _ => true
  | .ldvg _ _ _ _ ty _ => ty == .s32 || ty == .n32 || ty == .f32
  | .stvs _ _ _ _ ty _ => ty == .s32 || ty == .n32 || ty == .f32
  | .ldf _ _ _ _ => true
  | .ldfe _ _ _ _ => true
  | .stf _ _ _ _ => true
  | .stef _ _ _ _ => true
  | .tagrd _ _ _ _ => true
  | .tagset v _ _ _ => decide (v.toNat ≤ 1)
  | .aadd t _ _ _ _ ret _ _ => ret || t == 0
  | .aand t _ _ _ _ ret _ _ => ret || t == 0
  | .aor t _ _ _ _ ret _ _ => ret || t == 0
  | .axor t _ _ _ _ ret _ _ => ret || t == 0
  | .amin t _ _ _ _ ret _ _ => ret || t == 0
  | .amax t _ _ _ _ ret _ _ => ret || t == 0
  | .aminn t _ _ _ _ ret _ _ => ret || t == 0
  | .amaxn t _ _ _ _ ret _ _ => ret || t == 0
  | .axch t _ _ _ _ ret _ _ => ret || t == 0
  | .afadd t _ _ _ _ ret _ _ => ret || t == 0
  | .acas _ _ _ _ _ _ _ => true
  | .ahx _ _ _ _ _ _ _ => true
  | .dredfF64 _ _ _ sc => sc == .pkg || sc == .sys
  | .dredfF32 _ _ _ sc => sc == .pkg || sc == .sys
  | .dcloseF64 _ _ sc => sc == .pkg || sc == .sys
  | .dcloseF32 _ _ sc => sc == .pkg || sc == .sys
  | .fence _ _ => true
  | .fences _ _ => true
  | .dcwb _ _ sc => sc == .pkg || sc == .sys
  | .pf _ _ sc => sc == .core || sc == .hearth || sc == .pkg
  | .putn _ _ _ _ => true
  | .xclr _ => true
  | .xpres _ _ => true
  | .send _ _ _ _ _ _ => true
  | .recv _ _ _ _ => true
  | .spkret => true
  | .spawn _ _ _ _ s => decide (1 ≤ s.toNat ∧ s.toNat ≤ 13)
  | .reap _ s => decide (1 ≤ s.toNat ∧ s.toNat ≤ 14)
  | .launch _ _ _ _ => true
  | .exit => true
  | .migr _ _ => true
  | .dtask _ => true
  | .slotq _ _ => true
  | .nop => true
  | .halt => true
  | .wfi => true
  | .yield => true
  | .isync => true
  | .eret => true
  | .uiret => true
  | .trap _ => true
  | .brk _ => true
  | .mfc _ _ => true
  | .mtc _ _ => true
  | .segld _ _ _ => true
  | .segrd _ _ _ => true
  | .tlbi _ k sc => k != 3 && sc != .core
  | .vadd _ _ _ ty _ => ty.isInt
  | .vsub _ _ _ ty _ => ty.isInt
  | .vmul _ _ _ ty _ => ty.isInt
  | .vmulh _ _ _ ty _ => ty.isInt
  | .vadds _ _ _ ty _ => ty.isInt
  | .vsubs _ _ _ ty _ => ty.isInt
  | .vmin _ _ _ ty _ => ty.isInt
  | .vmax _ _ _ ty _ => ty.isInt
  | .vand _ _ _ ty _ => ty.isInt
  | .vor _ _ _ ty _ => ty.isInt
  | .vxor _ _ _ ty _ => ty.isInt
  | .vshl _ _ _ ty _ => ty.isInt
  | .vshr _ _ _ ty _ => ty.isInt
  | .vsra _ _ _ ty _ => ty.isInt
  | .vabs _ _ ty _ => ty.isSigned
  | .vfadd _ _ _ ty _ => ty.isFloat
  | .vfsub _ _ _ ty _ => ty.isFloat
  | .vfmul _ _ _ ty _ => ty.isFloat
  | .vfmin _ _ _ ty _ => ty.isFloat
  | .vfmax _ _ _ ty _ => ty.isFloat
  | .vfabs _ _ ty _ => ty.isFloat
  | .vfneg _ _ ty _ => ty.isFloat
  | .vfma _ _ _ ty _ => ty.isFloat
  | .vfms _ _ _ ty _ => ty.isFloat
  | .vfnma _ _ _ ty _ => ty.isFloat
  | .vbcast _ _ ty _ => ty != .e2m1
  | .vins _ k _ ty => ty != .e2m1 && decide (k.toNat < ty.lanes)
  | .vext _ k _ ty => ty != .e2m1 && decide (k.toNat < ty.lanes)
  | .vaddx _ _ _ ty _ => ty.isInt || ty.isFloat
  | .vfmulx _ _ _ ty _ => ty.isFloat
  | .vcmp _ _ _ c ty _ => c != .al && (ty.isInt || (ty.isFloat && c.isSignedCond))
  | .vsel _ _ _ ty => ty != .e2m1
  | .mand _ _ _ => true
  | .mor _ _ _ => true
  | .mnot _ _ => true
  | .mpopc _ _ ty _ => ty != .e2m1
  | .vcvt _ _ _ _ src p dst _ => cvtLegal dst src p.toNat
  | .vcvts _ _ _ src p dst _ => cvtLegal dst src p.toNat && ((dst.isFloat && src.isInt) || (dst.isInt && src.isFloat))
  | .vexp2 _ _ ty _ => ty.isFloat && ty != .f64
  | .vlog2 _ _ ty _ => ty.isFloat && ty != .f64
  | .vrcp _ _ ty _ => ty.isFloat && ty != .f64
  | .vrsq _ _ ty _ => ty.isFloat && ty != .f64
  | .vsqrt _ _ ty _ => ty.isFloat && ty != .f64
  | .vtanh _ _ ty _ => ty.isFloat && ty != .f64
  | .vsigm _ _ ty _ => ty.isFloat && ty != .f64
  | .vradd _ _ ty _ => ty.isInt || ty.isFloat
  | .vrmax _ _ ty _ => ty.isInt || ty.isFloat
  | .vrmin _ _ ty _ => ty.isInt || ty.isFloat
  | .vrmaxi _ _ ty _ => ty.isInt || ty.isFloat
  | .vscan _ _ ty _ => ty.isInt || ty.isFloat
  | .vperm _ _ _ ty _ => ty != .e2m1
  | .vslide _ _ _ ty _ => ty != .e2m1
  | .vslideUp _ _ _ ty _ => ty != .e2m1
  | .vrot _ _ _ ty _ => ty != .e2m1
  | .vdot4 _ _ _ ty _ => ty == .s8 || ty == .n8
  | .vdotf8 _ _ _ ty _ => ty == .e4m3 || ty == .e5m2
  | .vsortk _ _ _ ty _ => ty == .s32 || ty == .n32 || ty == .f32
  | .vmergek _ _ _ ty => ty == .s32 || ty == .n32 || ty == .f32
  | .vrnd _ _ _ => true
  | .dstkp _ _ _ => true
  | .dstka _ _ _ => true
  | .dstkc _ => true
  | .kfmt _ _ _ fb fa => fmtPair fa fb
  | .kmma _ a b _ _ _ => evenReg a && evenReg b
  | .kmmas _ a b _ _ _ => evenReg a && evenReg b
  | .kmmv _ b _ _ _ => evenReg b
  | .kzero _ => true
  | .klda _ a _ => evenReg a
  | .ksta _ a => evenReg a
  | .kcvt _ a _ => evenReg a
  | .ksync => true
  | .kscaleA _ _ => true
  | .kscaleB _ _ => true
  | .ctxsv _ s => decide (1 ≤ s.toNat ∧ s.toNat ≤ 13)
  | .ctxld _ s => decide (1 ≤ s.toNat ∧ s.toNat ≤ 13)
  | .accspill => true
  | .accfill => true
  | .cpyw _ _ _ => true
  | .cpyq _ => true
  | .cpyx _ => true
  | .cpy _ _ _ => true
  | .cpyt _ _ _ => true
  | .cpyk _ _ _ => true
  | .cpys _ _ _ => true
  | .mwinCount _ => true
  | .mwin _ _ => true
  | .mtick _ => true
  | .mack _ => true
  | .frameIssue _ => true
  | .sequencerRelease _ => true
  | .burneComplete _ => true
  | .burnHandlerEntry _ => true
  | .handlerOverrun _ => true
  | .atomicPerform _ => true
  | .reductionContribution _ => true
  | .reductionAdmit _ _ => true
  | .reductionClose _ => true
  | .putnDelivery _ => true
  | .messageDelivery _ => true
  | .sparkHandlerStart _ => true
  | .illegalWord _ => true
  | .deferredTrap _ => true
  | .tlbiAck _ => true
  | .partWrite _ _ => true
  | .userInterruptEntry _ => true
  | .tagwait _ => true
  | .slotWake _ => true
  | .loadFill _ _ => true
  | .vectorLoadFill _ _ => true
  | .storeBufferDrain _ => true
  | .l2Eviction _ _ => true
  | .homeMerge _ _ => true
  | .emberArrival _ _ _ _ => true
  | .emberHandoff _ => true
  | .emberack _ _ => true
  | .haltRequest _ => true
  | .resumeRequest _ => true
  | .sparkDelivery _ => true
  | .launchAccept _ _ => true
  | .overflowMove _ => true
  | .priorityAging _ => true
  | .placement _ => true
  | .preempt _ _ => true
  | .groupComplete _ _ => true
  | .checkedRerun _ _ => true
  | .l2WritebackFail _ _ => true
  | .pageWalk _ _ _ _ => true
  | .pageFaultWake _ _ _ => true
  | .kilnGrant _ => true
  | .kilnRetire _ => true
  | .commandAccept _ => true
  | .cpykKilnIssue _ _ => true
  | .copyComplete _ _ => true
  | .copyFaultResume _ _ _ => true
  | .nvmeReadComplete _ _ _ => true
  | .storageControllerReset => true
  | .keySlotInstall _ _ _ => true
  | .tick _ => true
  | .slippedTickLaunch _ => true
  | .recordPresent _ => true
  | .recordExpire _ => true
  | .dtadjStep _ => true
  | .timeReferenceInput _ => true
  | .flitReceive _ _ => true
  | .lack _ _ _ => true
  | .linkDown _ => true
  | .pause _ _ => true
  | .keyx _ _ => true
  | .rekeyStart _ => true
  | .keyout _ => true
  | .keyoutTimeout _ => true
  | .writeArrival _ _ => true
  | .releaseArrival _ _ => true
  | .flagack _ => true
  | .shortfallTimeout _ _ => true
  | .shortfall _ _ => true
  | .giveup _ _ => true
  | .notable _ _ => true
  | .notableRetry _ _ => true
  | .streamEntryFree _ _ => true
  | .probe _ _ => true
  | .probeack _ _ => true
  | .deadlinkTimeout _ => true
  | .frozen _ => true
  | .fzctlRetry _ _ => true
  | .fzctlRefuse _ _ => true
  | .resume _ _ => true
  | .remoteRead _ _ => true
  | .ahloadLoad _ => true
  | .ahloadUnload _ => true
  | .ringTailWrite _ _ => true
  | .ringRecord _ => true
  | .ringResume _ => true
  | .ringEnable _ _ => true
  | .hostWrite _ _ => true
  | .hostRead _ _ => true
  | .registerWrite _ _ _ => true
  | .islceilWrite _ _ => true
  | .islandPowerSample _ _ => true
  | .scrub _ _ => true
  | .packageFailover _ _ => true
  | .deviceReset => true
  | .boot _ => true
  | .attestationRequest _ => true
  | .coreReset _ => true
  | .powerGate _ _ => true

end Sys2Proof
end

