-- ==== Sys2Proof/Decode.lean ====
section
/-! DEFINITION. The decoder of instruction words, total on every number, rejecting by name (03_encoding R41 to R48), and the
encoder, both written from the format tables. A word is the natural number of its 32 bits. -/
namespace Sys2Proof

/-- Why a word is illegal (R48). -/
inductive DecodeError where
  /-- its major is reserved -/
  | reservedMajor
  /-- its fn value is not assigned -/
  | unassignedFunction
  /-- a z field or other reserved bit is non-zero -/
  | reservedBits
  /-- a size field holds a reserved value -/
  | reservedSize
  /-- a cond field holds a reserved value -/
  | reservedCondition
  /-- a ty field holds a reserved value -/
  | reservedType
  /-- an ord field holds a value the instruction does not take -/
  | reservedOrder
  /-- a scope field holds a reserved value -/
  | reservedScope
  /-- a rounding field holds a reserved value -/
  | reservedRounding
  /-- a kiln format code is reserved -/
  | reservedFormat
  /-- a field or a combination of fields is reserved by the owning chapter -/
  | reservedValue
  deriving DecidableEq, Repr

/-- The code of a field value. -/
def Width.code : Width → Nat
  | .w64 => 0
  | .w32 => 1
  | .w16 => 2
  | .w8 => 3

/-- The field value of a code; none where it is reserved. -/
def Width.ofCode : Nat → Option Width
  | 0 => Option.some .w64
  | 1 => Option.some .w32
  | 2 => Option.some .w16
  | 3 => Option.some .w8
  | _ => Option.none

@[simp] theorem Width.ofCode_code (x : Width) : Width.ofCode x.code = some x := by cases x <;> rfl

theorem Width.code_lt (x : Width) : x.code < 4 := by cases x <;> decide

/-- Reads a field of this kind and goes on, or rejects the word. -/
def Width.read {α : Type} (c : Nat) (k : Width → Except DecodeError α) : Except DecodeError α :=
  match Width.ofCode c with
  | Option.some x => k x
  | Option.none => .error .reservedSize

@[simp] theorem Width.read_code {α : Type} (x : Width) (k : Width → Except DecodeError α) : Width.read x.code k = k x := by
  cases x <;> rfl

/-- The code of a field value. -/
def Cond.code : Cond → Nat
  | .eq => 0
  | .ne => 1
  | .lt => 2
  | .ge => 3
  | .ltn => 4
  | .gen => 5
  | .le => 6
  | .gt => 7
  | .len => 8
  | .gtn => 9
  | .al => 10

/-- The field value of a code; none where it is reserved. -/
def Cond.ofCode : Nat → Option Cond
  | 0 => Option.some .eq
  | 1 => Option.some .ne
  | 2 => Option.some .lt
  | 3 => Option.some .ge
  | 4 => Option.some .ltn
  | 5 => Option.some .gen
  | 6 => Option.some .le
  | 7 => Option.some .gt
  | 8 => Option.some .len
  | 9 => Option.some .gtn
  | 10 => Option.some .al
  | _ => Option.none

@[simp] theorem Cond.ofCode_code (x : Cond) : Cond.ofCode x.code = some x := by cases x <;> rfl

theorem Cond.code_lt (x : Cond) : x.code < 11 := by cases x <;> decide

/-- Reads a field of this kind and goes on, or rejects the word. -/
def Cond.read {α : Type} (c : Nat) (k : Cond → Except DecodeError α) : Except DecodeError α :=
  match Cond.ofCode c with
  | Option.some x => k x
  | Option.none => .error .reservedCondition

@[simp] theorem Cond.read_code {α : Type} (x : Cond) (k : Cond → Except DecodeError α) : Cond.read x.code k = k x := by
  cases x <;> rfl

/-- The code of a field value. -/
def MSize.code : MSize → Nat
  | .b8 => 0
  | .b16 => 1
  | .b32 => 2
  | .b64 => 3

/-- The field value of a code; none where it is reserved. -/
def MSize.ofCode : Nat → Option MSize
  | 0 => Option.some .b8
  | 1 => Option.some .b16
  | 2 => Option.some .b32
  | 3 => Option.some .b64
  | _ => Option.none

@[simp] theorem MSize.ofCode_code (x : MSize) : MSize.ofCode x.code = some x := by cases x <;> rfl

theorem MSize.code_lt (x : MSize) : x.code < 4 := by cases x <;> decide

/-- Reads a field of this kind and goes on, or rejects the word. -/
def MSize.read {α : Type} (c : Nat) (k : MSize → Except DecodeError α) : Except DecodeError α :=
  match MSize.ofCode c with
  | Option.some x => k x
  | Option.none => .error .reservedSize

@[simp] theorem MSize.read_code {α : Type} (x : MSize) (k : MSize → Except DecodeError α) : MSize.read x.code k = k x := by
  cases x <;> rfl

/-- The code of a field value. -/
def VSize.code : VSize → Nat
  | .v64 => 4
  | .v32 => 5

/-- The field value of a code; none where it is reserved. -/
def VSize.ofCode : Nat → Option VSize
  | 4 => Option.some .v64
  | 5 => Option.some .v32
  | _ => Option.none

@[simp] theorem VSize.ofCode_code (x : VSize) : VSize.ofCode x.code = some x := by cases x <;> rfl

theorem VSize.code_lt (x : VSize) : x.code < 6 := by cases x <;> decide

/-- Reads a field of this kind and goes on, or rejects the word. -/
def VSize.read {α : Type} (c : Nat) (k : VSize → Except DecodeError α) : Except DecodeError α :=
  match VSize.ofCode c with
  | Option.some x => k x
  | Option.none => .error .reservedSize

@[simp] theorem VSize.read_code {α : Type} (x : VSize) (k : VSize → Except DecodeError α) : VSize.read x.code k = k x := by
  cases x <;> rfl

/-- The code of a field value. -/
def Ty.code : Ty → Nat
  | .s8 => 0
  | .n8 => 1
  | .s16 => 2
  | .n16 => 3
  | .s32 => 4
  | .n32 => 5
  | .s64 => 6
  | .n64 => 7
  | .f16 => 8
  | .bf16 => 9
  | .f32 => 10
  | .f64 => 11
  | .e4m3 => 12
  | .e5m2 => 13
  | .e2m1 => 14

/-- The field value of a code; none where it is reserved. -/
def Ty.ofCode : Nat → Option Ty
  | 0 => Option.some .s8
  | 1 => Option.some .n8
  | 2 => Option.some .s16
  | 3 => Option.some .n16
  | 4 => Option.some .s32
  | 5 => Option.some .n32
  | 6 => Option.some .s64
  | 7 => Option.some .n64
  | 8 => Option.some .f16
  | 9 => Option.some .bf16
  | 10 => Option.some .f32
  | 11 => Option.some .f64
  | 12 => Option.some .e4m3
  | 13 => Option.some .e5m2
  | 14 => Option.some .e2m1
  | _ => Option.none

@[simp] theorem Ty.ofCode_code (x : Ty) : Ty.ofCode x.code = some x := by cases x <;> rfl

theorem Ty.code_lt (x : Ty) : x.code < 15 := by cases x <;> decide

/-- Reads a field of this kind and goes on, or rejects the word. -/
def Ty.read {α : Type} (c : Nat) (k : Ty → Except DecodeError α) : Except DecodeError α :=
  match Ty.ofCode c with
  | Option.some x => k x
  | Option.none => .error .reservedType

@[simp] theorem Ty.read_code {α : Type} (x : Ty) (k : Ty → Except DecodeError α) : Ty.read x.code k = k x := by
  cases x <;> rfl

/-- The code of a field value. -/
def MemOrd.code : MemOrd → Nat
  | .none => 0
  | .acq => 1
  | .rel => 2
  | .ar => 3

/-- The field value of a code; none where it is reserved. -/
def MemOrd.ofCode : Nat → Option MemOrd
  | 0 => Option.some .none
  | 1 => Option.some .acq
  | 2 => Option.some .rel
  | 3 => Option.some .ar
  | _ => Option.none

@[simp] theorem MemOrd.ofCode_code (x : MemOrd) : MemOrd.ofCode x.code = some x := by cases x <;> rfl

theorem MemOrd.code_lt (x : MemOrd) : x.code < 4 := by cases x <;> decide

/-- Reads a field of this kind and goes on, or rejects the word. -/
def MemOrd.read {α : Type} (c : Nat) (k : MemOrd → Except DecodeError α) : Except DecodeError α :=
  match MemOrd.ofCode c with
  | Option.some x => k x
  | Option.none => .error .reservedOrder

@[simp] theorem MemOrd.read_code {α : Type} (x : MemOrd) (k : MemOrd → Except DecodeError α) : MemOrd.read x.code k = k x := by
  cases x <;> rfl

/-- The code of a field value. -/
def Scope.code : Scope → Nat
  | .core => 0
  | .clamp => 1
  | .hearth => 2
  | .pkg => 3
  | .sys => 4

/-- The field value of a code; none where it is reserved. -/
def Scope.ofCode : Nat → Option Scope
  | 0 => Option.some .core
  | 1 => Option.some .clamp
  | 2 => Option.some .hearth
  | 3 => Option.some .pkg
  | 4 => Option.some .sys
  | _ => Option.none

@[simp] theorem Scope.ofCode_code (x : Scope) : Scope.ofCode x.code = some x := by cases x <;> rfl

theorem Scope.code_lt (x : Scope) : x.code < 5 := by cases x <;> decide

/-- Reads a field of this kind and goes on, or rejects the word. -/
def Scope.read {α : Type} (c : Nat) (k : Scope → Except DecodeError α) : Except DecodeError α :=
  match Scope.ofCode c with
  | Option.some x => k x
  | Option.none => .error .reservedScope

@[simp] theorem Scope.read_code {α : Type} (x : Scope) (k : Scope → Except DecodeError α) : Scope.read x.code k = k x := by
  cases x <;> rfl

/-- The code of a field value. -/
def Round.code : Round → Nat
  | .rne => 0
  | .rtz => 1
  | .rup => 2
  | .rdn => 3

/-- The field value of a code; none where it is reserved. -/
def Round.ofCode : Nat → Option Round
  | 0 => Option.some .rne
  | 1 => Option.some .rtz
  | 2 => Option.some .rup
  | 3 => Option.some .rdn
  | _ => Option.none

@[simp] theorem Round.ofCode_code (x : Round) : Round.ofCode x.code = some x := by cases x <;> rfl

theorem Round.code_lt (x : Round) : x.code < 4 := by cases x <;> decide

/-- Reads a field of this kind and goes on, or rejects the word. -/
def Round.read {α : Type} (c : Nat) (k : Round → Except DecodeError α) : Except DecodeError α :=
  match Round.ofCode c with
  | Option.some x => k x
  | Option.none => .error .reservedRounding

@[simp] theorem Round.read_code {α : Type} (x : Round) (k : Round → Except DecodeError α) : Round.read x.code k = k x := by
  cases x <;> rfl

/-- The code of a field value. -/
def KFormat.code : KFormat → Nat
  | .bf16 => 0
  | .f16 => 1
  | .e4m3 => 2
  | .e5m2 => 3
  | .e2m1 => 4
  | .ce8 => 5

/-- The field value of a code; none where it is reserved. -/
def KFormat.ofCode : Nat → Option KFormat
  | 0 => Option.some .bf16
  | 1 => Option.some .f16
  | 2 => Option.some .e4m3
  | 3 => Option.some .e5m2
  | 4 => Option.some .e2m1
  | 5 => Option.some .ce8
  | _ => Option.none

@[simp] theorem KFormat.ofCode_code (x : KFormat) : KFormat.ofCode x.code = some x := by cases x <;> rfl

theorem KFormat.code_lt (x : KFormat) : x.code < 6 := by cases x <;> decide

/-- Reads a field of this kind and goes on, or rejects the word. -/
def KFormat.read {α : Type} (c : Nat) (k : KFormat → Except DecodeError α) : Except DecodeError α :=
  match KFormat.ofCode c with
  | Option.some x => k x
  | Option.none => .error .reservedFormat

@[simp] theorem KFormat.read_code {α : Type} (x : KFormat) (k : KFormat → Except DecodeError α) : KFormat.read x.code k = k x := by
  cases x <;> rfl

/-- Requires reserved bits to be zero (R48). -/
def zeroBits (ok : Bool) (r : Except DecodeError Instr) : Except DecodeError Instr :=
  if ok then r else .error .reservedBits

/-- A field of the word as a bit vector of the width its place needs (R42). -/
def bv {n : Nat} (w lo : Nat) : BitVec n := BitVec.ofNat n (fld w lo n)

/-- A one-bit field. -/
def flag (w lo : Nat) : Bool := fld w lo 1 == 1

/-- The bit a Bool field holds. -/
def bit (b : Bool) : Nat := if b then 1 else 0

/-- The acquire mark of LD, LDN and LDV: ord is 0b00 or 0b01 (R48). -/
def readAcq (c : Nat) (k : Bool → Except DecodeError Instr) : Except DecodeError Instr :=
  match c with
  | 0 => k false
  | 1 => k true
  | _ => .error .reservedOrder

/-- The release mark of ST and STV: ord is 0b00 or 0b10 (R48). -/
def readRel (c : Nat) (k : Bool → Except DecodeError Instr) : Except DecodeError Instr :=
  match c with
  | 0 => k false
  | 2 => k true
  | _ => .error .reservedOrder

/-- Major 0x00 (R47). -/
def decodeSys0 (w : Nat) : Except DecodeError Instr :=
  match fld w 0 6 with
  | 1 => zeroBits (fld w 6 20 == 0) <| .ok .nop
  | 2 => zeroBits (fld w 6 20 == 0) <| .ok .halt
  | 3 => zeroBits (fld w 6 20 == 0) <| .ok .wfi
  | 4 => zeroBits (fld w 6 20 == 0) <| .ok .yield
  | 5 => zeroBits (fld w 6 20 == 0) <| .ok .isync
  | 6 => zeroBits (fld w 6 20 == 0) <| .ok .eret
  | 7 => zeroBits (fld w 6 20 == 0) <| .ok .uiret
  | 8 => zeroBits (fld w 18 8 == 0) <| .ok (.trap (bv w 6))
  | 9 => zeroBits (fld w 18 8 == 0) <| .ok (.brk (bv w 6))
  | _ => .error .unassignedFunction

/-- Major 0x01 (R47). -/
def decodeSys1 (w : Nat) : Except DecodeError Instr :=
  match fld w 0 6 with
  | 0 => zeroBits (fld w 18 4 == 0) <| .ok (.mfc (bv w 22) (bv w 6))
  | 1 => zeroBits (fld w 22 4 == 0) <| .ok (.mtc (bv w 18) (bv w 6))
  | 2 => zeroBits (fld w 9 9 == 0) <| .ok (.segld (bv w 22) (bv w 18) (bv w 6))
  | 3 => zeroBits (fld w 10 12 == 0) <| .ok (.segrd (bv w 22) (flag w 9) (bv w 6))
  | 4 => zeroBits (fld w 9 1 == 0 && fld w 12 6 == 0 && fld w 22 4 == 0) <| Scope.read (fld w 6 3) fun sc => .ok (.tlbi (bv w 18) (bv w 10) sc)
  | _ => .error .unassignedFunction

/-- Major 0x02 (R47). -/
def decodeAlu (w : Nat) : Except DecodeError Instr :=
  match fld w 6 8 with
  | 0 => zeroBits (fld w 0 4 == 0) <| Width.read (fld w 4 2) fun sz => .ok (.add (bv w 22) (bv w 18) (bv w 14) sz)
  | 1 => zeroBits (fld w 0 4 == 0) <| Width.read (fld w 4 2) fun sz => .ok (.sub (bv w 22) (bv w 18) (bv w 14) sz)
  | 2 => zeroBits (fld w 0 4 == 0) <| Width.read (fld w 4 2) fun sz => .ok (.mul (bv w 22) (bv w 18) (bv w 14) sz)
  | 3 => zeroBits (fld w 0 4 == 0) <| Width.read (fld w 4 2) fun sz => .ok (.mulh (bv w 22) (bv w 18) (bv w 14) sz)
  | 4 => zeroBits (fld w 0 4 == 0) <| Width.read (fld w 4 2) fun sz => .ok (.mulhn (bv w 22) (bv w 18) (bv w 14) sz)
  | 5 => zeroBits (fld w 0 4 == 0) <| Width.read (fld w 4 2) fun sz => .ok (.div (bv w 22) (bv w 18) (bv w 14) sz)
  | 6 => zeroBits (fld w 0 4 == 0) <| Width.read (fld w 4 2) fun sz => .ok (.divn (bv w 22) (bv w 18) (bv w 14) sz)
  | 7 => zeroBits (fld w 0 4 == 0) <| Width.read (fld w 4 2) fun sz => .ok (.rem (bv w 22) (bv w 18) (bv w 14) sz)
  | 8 => zeroBits (fld w 0 4 == 0) <| Width.read (fld w 4 2) fun sz => .ok (.remn (bv w 22) (bv w 18) (bv w 14) sz)
  | 16 => zeroBits (fld w 0 4 == 0) <| Width.read (fld w 4 2) fun sz => .ok (.and (bv w 22) (bv w 18) (bv w 14) sz)
  | 17 => zeroBits (fld w 0 4 == 0) <| Width.read (fld w 4 2) fun sz => .ok (.andn (bv w 22) (bv w 18) (bv w 14) sz)
  | 18 => zeroBits (fld w 0 4 == 0) <| Width.read (fld w 4 2) fun sz => .ok (.or (bv w 22) (bv w 18) (bv w 14) sz)
  | 19 => zeroBits (fld w 0 4 == 0) <| Width.read (fld w 4 2) fun sz => .ok (.xor (bv w 22) (bv w 18) (bv w 14) sz)
  | 24 => zeroBits (fld w 0 4 == 0) <| Width.read (fld w 4 2) fun sz => .ok (.shl (bv w 22) (bv w 18) (bv w 14) sz)
  | 25 => zeroBits (fld w 0 4 == 0) <| Width.read (fld w 4 2) fun sz => .ok (.shr (bv w 22) (bv w 18) (bv w 14) sz)
  | 26 => zeroBits (fld w 0 4 == 0) <| Width.read (fld w 4 2) fun sz => .ok (.sra (bv w 22) (bv w 18) (bv w 14) sz)
  | 27 => zeroBits (fld w 0 4 == 0) <| Width.read (fld w 4 2) fun sz => .ok (.rol (bv w 22) (bv w 18) (bv w 14) sz)
  | 28 => zeroBits (fld w 0 4 == 0) <| Width.read (fld w 4 2) fun sz => .ok (.ror (bv w 22) (bv w 18) (bv w 14) sz)
  | 32 => zeroBits (fld w 0 4 == 0) <| Width.read (fld w 4 2) fun sz => .ok (.min (bv w 22) (bv w 18) (bv w 14) sz)
  | 33 => zeroBits (fld w 0 4 == 0) <| Width.read (fld w 4 2) fun sz => .ok (.max (bv w 22) (bv w 18) (bv w 14) sz)
  | 34 => zeroBits (fld w 0 4 == 0) <| Width.read (fld w 4 2) fun sz => .ok (.minn (bv w 22) (bv w 18) (bv w 14) sz)
  | 35 => zeroBits (fld w 0 4 == 0) <| Width.read (fld w 4 2) fun sz => .ok (.maxn (bv w 22) (bv w 18) (bv w 14) sz)
  | 36 => zeroBits (fld w 0 6 == 0) <| .ok (.sel (bv w 22) (bv w 18) (bv w 14))
  | 40 => zeroBits (fld w 0 4 == 0) <| Width.read (fld w 4 2) fun sz => .ok (.cmpeq (bv w 22) (bv w 18) (bv w 14) sz)
  | 41 => zeroBits (fld w 0 4 == 0) <| Width.read (fld w 4 2) fun sz => .ok (.cmpne (bv w 22) (bv w 18) (bv w 14) sz)
  | 42 => zeroBits (fld w 0 4 == 0) <| Width.read (fld w 4 2) fun sz => .ok (.cmplt (bv w 22) (bv w 18) (bv w 14) sz)
  | 43 => zeroBits (fld w 0 4 == 0) <| Width.read (fld w 4 2) fun sz => .ok (.cmpltn (bv w 22) (bv w 18) (bv w 14) sz)
  | 44 => zeroBits (fld w 0 4 == 0) <| Width.read (fld w 4 2) fun sz => .ok (.cmple (bv w 22) (bv w 18) (bv w 14) sz)
  | 45 => zeroBits (fld w 0 4 == 0) <| Width.read (fld w 4 2) fun sz => .ok (.cmplen (bv w 22) (bv w 18) (bv w 14) sz)
  | 48 => zeroBits (fld w 0 4 == 0 && fld w 14 4 == 0) <| Width.read (fld w 4 2) fun sz => .ok (.abs (bv w 22) (bv w 18) sz)
  | 49 => zeroBits (fld w 0 4 == 0 && fld w 14 4 == 0) <| Width.read (fld w 4 2) fun sz => .ok (.neg (bv w 22) (bv w 18) sz)
  | 50 => zeroBits (fld w 0 4 == 0 && fld w 14 4 == 0) <| Width.read (fld w 4 2) fun sz => .ok (.clz (bv w 22) (bv w 18) sz)
  | 51 => zeroBits (fld w 0 4 == 0 && fld w 14 4 == 0) <| Width.read (fld w 4 2) fun sz => .ok (.ctz (bv w 22) (bv w 18) sz)
  | 52 => zeroBits (fld w 0 4 == 0 && fld w 14 4 == 0) <| Width.read (fld w 4 2) fun sz => .ok (.popc (bv w 22) (bv w 18) sz)
  | 53 => zeroBits (fld w 0 4 == 0 && fld w 14 4 == 0) <| Width.read (fld w 4 2) fun sz => .ok (.brev (bv w 22) (bv w 18) sz)
  | 56 => zeroBits (fld w 0 6 == 0) <| .ok (.bfx (bv w 22) (bv w 18) (bv w 14))
  | 57 => zeroBits (fld w 0 6 == 0) <| .ok (.bfxs (bv w 22) (bv w 18) (bv w 14))
  | 58 => zeroBits (fld w 0 6 == 0) <| .ok (.bfi (bv w 22) (bv w 18) (bv w 14))
  | 59 => zeroBits (fld w 0 4 == 0 && fld w 14 4 == 0) <| Width.read (fld w 4 2) fun sz => .ok (.sext (bv w 22) (bv w 18) sz)
  | 60 => zeroBits (fld w 0 4 == 0 && fld w 14 4 == 0) <| Width.read (fld w 4 2) fun sz => .ok (.zext (bv w 22) (bv w 18) sz)
  | 61 => zeroBits (fld w 0 6 == 0 && fld w 14 4 == 0) <| .ok (.mov (bv w 22) (bv w 18))
  | _ => .error .unassignedFunction

/-- Major 0x03 (R47). -/
def decodeAddi (w : Nat) : Except DecodeError Instr :=
  .ok (.addi (bv w 22) (bv w 18) (bv w 0))

/-- Major 0x04 (R47). -/
def decodeAndi (w : Nat) : Except DecodeError Instr :=
  .ok (.andi (bv w 22) (bv w 18) (bv w 0))

/-- Major 0x05 (R47). -/
def decodeOri (w : Nat) : Except DecodeError Instr :=
  .ok (.ori (bv w 22) (bv w 18) (bv w 0))

/-- Major 0x06 (R47). -/
def decodeXori (w : Nat) : Except DecodeError Instr :=
  .ok (.xori (bv w 22) (bv w 18) (bv w 0))

/-- Major 0x07 (R47). -/
def decodeShi (w : Nat) : Except DecodeError Instr :=
  match fld w 16 2 with
  | 0 => zeroBits (fld w 6 10 == 0) <| .ok (.shli (bv w 22) (bv w 18) (bv w 0))
  | 1 => zeroBits (fld w 6 10 == 0) <| .ok (.shri (bv w 22) (bv w 18) (bv w 0))
  | 2 => zeroBits (fld w 6 10 == 0) <| .ok (.srai (bv w 22) (bv w 18) (bv w 0))
  | _ => .error .unassignedFunction

/-- Major 0x08 (R47). -/
def decodeCmpi (w : Nat) : Except DecodeError Instr :=
  Cond.read (fld w 14 4) fun c => .ok (.cmpi (bv w 22) (bv w 18) c (bv w 0))

/-- Major 0x09 (R47). -/
def decodeMovw (w : Nat) : Except DecodeError Instr :=
  zeroBits (fld w 16 3 == 0) <| .ok (.movw (bv w 22) (bv w 20) (flag w 19) (bv w 0))

/-- Major 0x0A (R47). -/
def decodeLea (w : Nat) : Except DecodeError Instr :=
  zeroBits (fld w 10 2 == 0) <| MSize.read (fld w 12 3) fun sz => .ok (.lea (bv w 22) (bv w 18) (bv w 15) sz (bv w 0))

/-- Major 0x0B (R47). -/
def decodeMuli (w : Nat) : Except DecodeError Instr :=
  .ok (.muli (bv w 22) (bv w 18) (bv w 0))

/-- Major 0x0C (R47). -/
def decodeB (w : Nat) : Except DecodeError Instr :=
  Cond.read (fld w 22 4) fun c => .ok (.b c (bv w 18) (bv w 0))

/-- Major 0x0D (R47). -/
def decodeBc (w : Nat) : Except DecodeError Instr :=
  Cond.read (fld w 22 4) fun c => .ok (.bc c (bv w 18) (bv w 14) (bv w 0))

/-- Major 0x0E (R47). -/
def decodeCall (w : Nat) : Except DecodeError Instr :=
  .ok (.call (bv w 0))

/-- Major 0x0F (R47). -/
def decodeJmp (w : Nat) : Except DecodeError Instr :=
  zeroBits (fld w 0 6 == 0 && fld w 14 4 == 0 && fld w 22 4 == 0) <|
    match fld w 6 8 with
    | 0 => if fld w 18 4 = 15 then .ok .ret else .ok (.jr (bv w 18))
    | 1 => .ok (.callr (bv w 18))
    | _ => .error .unassignedFunction

/-- Major 0x10 (R47). -/
def decodeLoop (w : Nat) : Except DecodeError Instr :=
  zeroBits (fld w 22 4 == 1) <| .ok (.loop (bv w 18) (bv w 0))

/-- Major 0x11 (R47). -/
def decodeRepf (w : Nat) : Except DecodeError Instr :=
  zeroBits (fld w 0 8 == 0) <| .ok (.repf (bv w 21) (bv w 17) (bv w 12) (bv w 8))

/-- Major 0x12 (R47). -/
def decodeBurn (w : Nat) : Except DecodeError Instr :=
  .ok (.burn (bv w 22) (bv w 20) (bv w 11) (bv w 0))

/-- Major 0x13 (R47). -/
def decodeBurnx (w : Nat) : Except DecodeError Instr :=
  match fld w 8 6 with
  | 1 => zeroBits (fld w 0 8 == 0) <| .ok (.burnr (bv w 22) (bv w 18) (bv w 14))
  | 2 => zeroBits (fld w 0 8 == 0 && fld w 14 8 == 0) <| .ok (.burnq (bv w 22))
  | 0 => zeroBits (fld w 0 8 == 0 && fld w 14 12 == 0) <| .ok .burne
  | _ => .error .unassignedFunction

/-- Major 0x14 (R47). -/
def decodeLd (w : Nat) : Except DecodeError Instr :=
  MSize.read (fld w 12 3) fun sz => readAcq (fld w 10 2) fun acq => .ok (.ld (bv w 22) (bv w 18) (bv w 15) sz acq (bv w 0))

/-- Major 0x15 (R47). -/
def decodeLdn (w : Nat) : Except DecodeError Instr :=
  MSize.read (fld w 12 3) fun sz => readAcq (fld w 10 2) fun acq => .ok (.ldn (bv w 22) (bv w 18) (bv w 15) sz acq (bv w 0))

/-- Major 0x16 (R47). -/
def decodeSt (w : Nat) : Except DecodeError Instr :=
  MSize.read (fld w 12 3) fun sz => readRel (fld w 10 2) fun rel => .ok (.st (bv w 22) (bv w 18) (bv w 15) sz rel (bv w 0))

/-- Major 0x17 (R47). -/
def decodeLdv (w : Nat) : Except DecodeError Instr :=
  VSize.read (fld w 12 3) fun sz => readAcq (fld w 10 2) fun acq => .ok (.ldv (BitVec.ofNat 5 (fld w 9 1 * 16 + fld w 22 4)) (bv w 18) (bv w 15) sz acq (bv w 0))

/-- Major 0x18 (R47). -/
def decodeStv (w : Nat) : Except DecodeError Instr :=
  VSize.read (fld w 12 3) fun sz => readRel (fld w 10 2) fun rel => .ok (.stv (BitVec.ofNat 5 (fld w 9 1 * 16 + fld w 22 4)) (bv w 18) (bv w 15) sz rel (bv w 0))

/-- Major 0x19 (R47). -/
def decodeVidx (w : Nat) : Except DecodeError Instr :=
  match fld w 6 3 with
  | 0 => zeroBits (fld w 0 1 == 0) <| Ty.read (fld w 2 4) fun ty => .ok (.ldvg (bv w 21) (bv w 16) (bv w 12) (bv w 9) ty (flag w 1))
  | 1 => zeroBits (fld w 0 1 == 0) <| Ty.read (fld w 2 4) fun ty => .ok (.stvs (bv w 21) (bv w 16) (bv w 12) (bv w 9) ty (flag w 1))
  | _ => .error .unassignedFunction

/-- Major 0x1A (R47). -/
def decodeTag (w : Nat) : Except DecodeError Instr :=
  match fld w 6 5 with
  | 0 => zeroBits (fld w 3 3 == 0 && fld w 11 4 == 0) <| Scope.read (fld w 0 3) fun sc => .ok (.ldf (bv w 22) (bv w 18) (bv w 15) sc)
  | 1 => zeroBits (fld w 3 3 == 0 && fld w 11 4 == 0) <| Scope.read (fld w 0 3) fun sc => .ok (.ldfe (bv w 22) (bv w 18) (bv w 15) sc)
  | 2 => zeroBits (fld w 3 3 == 0 && fld w 11 4 == 0) <| Scope.read (fld w 0 3) fun sc => .ok (.stf (bv w 22) (bv w 18) (bv w 15) sc)
  | 3 => zeroBits (fld w 3 3 == 0 && fld w 11 4 == 0) <| Scope.read (fld w 0 3) fun sc => .ok (.stef (bv w 22) (bv w 18) (bv w 15) sc)
  | 4 => zeroBits (fld w 3 3 == 0 && fld w 11 4 == 0) <| Scope.read (fld w 0 3) fun sc => .ok (.tagrd (bv w 22) (bv w 18) (bv w 15) sc)
  | 5 => zeroBits (fld w 3 3 == 0 && fld w 11 4 == 0) <| Scope.read (fld w 0 3) fun sc => .ok (.tagset (bv w 22) (bv w 18) (bv w 15) sc)
  | _ => .error .unassignedFunction

/-- Major 0x1B (R47). -/
def decodeAmo (w : Nat) : Except DecodeError Instr :=
  match fld w 6 5 with
  | 0 | 1 => MemOrd.read (fld w 3 2) fun o => Scope.read (fld w 0 3) fun sc => .ok (.aadd (bv w 22) (bv w 18) (bv w 15) (bv w 11) (flag w 6) (flag w 5) o sc)
  | 2 | 3 => MemOrd.read (fld w 3 2) fun o => Scope.read (fld w 0 3) fun sc => .ok (.aand (bv w 22) (bv w 18) (bv w 15) (bv w 11) (flag w 6) (flag w 5) o sc)
  | 4 | 5 => MemOrd.read (fld w 3 2) fun o => Scope.read (fld w 0 3) fun sc => .ok (.aor (bv w 22) (bv w 18) (bv w 15) (bv w 11) (flag w 6) (flag w 5) o sc)
  | 6 | 7 => MemOrd.read (fld w 3 2) fun o => Scope.read (fld w 0 3) fun sc => .ok (.axor (bv w 22) (bv w 18) (bv w 15) (bv w 11) (flag w 6) (flag w 5) o sc)
  | 8 | 9 => MemOrd.read (fld w 3 2) fun o => Scope.read (fld w 0 3) fun sc => .ok (.amin (bv w 22) (bv w 18) (bv w 15) (bv w 11) (flag w 6) (flag w 5) o sc)
  | 10 | 11 => MemOrd.read (fld w 3 2) fun o => Scope.read (fld w 0 3) fun sc => .ok (.amax (bv w 22) (bv w 18) (bv w 15) (bv w 11) (flag w 6) (flag w 5) o sc)
  | 12 | 13 => MemOrd.read (fld w 3 2) fun o => Scope.read (fld w 0 3) fun sc => .ok (.aminn (bv w 22) (bv w 18) (bv w 15) (bv w 11) (flag w 6) (flag w 5) o sc)
  | 14 | 15 => MemOrd.read (fld w 3 2) fun o => Scope.read (fld w 0 3) fun sc => .ok (.amaxn (bv w 22) (bv w 18) (bv w 15) (bv w 11) (flag w 6) (flag w 5) o sc)
  | 16 | 17 => MemOrd.read (fld w 3 2) fun o => Scope.read (fld w 0 3) fun sc => .ok (.axch (bv w 22) (bv w 18) (bv w 15) (bv w 11) (flag w 6) (flag w 5) o sc)
  | 20 | 21 => MemOrd.read (fld w 3 2) fun o => Scope.read (fld w 0 3) fun sc => .ok (.afadd (bv w 22) (bv w 18) (bv w 15) (bv w 11) (flag w 6) (flag w 5) o sc)
  | 18 | 19 => zeroBits (fld w 5 1 == 1) <| MemOrd.read (fld w 3 2) fun o => Scope.read (fld w 0 3) fun sc => .ok (.acas (bv w 22) (bv w 18) (bv w 15) (bv w 11) (flag w 6) o sc)
  | 22 => MemOrd.read (fld w 3 2) fun o => Scope.read (fld w 0 3) fun sc => .ok (.ahx (bv w 22) (bv w 18) (bv w 15) (bv w 11) (flag w 5) o sc)
  | _ => .error .unassignedFunction

/-- Major 0x1C (R47). -/
def decodeFence (w : Nat) : Except DecodeError Instr :=
  match fld w 6 5 with
  | 0 => zeroBits (fld w 5 1 == 0 && fld w 11 15 == 0) <| MemOrd.read (fld w 3 2) fun o => Scope.read (fld w 0 3) fun sc => .ok (.fence o sc)
  | 1 => zeroBits (fld w 3 3 == 0 && fld w 11 11 == 0) <| Scope.read (fld w 0 3) fun sc => .ok (.fences (bv w 22) sc)
  | 2 => zeroBits (fld w 3 3 == 0 && fld w 11 4 == 0 && fld w 22 4 == 0) <| Scope.read (fld w 0 3) fun sc => .ok (.dcwb (bv w 18) (bv w 15) sc)
  | 3 => zeroBits (fld w 3 3 == 0 && fld w 11 4 == 0 && fld w 22 4 == 0) <| Scope.read (fld w 0 3) fun sc => .ok (.pf (bv w 18) (bv w 15) sc)
  | _ => .error .unassignedFunction

/-- Major 0x1D (R47). -/
def decodeRsync (w : Nat) : Except DecodeError Instr :=
  match fld w 8 6 with
  | 0 => zeroBits (fld w 14 4 == 0) <| .ok (.putn (bv w 22) (bv w 18) (bv w 4) (bv w 0))
  | 1 => zeroBits (fld w 0 8 == 0 && fld w 14 8 == 0) <| .ok (.xclr (bv w 22))
  | 2 => zeroBits (fld w 0 8 == 0 && fld w 14 4 == 0) <| .ok (.xpres (bv w 22) (bv w 18))
  | _ => .error .unassignedFunction

/-- Major 0x1E (R47). -/
def decodeMsg (w : Nat) : Except DecodeError Instr :=
  match fld w 8 6 with
  | 0 => zeroBits (fld w 5 3 == 0) <| .ok (.send (bv w 22) (bv w 18) (bv w 14) (flag w 4) (flag w 3) (bv w 0))
  | 1 => zeroBits (fld w 3 5 == 0) <| .ok (.recv (bv w 22) (bv w 18) (bv w 14) (bv w 0))
  | 2 => zeroBits (fld w 0 8 == 0 && fld w 14 12 == 0) <| .ok .spkret
  | _ => .error .unassignedFunction

/-- Major 0x1F (R47). -/
def decodeThread (w : Nat) : Except DecodeError Instr :=
  match fld w 8 6 with
  | 0 => zeroBits (fld w 5 3 == 0) <| .ok (.spawn (bv w 22) (bv w 18) (bv w 14) (flag w 4) (bv w 0))
  | 1 => zeroBits (fld w 4 4 == 0 && fld w 14 8 == 0) <| .ok (.reap (bv w 22) (bv w 0))
  | 2 => zeroBits (fld w 1 7 == 0) <| .ok (.launch (bv w 22) (bv w 18) (bv w 14) (flag w 0))
  | 3 => zeroBits (fld w 0 8 == 0 && fld w 14 12 == 0) <| .ok .exit
  | 4 => zeroBits (fld w 0 8 == 0 && fld w 14 4 == 0) <| .ok (.migr (bv w 22) (bv w 18))
  | 5 => zeroBits (fld w 0 8 == 0 && fld w 14 8 == 0) <| .ok (.dtask (bv w 22))
  | 6 => zeroBits (fld w 0 8 == 0 && fld w 14 4 == 0) <| .ok (.slotq (bv w 22) (bv w 18))
  | _ => .error .unassignedFunction

/-- Major 0x20 (R47). -/
def decodeVint (w : Nat) : Except DecodeError Instr :=
  match fld w 5 6 with
  | 0 => Ty.read (fld w 1 4) fun ty => .ok (.vadd (bv w 21) (bv w 16) (bv w 11) ty (flag w 0))
  | 1 => Ty.read (fld w 1 4) fun ty => .ok (.vsub (bv w 21) (bv w 16) (bv w 11) ty (flag w 0))
  | 2 => Ty.read (fld w 1 4) fun ty => .ok (.vmul (bv w 21) (bv w 16) (bv w 11) ty (flag w 0))
  | 3 => Ty.read (fld w 1 4) fun ty => .ok (.vmulh (bv w 21) (bv w 16) (bv w 11) ty (flag w 0))
  | 4 => Ty.read (fld w 1 4) fun ty => .ok (.vadds (bv w 21) (bv w 16) (bv w 11) ty (flag w 0))
  | 5 => Ty.read (fld w 1 4) fun ty => .ok (.vsubs (bv w 21) (bv w 16) (bv w 11) ty (flag w 0))
  | 6 => Ty.read (fld w 1 4) fun ty => .ok (.vmin (bv w 21) (bv w 16) (bv w 11) ty (flag w 0))
  | 7 => Ty.read (fld w 1 4) fun ty => .ok (.vmax (bv w 21) (bv w 16) (bv w 11) ty (flag w 0))
  | 8 => Ty.read (fld w 1 4) fun ty => .ok (.vand (bv w 21) (bv w 16) (bv w 11) ty (flag w 0))
  | 9 => Ty.read (fld w 1 4) fun ty => .ok (.vor (bv w 21) (bv w 16) (bv w 11) ty (flag w 0))
  | 10 => Ty.read (fld w 1 4) fun ty => .ok (.vxor (bv w 21) (bv w 16) (bv w 11) ty (flag w 0))
  | 11 => Ty.read (fld w 1 4) fun ty => .ok (.vshl (bv w 21) (bv w 16) (bv w 11) ty (flag w 0))
  | 12 => Ty.read (fld w 1 4) fun ty => .ok (.vshr (bv w 21) (bv w 16) (bv w 11) ty (flag w 0))
  | 13 => Ty.read (fld w 1 4) fun ty => .ok (.vsra (bv w 21) (bv w 16) (bv w 11) ty (flag w 0))
  | 14 => zeroBits (fld w 11 5 == 0) <| Ty.read (fld w 1 4) fun ty => .ok (.vabs (bv w 21) (bv w 16) ty (flag w 0))
  | _ => .error .unassignedFunction

/-- Major 0x21 (R47). -/
def decodeVfp (w : Nat) : Except DecodeError Instr :=
  match fld w 5 6 with
  | 0 => Ty.read (fld w 1 4) fun ty => .ok (.vfadd (bv w 21) (bv w 16) (bv w 11) ty (flag w 0))
  | 1 => Ty.read (fld w 1 4) fun ty => .ok (.vfsub (bv w 21) (bv w 16) (bv w 11) ty (flag w 0))
  | 2 => Ty.read (fld w 1 4) fun ty => .ok (.vfmul (bv w 21) (bv w 16) (bv w 11) ty (flag w 0))
  | 3 => Ty.read (fld w 1 4) fun ty => .ok (.vfmin (bv w 21) (bv w 16) (bv w 11) ty (flag w 0))
  | 4 => Ty.read (fld w 1 4) fun ty => .ok (.vfmax (bv w 21) (bv w 16) (bv w 11) ty (flag w 0))
  | 5 => zeroBits (fld w 11 5 == 0) <| Ty.read (fld w 1 4) fun ty => .ok (.vfabs (bv w 21) (bv w 16) ty (flag w 0))
  | 6 => zeroBits (fld w 11 5 == 0) <| Ty.read (fld w 1 4) fun ty => .ok (.vfneg (bv w 21) (bv w 16) ty (flag w 0))
  | _ => .error .unassignedFunction

/-- Major 0x22 (R47). -/
def decodeVfma (w : Nat) : Except DecodeError Instr :=
  match fld w 5 6 with
  | 0 => Ty.read (fld w 1 4) fun ty => .ok (.vfma (bv w 21) (bv w 16) (bv w 11) ty (flag w 0))
  | 1 => Ty.read (fld w 1 4) fun ty => .ok (.vfms (bv w 21) (bv w 16) (bv w 11) ty (flag w 0))
  | 2 => Ty.read (fld w 1 4) fun ty => .ok (.vfnma (bv w 21) (bv w 16) (bv w 11) ty (flag w 0))
  | _ => .error .unassignedFunction

/-- Major 0x23 (R47). -/
def decodeVsc (w : Nat) : Except DecodeError Instr :=
  match fld w 9 3 with
  | 0 => zeroBits (fld w 0 1 == 0 && fld w 6 3 == 0 && fld w 16 5 == 0) <| Ty.read (fld w 2 4) fun ty => .ok (.vbcast (bv w 21) (bv w 12) ty (flag w 1))
  | 1 => zeroBits (fld w 0 2 == 0 && fld w 7 2 == 0) <| Ty.read (fld w 2 4) fun ty => .ok (.vins (bv w 21) (BitVec.ofNat 6 (fld w 6 1 * 32 + fld w 16 5)) (bv w 12) ty)
  | 2 => zeroBits (fld w 0 2 == 0 && fld w 7 2 == 0) <| Ty.read (fld w 2 4) fun ty => .ok (.vext (bv w 21) (BitVec.ofNat 6 (fld w 6 1 * 32 + fld w 16 5)) (bv w 12) ty)
  | 3 => zeroBits (fld w 0 1 == 0 && fld w 6 3 == 0) <| Ty.read (fld w 2 4) fun ty => .ok (.vaddx (bv w 21) (bv w 16) (bv w 12) ty (flag w 1))
  | 4 => zeroBits (fld w 0 1 == 0 && fld w 6 3 == 0) <| Ty.read (fld w 2 4) fun ty => .ok (.vfmulx (bv w 21) (bv w 16) (bv w 12) ty (flag w 1))
  | _ => .error .unassignedFunction

/-- Major 0x24 (R47). -/
def decodeVmask (w : Nat) : Except DecodeError Instr :=
  match fld w 5 6 with
  | 0 | 1 | 2 | 3 | 4 | 5 | 6 | 7 | 8 | 9 => zeroBits (fld w 23 3 == 0) <| Cond.read (fld w 5 4) fun c => Ty.read (fld w 1 4) fun ty => .ok (.vcmp (bv w 21) (bv w 16) (bv w 11) c ty (flag w 0))
  | 16 => zeroBits (fld w 0 1 == 0) <| Ty.read (fld w 1 4) fun ty => .ok (.vsel (bv w 21) (bv w 16) (bv w 11) ty)
  | 17 => zeroBits (fld w 0 5 == 0 && fld w 13 3 == 0 && fld w 18 3 == 0 && fld w 23 3 == 0) <| .ok (.mand (bv w 21) (bv w 16) (bv w 11))
  | 18 => zeroBits (fld w 0 5 == 0 && fld w 13 3 == 0 && fld w 18 3 == 0 && fld w 23 3 == 0) <| .ok (.mor (bv w 21) (bv w 16) (bv w 11))
  | 19 => zeroBits (fld w 0 5 == 0 && fld w 11 5 == 0 && fld w 18 3 == 0 && fld w 23 3 == 0) <| .ok (.mnot (bv w 21) (bv w 16))
  | 20 => zeroBits (fld w 11 5 == 0 && fld w 18 3 == 0 && fld w 25 1 == 0) <| Ty.read (fld w 1 4) fun ty => .ok (.mpopc (bv w 21) (bv w 16) ty (flag w 0))
  | _ => .error .unassignedFunction

/-- Major 0x25 (R47). -/
def decodeVcvt (w : Nat) : Except DecodeError Instr :=
  match fld w 15 1 with
  | 0 => zeroBits (fld w 14 1 == 0) <| Round.read (fld w 11 2) fun rm => Ty.read (fld w 7 4) fun src => Ty.read (fld w 1 4) fun dst => .ok (.vcvt (bv w 21) (bv w 16) (flag w 13) rm src (bv w 5) dst (flag w 0))
  | 1 => Ty.read (fld w 7 4) fun src => Ty.read (fld w 1 4) fun dst => .ok (.vcvts (bv w 21) (bv w 16) (bv w 11) src (bv w 5) dst (flag w 0))
  | _ => .error .unassignedFunction

/-- Major 0x26 (R47). -/
def decodeVspec (w : Nat) : Except DecodeError Instr :=
  match fld w 5 6 with
  | 0 => zeroBits (fld w 11 5 == 0) <| Ty.read (fld w 1 4) fun ty => .ok (.vexp2 (bv w 21) (bv w 16) ty (flag w 0))
  | 1 => zeroBits (fld w 11 5 == 0) <| Ty.read (fld w 1 4) fun ty => .ok (.vlog2 (bv w 21) (bv w 16) ty (flag w 0))
  | 2 => zeroBits (fld w 11 5 == 0) <| Ty.read (fld w 1 4) fun ty => .ok (.vrcp (bv w 21) (bv w 16) ty (flag w 0))
  | 3 => zeroBits (fld w 11 5 == 0) <| Ty.read (fld w 1 4) fun ty => .ok (.vrsq (bv w 21) (bv w 16) ty (flag w 0))
  | 4 => zeroBits (fld w 11 5 == 0) <| Ty.read (fld w 1 4) fun ty => .ok (.vsqrt (bv w 21) (bv w 16) ty (flag w 0))
  | 5 => zeroBits (fld w 11 5 == 0) <| Ty.read (fld w 1 4) fun ty => .ok (.vtanh (bv w 21) (bv w 16) ty (flag w 0))
  | 6 => zeroBits (fld w 11 5 == 0) <| Ty.read (fld w 1 4) fun ty => .ok (.vsigm (bv w 21) (bv w 16) ty (flag w 0))
  | _ => .error .unassignedFunction

/-- Major 0x27 (R47). -/
def decodeVred (w : Nat) : Except DecodeError Instr :=
  match fld w 5 6 with
  | 0 => zeroBits (fld w 11 5 == 0) <| Ty.read (fld w 1 4) fun ty => .ok (.vradd (bv w 21) (bv w 16) ty (flag w 0))
  | 1 => zeroBits (fld w 11 5 == 0) <| Ty.read (fld w 1 4) fun ty => .ok (.vrmax (bv w 21) (bv w 16) ty (flag w 0))
  | 2 => zeroBits (fld w 11 5 == 0) <| Ty.read (fld w 1 4) fun ty => .ok (.vrmin (bv w 21) (bv w 16) ty (flag w 0))
  | 3 => zeroBits (fld w 11 5 == 0) <| Ty.read (fld w 1 4) fun ty => .ok (.vrmaxi (bv w 21) (bv w 16) ty (flag w 0))
  | 4 => zeroBits (fld w 11 5 == 0) <| Ty.read (fld w 1 4) fun ty => .ok (.vscan (bv w 21) (bv w 16) ty (flag w 0))
  | _ => .error .unassignedFunction

/-- Major 0x28 (R47). -/
def decodeVperm (w : Nat) : Except DecodeError Instr :=
  match fld w 5 6 with
  | 0 => Ty.read (fld w 1 4) fun ty => .ok (.vperm (bv w 21) (bv w 16) (bv w 11) ty (flag w 0))
  | 1 => Ty.read (fld w 1 4) fun ty => .ok (.vslide (bv w 21) (bv w 16) (bv w 11) ty (flag w 0))
  | 2 => Ty.read (fld w 1 4) fun ty => .ok (.vslideUp (bv w 21) (bv w 16) (bv w 11) ty (flag w 0))
  | 3 => Ty.read (fld w 1 4) fun ty => .ok (.vrot (bv w 21) (bv w 16) (bv w 11) ty (flag w 0))
  | _ => .error .unassignedFunction

/-- Major 0x29 (R47). -/
def decodeVsort (w : Nat) : Except DecodeError Instr :=
  match fld w 5 6 with
  | 0 => Ty.read (fld w 1 4) fun ty => .ok (.vsortk (bv w 21) (bv w 16) (bv w 11) ty (flag w 0))
  | 1 => zeroBits (fld w 0 1 == 0) <| Ty.read (fld w 1 4) fun ty => .ok (.vmergek (bv w 21) (bv w 16) (bv w 11) ty)
  | _ => .error .unassignedFunction

/-- Major 0x2A (R47). -/
def decodeVrnd (w : Nat) : Except DecodeError Instr :=
  match fld w 5 6 with
  | 0 => zeroBits (fld w 1 4 == 5 && fld w 11 5 == 0) <| .ok (.vrnd (bv w 21) (bv w 16) (flag w 0))
  | _ => .error .unassignedFunction

/-- Major 0x2B (R47). -/
def decodeVdot (w : Nat) : Except DecodeError Instr :=
  match fld w 5 6 with
  | 0 => Ty.read (fld w 1 4) fun ty => .ok (.vdot4 (bv w 21) (bv w 16) (bv w 11) ty (flag w 0))
  | 1 => Ty.read (fld w 1 4) fun ty => .ok (.vdotf8 (bv w 21) (bv w 16) (bv w 11) ty (flag w 0))
  | _ => .error .unassignedFunction

/-- Major 0x2C (R47). -/
def decodeKfmt (w : Nat) : Except DecodeError Instr :=
  match fld w 8 6 with
  | 0 => zeroBits (fld w 14 8 == 0 && fld w 24 2 == 0) <| KFormat.read (fld w 3 3) fun fb => KFormat.read (fld w 0 3) fun fa => .ok (.kfmt (bv w 22) (flag w 7) (flag w 6) fb fa)
  | _ => .error .unassignedFunction

/-- Major 0x2D (R47). -/
def decodeKmma (w : Nat) : Except DecodeError Instr :=
  match fld w 9 5 with
  | 0 => if fld w 5 1 = 0 then zeroBits (fld w 0 4 == 0 && fld w 5 1 == 0) <| .ok (.kmma (bv w 22) (bv w 18) (bv w 14) (bv w 7) (flag w 6) (flag w 4)) else zeroBits (fld w 0 4 == 0 && fld w 5 1 == 1) <| .ok (.kmmas (bv w 22) (bv w 18) (bv w 14) (bv w 7) (flag w 6) (flag w 4))
  | 1 => zeroBits (fld w 0 4 == 0 && fld w 5 1 == 0 && fld w 18 4 == 0) <| .ok (.kmmv (bv w 22) (bv w 14) (bv w 7) (flag w 6) (flag w 4))
  | _ => .error .unassignedFunction

/-- Major 0x2E (R47). -/
def decodeKacc (w : Nat) : Except DecodeError Instr :=
  match fld w 9 5 with
  | 0 => zeroBits (fld w 0 9 == 0 && fld w 14 8 == 0) <| .ok (.kzero (bv w 22))
  | 1 => zeroBits (fld w 0 4 == 0 && fld w 5 4 == 0 && fld w 14 4 == 0) <| .ok (.klda (bv w 22) (bv w 18) (flag w 4))
  | 2 => zeroBits (fld w 0 9 == 0 && fld w 14 4 == 0) <| .ok (.ksta (bv w 22) (bv w 18))
  | 3 => zeroBits (fld w 0 7 == 0 && fld w 14 4 == 0) <| .ok (.kcvt (bv w 22) (bv w 18) (bv w 7))
  | 4 => zeroBits (fld w 0 9 == 0 && fld w 14 12 == 0) <| .ok .ksync
  | _ => .error .unassignedFunction

/-- Major 0x2F (R47). -/
def decodeKscale (w : Nat) : Except DecodeError Instr :=
  match fld w 8 6 with
  | 0 => zeroBits (fld w 0 8 == 0 && fld w 22 4 == 0) <| .ok (.kscaleA (bv w 18) (bv w 14))
  | 1 => zeroBits (fld w 0 8 == 0 && fld w 22 4 == 0) <| .ok (.kscaleB (bv w 18) (bv w 14))
  | _ => .error .unassignedFunction

/-- Major 0x30 (R47). -/
def decodeCpy (w : Nat) : Except DecodeError Instr :=
  match fld w 8 6 with
  | 0 => zeroBits (fld w 5 3 == 0 && fld w 14 8 == 0) <| MemOrd.read (fld w 3 2) fun o => Scope.read (fld w 0 3) fun sc => .ok (.cpy (bv w 22) o sc)
  | 1 => zeroBits (fld w 5 3 == 0 && fld w 14 8 == 0) <| MemOrd.read (fld w 3 2) fun o => Scope.read (fld w 0 3) fun sc => .ok (.cpyt (bv w 22) o sc)
  | 2 => zeroBits (fld w 5 3 == 0 && fld w 14 8 == 0) <| MemOrd.read (fld w 3 2) fun o => Scope.read (fld w 0 3) fun sc => .ok (.cpyk (bv w 22) o sc)
  | 3 => zeroBits (fld w 5 3 == 0 && fld w 14 8 == 0) <| MemOrd.read (fld w 3 2) fun o => Scope.read (fld w 0 3) fun sc => .ok (.cpys (bv w 22) o sc)
  | _ => .error .unassignedFunction

/-- Major 0x31 (R47). -/
def decodeCpyw (w : Nat) : Except DecodeError Instr :=
  match fld w 8 6 with
  | 0 => zeroBits (fld w 2 6 == 0 && fld w 22 4 == 0) <| .ok (.cpyw (bv w 18) (bv w 14) (bv w 0))
  | 1 => zeroBits (fld w 0 8 == 0 && fld w 14 8 == 0) <| .ok (.cpyq (bv w 22))
  | 2 => zeroBits (fld w 0 8 == 0 && fld w 14 8 == 0) <| .ok (.cpyx (bv w 22))
  | _ => .error .unassignedFunction

/-- Major 0x32 (R47). -/
def decodeMedia (w : Nat) : Except DecodeError Instr :=
  match fld w 8 6 with
  | 0 => if fld w 0 8 = 1 then zeroBits (fld w 0 8 == 1 && fld w 14 8 == 0) <| .ok (.mwinCount (bv w 22)) else zeroBits (fld w 0 8 == 0 && fld w 14 4 == 0) <| .ok (.mwin (bv w 22) (bv w 18))
  | 1 => zeroBits (fld w 0 8 == 0 && fld w 14 8 == 0) <| .ok (.mtick (bv w 22))
  | 2 => zeroBits (fld w 0 8 == 0 && fld w 14 4 == 0 && fld w 22 4 == 0) <| .ok (.mack (bv w 18))
  | _ => .error .unassignedFunction

/-- Major 0x33 (R47). -/
def decodeDet (w : Nat) : Except DecodeError Instr :=
  match fld w 6 5 with
  | 0 => zeroBits (fld w 3 3 == 0 && fld w 22 4 == 0) <| Scope.read (fld w 0 3) fun sc => .ok (.dredfF64 (bv w 18) (bv w 15) (bv w 11) sc)
  | 1 => zeroBits (fld w 3 3 == 0 && fld w 22 4 == 0) <| Scope.read (fld w 0 3) fun sc => .ok (.dredfF32 (bv w 18) (bv w 15) (bv w 11) sc)
  | 2 => zeroBits (fld w 3 3 == 0 && fld w 11 4 == 0 && fld w 22 4 == 0) <| Scope.read (fld w 0 3) fun sc => .ok (.dcloseF64 (bv w 18) (bv w 15) sc)
  | 3 => zeroBits (fld w 3 3 == 0 && fld w 11 4 == 0 && fld w 22 4 == 0) <| Scope.read (fld w 0 3) fun sc => .ok (.dcloseF32 (bv w 18) (bv w 15) sc)
  | _ => .error .unassignedFunction

/-- Major 0x34 (R47). -/
def decodeSpec (w : Nat) : Except DecodeError Instr :=
  match fld w 8 6 with
  | 0 => zeroBits (fld w 0 8 == 0) <| .ok (.dstkp (bv w 22) (bv w 18) (bv w 14))
  | 1 => zeroBits (fld w 0 8 == 0) <| .ok (.dstka (bv w 22) (bv w 18) (bv w 14))
  | 2 => zeroBits (fld w 0 8 == 0 && fld w 18 8 == 0) <| .ok (.dstkc (bv w 14))
  | _ => .error .unassignedFunction

/-- Major 0x35 (R47). -/
def decodeCtx (w : Nat) : Except DecodeError Instr :=
  match fld w 0 6 with
  | 0 => zeroBits (fld w 11 15 == 0) <| .ok (.ctxsv (flag w 10) (bv w 6))
  | 1 => zeroBits (fld w 10 8 == 0 && fld w 22 4 == 0) <| .ok (.ctxld (bv w 18) (bv w 6))
  | 2 => zeroBits (fld w 6 20 == 0) <| .ok .accspill
  | 3 => zeroBits (fld w 6 20 == 0) <| .ok .accfill
  | _ => .error .unassignedFunction

/-- The instruction whose fields a word holds, before the checks of `wellFormed`. -/
def decodeFields (w : Nat) : Except DecodeError Instr :=
  match fld w 26 6 with
  | 0 => decodeSys0 w
  | 1 => decodeSys1 w
  | 2 => decodeAlu w
  | 3 => decodeAddi w
  | 4 => decodeAndi w
  | 5 => decodeOri w
  | 6 => decodeXori w
  | 7 => decodeShi w
  | 8 => decodeCmpi w
  | 9 => decodeMovw w
  | 10 => decodeLea w
  | 11 => decodeMuli w
  | 12 => decodeB w
  | 13 => decodeBc w
  | 14 => decodeCall w
  | 15 => decodeJmp w
  | 16 => decodeLoop w
  | 17 => decodeRepf w
  | 18 => decodeBurn w
  | 19 => decodeBurnx w
  | 20 => decodeLd w
  | 21 => decodeLdn w
  | 22 => decodeSt w
  | 23 => decodeLdv w
  | 24 => decodeStv w
  | 25 => decodeVidx w
  | 26 => decodeTag w
  | 27 => decodeAmo w
  | 28 => decodeFence w
  | 29 => decodeRsync w
  | 30 => decodeMsg w
  | 31 => decodeThread w
  | 32 => decodeVint w
  | 33 => decodeVfp w
  | 34 => decodeVfma w
  | 35 => decodeVsc w
  | 36 => decodeVmask w
  | 37 => decodeVcvt w
  | 38 => decodeVspec w
  | 39 => decodeVred w
  | 40 => decodeVperm w
  | 41 => decodeVsort w
  | 42 => decodeVrnd w
  | 43 => decodeVdot w
  | 44 => decodeKfmt w
  | 45 => decodeKmma w
  | 46 => decodeKacc w
  | 47 => decodeKscale w
  | 48 => decodeCpy w
  | 49 => decodeCpyw w
  | 50 => decodeMedia w
  | 51 => decodeDet w
  | 52 => decodeSpec w
  | 53 => decodeCtx w
  | _ => .error .reservedMajor

/-- Rejects the instructions that no legal word holds (R48). -/
def legal (i : Instr) : Except DecodeError Instr :=
  if wellFormed i then .ok i else .error .reservedValue

/-- Decodes one 32-bit word (R41, R47, R48). -/
def decode (w : Nat) : Except DecodeError Instr :=
  if w < 2 ^ 32 then (decodeFields w).bind legal else .error .reservedBits

/-- A 32-bit word from four bytes, lowest address first (R41). -/
def wordOfBytes : List Byte → Nat
  | [] => 0
  | b :: bs => b.toNat + 256 * wordOfBytes bs

/-- The low `n` bytes of a number, lowest address first (R7). -/
def bytesOfNat : Nat → Nat → List Byte
  | 0, _ => []
  | n + 1, v => BitVec.ofNat 8 v :: bytesOfNat n (v / 256)

/-- The decoder on the bytes of one word as memory holds them (R41). -/
def decodeBytes (bs : List Byte) : Except DecodeError Instr := decode (wordOfBytes (bs.take 4))

/-- The instruction the decoder reads from an instruction whose bits are `w`, numbered from bit 0 of its one
word. Bits above bit 31 belong to no instruction. -/
def decodeTableWord (nbits w : Nat) : Option Instr :=
  match decodeBytes (bytesOfNat 4 (w % 2 ^ nbits)) with
  | .ok i => some i
  | .error _ => none

/-- The fixed bits of a word with its fields put at their places. -/
def pack : Nat → List (Nat × Nat) → Nat
  | m, [] => m
  | m, (lo, v) :: r => pack (m + v * 2 ^ lo) r

/-- The word of an instruction (R42, R47); none for a hardware step, which has no encoding. -/
def encode : Instr → Option Nat
  | .add d a b sz => some (pack 0x08000000 [(22, d.toNat), (18, a.toNat), (14, b.toNat), (4, sz.code)])
  | .sub d a b sz => some (pack 0x08000040 [(22, d.toNat), (18, a.toNat), (14, b.toNat), (4, sz.code)])
  | .mul d a b sz => some (pack 0x08000080 [(22, d.toNat), (18, a.toNat), (14, b.toNat), (4, sz.code)])
  | .mulh d a b sz => some (pack 0x080000C0 [(22, d.toNat), (18, a.toNat), (14, b.toNat), (4, sz.code)])
  | .mulhn d a b sz => some (pack 0x08000100 [(22, d.toNat), (18, a.toNat), (14, b.toNat), (4, sz.code)])
  | .div d a b sz => some (pack 0x08000140 [(22, d.toNat), (18, a.toNat), (14, b.toNat), (4, sz.code)])
  | .divn d a b sz => some (pack 0x08000180 [(22, d.toNat), (18, a.toNat), (14, b.toNat), (4, sz.code)])
  | .rem d a b sz => some (pack 0x080001C0 [(22, d.toNat), (18, a.toNat), (14, b.toNat), (4, sz.code)])
  | .remn d a b sz => some (pack 0x08000200 [(22, d.toNat), (18, a.toNat), (14, b.toNat), (4, sz.code)])
  | .and d a b sz => some (pack 0x08000400 [(22, d.toNat), (18, a.toNat), (14, b.toNat), (4, sz.code)])
  | .andn d a b sz => some (pack 0x08000440 [(22, d.toNat), (18, a.toNat), (14, b.toNat), (4, sz.code)])
  | .or d a b sz => some (pack 0x08000480 [(22, d.toNat), (18, a.toNat), (14, b.toNat), (4, sz.code)])
  | .xor d a b sz => some (pack 0x080004C0 [(22, d.toNat), (18, a.toNat), (14, b.toNat), (4, sz.code)])
  | .shl d a b sz => some (pack 0x08000600 [(22, d.toNat), (18, a.toNat), (14, b.toNat), (4, sz.code)])
  | .shr d a b sz => some (pack 0x08000640 [(22, d.toNat), (18, a.toNat), (14, b.toNat), (4, sz.code)])
  | .sra d a b sz => some (pack 0x08000680 [(22, d.toNat), (18, a.toNat), (14, b.toNat), (4, sz.code)])
  | .rol d a b sz => some (pack 0x080006C0 [(22, d.toNat), (18, a.toNat), (14, b.toNat), (4, sz.code)])
  | .ror d a b sz => some (pack 0x08000700 [(22, d.toNat), (18, a.toNat), (14, b.toNat), (4, sz.code)])
  | .min d a b sz => some (pack 0x08000800 [(22, d.toNat), (18, a.toNat), (14, b.toNat), (4, sz.code)])
  | .max d a b sz => some (pack 0x08000840 [(22, d.toNat), (18, a.toNat), (14, b.toNat), (4, sz.code)])
  | .minn d a b sz => some (pack 0x08000880 [(22, d.toNat), (18, a.toNat), (14, b.toNat), (4, sz.code)])
  | .maxn d a b sz => some (pack 0x080008C0 [(22, d.toNat), (18, a.toNat), (14, b.toNat), (4, sz.code)])
  | .sel d a b => some (pack 0x08000900 [(22, d.toNat), (18, a.toNat), (14, b.toNat)])
  | .cmpeq d a b sz => some (pack 0x08000A00 [(22, d.toNat), (18, a.toNat), (14, b.toNat), (4, sz.code)])
  | .cmpne d a b sz => some (pack 0x08000A40 [(22, d.toNat), (18, a.toNat), (14, b.toNat), (4, sz.code)])
  | .cmplt d a b sz => some (pack 0x08000A80 [(22, d.toNat), (18, a.toNat), (14, b.toNat), (4, sz.code)])
  | .cmpltn d a b sz => some (pack 0x08000AC0 [(22, d.toNat), (18, a.toNat), (14, b.toNat), (4, sz.code)])
  | .cmple d a b sz => some (pack 0x08000B00 [(22, d.toNat), (18, a.toNat), (14, b.toNat), (4, sz.code)])
  | .cmplen d a b sz => some (pack 0x08000B40 [(22, d.toNat), (18, a.toNat), (14, b.toNat), (4, sz.code)])
  | .abs d a sz => some (pack 0x08000C00 [(22, d.toNat), (18, a.toNat), (4, sz.code)])
  | .neg d a sz => some (pack 0x08000C40 [(22, d.toNat), (18, a.toNat), (4, sz.code)])
  | .clz d a sz => some (pack 0x08000C80 [(22, d.toNat), (18, a.toNat), (4, sz.code)])
  | .ctz d a sz => some (pack 0x08000CC0 [(22, d.toNat), (18, a.toNat), (4, sz.code)])
  | .popc d a sz => some (pack 0x08000D00 [(22, d.toNat), (18, a.toNat), (4, sz.code)])
  | .brev d a sz => some (pack 0x08000D40 [(22, d.toNat), (18, a.toNat), (4, sz.code)])
  | .bfx d a b => some (pack 0x08000E00 [(22, d.toNat), (18, a.toNat), (14, b.toNat)])
  | .bfxs d a b => some (pack 0x08000E40 [(22, d.toNat), (18, a.toNat), (14, b.toNat)])
  | .bfi d a b => some (pack 0x08000E80 [(22, d.toNat), (18, a.toNat), (14, b.toNat)])
  | .sext d a sz => some (pack 0x08000EC0 [(22, d.toNat), (18, a.toNat), (4, sz.code)])
  | .zext d a sz => some (pack 0x08000F00 [(22, d.toNat), (18, a.toNat), (4, sz.code)])
  | .mov d a => some (pack 0x08000F40 [(22, d.toNat), (18, a.toNat)])
  | .addi d a imm => some (pack 0x0C000000 [(22, d.toNat), (18, a.toNat), (0, imm.toNat)])
  | .andi d a imm => some (pack 0x10000000 [(22, d.toNat), (18, a.toNat), (0, imm.toNat)])
  | .ori d a imm => some (pack 0x14000000 [(22, d.toNat), (18, a.toNat), (0, imm.toNat)])
  | .xori d a imm => some (pack 0x18000000 [(22, d.toNat), (18, a.toNat), (0, imm.toNat)])
  | .muli d a imm => some (pack 0x2C000000 [(22, d.toNat), (18, a.toNat), (0, imm.toNat)])
  | .shli d a k => some (pack 0x1C000000 [(22, d.toNat), (18, a.toNat), (0, k.toNat)])
  | .shri d a k => some (pack 0x1C010000 [(22, d.toNat), (18, a.toNat), (0, k.toNat)])
  | .srai d a k => some (pack 0x1C020000 [(22, d.toNat), (18, a.toNat), (0, k.toNat)])
  | .cmpi d a c m => some (pack 0x20000000 [(22, d.toNat), (18, a.toNat), (14, c.code), (0, m.toNat)])
  | .movw d hw keep imm => some (pack 0x24000000 [(22, d.toNat), (20, hw.toNat), (19, bit keep), (0, imm.toNat)])
  | .lea t a g sz off => some (pack 0x28000000 [(22, t.toNat), (18, a.toNat), (15, g.toNat), (12, sz.code), (0, off.toNat)])
  | .b c a disp => some (pack 0x30000000 [(22, c.code), (18, a.toNat), (0, disp.toNat)])
  | .bc c a b disp => some (pack 0x34000000 [(22, c.code), (18, a.toNat), (14, b.toNat), (0, disp.toNat)])
  | .loop a disp => some (pack 0x40400000 [(18, a.toNat), (0, disp.toNat)])
  | .call disp => some (pack 0x38000000 [(0, disp.toNat)])
  | .jr a => some (pack 0x3C000000 [(18, a.toNat)])
  | .ret => some (pack 0x3C3C0000 [])
  | .callr a => some (pack 0x3C000040 [(18, a.toNat)])
  | .repf n len dv dx => some (pack 0x44000000 [(21, n.toNat), (17, len.toNat), (12, dv.toNat), (8, dx.toNat)])
  | .burn h un mn mx => some (pack 0x48000000 [(22, h.toNat), (20, un.toNat), (11, mn.toNat), (0, mx.toNat)])
  | .burnr h a b => some (pack 0x4C000100 [(22, h.toNat), (18, a.toNat), (14, b.toNat)])
  | .burnq d => some (pack 0x4C000200 [(22, d.toNat)])
  | .burne => some (pack 0x4C000000 [])
  | .ld t a g sz acq off => some (pack 0x50000000 [(22, t.toNat), (18, a.toNat), (15, g.toNat), (12, sz.code), (10, bit acq), (0, off.toNat)])
  | .ldn t a g sz acq off => some (pack 0x54000000 [(22, t.toNat), (18, a.toNat), (15, g.toNat), (12, sz.code), (10, bit acq), (0, off.toNat)])
  | .st t a g sz rel off => some (pack 0x58000000 [(22, t.toNat), (18, a.toNat), (15, g.toNat), (12, sz.code), (11, bit rel), (0, off.toNat)])
  | .ldv v a g sz acq off => some (pack 0x5C000000 [(9, v.toNat / 16), (22, v.toNat % 16), (18, a.toNat), (15, g.toNat), (12, sz.code), (10, bit acq), (0, off.toNat)])
  | .stv v a g sz rel off => some (pack 0x60000000 [(9, v.toNat / 16), (22, v.toNat % 16), (18, a.toNat), (15, g.toNat), (12, sz.code), (11, bit rel), (0, off.toNat)])
  | .ldvg v i b g ty mk => some (pack 0x64000000 [(21, v.toNat), (16, i.toNat), (12, b.toNat), (9, g.toNat), (2, ty.code), (1, bit mk)])
  | .stvs v i b g ty mk => some (pack 0x64000040 [(21, v.toNat), (16, i.toNat), (12, b.toNat), (9, g.toNat), (2, ty.code), (1, bit mk)])
  | .ldf t a g sc => some (pack 0x68000000 [(22, t.toNat), (18, a.toNat), (15, g.toNat), (0, sc.code)])
  | .ldfe t a g sc => some (pack 0x68000040 [(22, t.toNat), (18, a.toNat), (15, g.toNat), (0, sc.code)])
  | .stf t a g sc => some (pack 0x68000080 [(22, t.toNat), (18, a.toNat), (15, g.toNat), (0, sc.code)])
  | .stef t a g sc => some (pack 0x680000C0 [(22, t.toNat), (18, a.toNat), (15, g.toNat), (0, sc.code)])
  | .tagrd t a g sc => some (pack 0x68000100 [(22, t.toNat), (18, a.toNat), (15, g.toNat), (0, sc.code)])
  | .tagset v a g sc => some (pack 0x68000140 [(22, v.toNat), (18, a.toNat), (15, g.toNat), (0, sc.code)])
  | .aadd t a g b w ret o sc => some (pack 0x6C000000 [(22, t.toNat), (18, a.toNat), (15, g.toNat), (11, b.toNat), (6, bit w), (5, bit ret), (3, o.code), (0, sc.code)])
  | .aand t a g b w ret o sc => some (pack 0x6C000080 [(22, t.toNat), (18, a.toNat), (15, g.toNat), (11, b.toNat), (6, bit w), (5, bit ret), (3, o.code), (0, sc.code)])
  | .aor t a g b w ret o sc => some (pack 0x6C000100 [(22, t.toNat), (18, a.toNat), (15, g.toNat), (11, b.toNat), (6, bit w), (5, bit ret), (3, o.code), (0, sc.code)])
  | .axor t a g b w ret o sc => some (pack 0x6C000180 [(22, t.toNat), (18, a.toNat), (15, g.toNat), (11, b.toNat), (6, bit w), (5, bit ret), (3, o.code), (0, sc.code)])
  | .amin t a g b w ret o sc => some (pack 0x6C000200 [(22, t.toNat), (18, a.toNat), (15, g.toNat), (11, b.toNat), (6, bit w), (5, bit ret), (3, o.code), (0, sc.code)])
  | .amax t a g b w ret o sc => some (pack 0x6C000280 [(22, t.toNat), (18, a.toNat), (15, g.toNat), (11, b.toNat), (6, bit w), (5, bit ret), (3, o.code), (0, sc.code)])
  | .aminn t a g b w ret o sc => some (pack 0x6C000300 [(22, t.toNat), (18, a.toNat), (15, g.toNat), (11, b.toNat), (6, bit w), (5, bit ret), (3, o.code), (0, sc.code)])
  | .amaxn t a g b w ret o sc => some (pack 0x6C000380 [(22, t.toNat), (18, a.toNat), (15, g.toNat), (11, b.toNat), (6, bit w), (5, bit ret), (3, o.code), (0, sc.code)])
  | .axch t a g b w ret o sc => some (pack 0x6C000400 [(22, t.toNat), (18, a.toNat), (15, g.toNat), (11, b.toNat), (6, bit w), (5, bit ret), (3, o.code), (0, sc.code)])
  | .afadd t a g b w ret o sc => some (pack 0x6C000500 [(22, t.toNat), (18, a.toNat), (15, g.toNat), (11, b.toNat), (6, bit w), (5, bit ret), (3, o.code), (0, sc.code)])
  | .acas t a g b w o sc => some (pack 0x6C0004A0 [(22, t.toNat), (18, a.toNat), (15, g.toNat), (11, b.toNat), (6, bit w), (3, o.code), (0, sc.code)])
  | .ahx t a g b ret o sc => some (pack 0x6C000580 [(22, t.toNat), (18, a.toNat), (15, g.toNat), (11, b.toNat), (5, bit ret), (3, o.code), (0, sc.code)])
  | .dredfF64 a g b sc => some (pack 0xCC000000 [(18, a.toNat), (15, g.toNat), (11, b.toNat), (0, sc.code)])
  | .dredfF32 a g b sc => some (pack 0xCC000040 [(18, a.toNat), (15, g.toNat), (11, b.toNat), (0, sc.code)])
  | .dcloseF64 a g sc => some (pack 0xCC000080 [(18, a.toNat), (15, g.toNat), (0, sc.code)])
  | .dcloseF32 a g sc => some (pack 0xCC0000C0 [(18, a.toNat), (15, g.toNat), (0, sc.code)])
  | .fence o sc => some (pack 0x70000000 [(3, o.code), (0, sc.code)])
  | .fences t sc => some (pack 0x70000040 [(22, t.toNat), (0, sc.code)])
  | .dcwb a g sc => some (pack 0x70000080 [(18, a.toNat), (15, g.toNat), (0, sc.code)])
  | .pf a g sc => some (pack 0x700000C0 [(18, a.toNat), (15, g.toNat), (0, sc.code)])
  | .putn d a core slot => some (pack 0x74000000 [(22, d.toNat), (18, a.toNat), (4, core.toNat), (0, slot.toNat)])
  | .xclr d => some (pack 0x74000100 [(22, d.toNat)])
  | .xpres d a => some (pack 0x74000200 [(22, d.toNat), (18, a.toNat)])
  | .send d a b phys spark n => some (pack 0x78000000 [(22, d.toNat), (18, a.toNat), (14, b.toNat), (4, bit phys), (3, bit spark), (0, n.toNat)])
  | .recv d a b n => some (pack 0x78000100 [(22, d.toNat), (18, a.toNat), (14, b.toNat), (0, n.toNat)])
  | .spkret => some (pack 0x78000200 [])
  | .spawn d a b ember s => some (pack 0x7C000000 [(22, d.toNat), (18, a.toNat), (14, b.toNat), (4, bit ember), (0, s.toNat)])
  | .reap d s => some (pack 0x7C000100 [(22, d.toNat), (0, s.toNat)])
  | .launch d a b graph => some (pack 0x7C000200 [(22, d.toNat), (18, a.toNat), (14, b.toNat), (0, bit graph)])
  | .exit => some (pack 0x7C000300 [])
  | .migr d a => some (pack 0x7C000400 [(22, d.toNat), (18, a.toNat)])
  | .dtask d => some (pack 0x7C000500 [(22, d.toNat)])
  | .slotq d a => some (pack 0x7C000600 [(22, d.toNat), (18, a.toNat)])
  | .nop => some (pack 0x00000001 [])
  | .halt => some (pack 0x00000002 [])
  | .wfi => some (pack 0x00000003 [])
  | .yield => some (pack 0x00000004 [])
  | .isync => some (pack 0x00000005 [])
  | .eret => some (pack 0x00000006 [])
  | .uiret => some (pack 0x00000007 [])
  | .trap code => some (pack 0x00000008 [(6, code.toNat)])
  | .brk code => some (pack 0x00000009 [(6, code.toNat)])
  | .mfc d crn => some (pack 0x04000000 [(22, d.toNat), (6, crn.toNat)])
  | .mtc a crn => some (pack 0x04000001 [(18, a.toNat), (6, crn.toNat)])
  | .segld b a n => some (pack 0x04000002 [(22, b.toNat), (18, a.toNat), (6, n.toNat)])
  | .segrd d p n => some (pack 0x04000003 [(22, d.toNat), (9, bit p), (6, n.toNat)])
  | .tlbi a k sc => some (pack 0x04000004 [(18, a.toNat), (10, k.toNat), (6, sc.code)])
  | .vadd d a b ty mk => some (pack 0x80000000 [(21, d.toNat), (16, a.toNat), (11, b.toNat), (1, ty.code), (0, bit mk)])
  | .vsub d a b ty mk => some (pack 0x80000020 [(21, d.toNat), (16, a.toNat), (11, b.toNat), (1, ty.code), (0, bit mk)])
  | .vmul d a b ty mk => some (pack 0x80000040 [(21, d.toNat), (16, a.toNat), (11, b.toNat), (1, ty.code), (0, bit mk)])
  | .vmulh d a b ty mk => some (pack 0x80000060 [(21, d.toNat), (16, a.toNat), (11, b.toNat), (1, ty.code), (0, bit mk)])
  | .vadds d a b ty mk => some (pack 0x80000080 [(21, d.toNat), (16, a.toNat), (11, b.toNat), (1, ty.code), (0, bit mk)])
  | .vsubs d a b ty mk => some (pack 0x800000A0 [(21, d.toNat), (16, a.toNat), (11, b.toNat), (1, ty.code), (0, bit mk)])
  | .vmin d a b ty mk => some (pack 0x800000C0 [(21, d.toNat), (16, a.toNat), (11, b.toNat), (1, ty.code), (0, bit mk)])
  | .vmax d a b ty mk => some (pack 0x800000E0 [(21, d.toNat), (16, a.toNat), (11, b.toNat), (1, ty.code), (0, bit mk)])
  | .vand d a b ty mk => some (pack 0x80000100 [(21, d.toNat), (16, a.toNat), (11, b.toNat), (1, ty.code), (0, bit mk)])
  | .vor d a b ty mk => some (pack 0x80000120 [(21, d.toNat), (16, a.toNat), (11, b.toNat), (1, ty.code), (0, bit mk)])
  | .vxor d a b ty mk => some (pack 0x80000140 [(21, d.toNat), (16, a.toNat), (11, b.toNat), (1, ty.code), (0, bit mk)])
  | .vshl d a b ty mk => some (pack 0x80000160 [(21, d.toNat), (16, a.toNat), (11, b.toNat), (1, ty.code), (0, bit mk)])
  | .vshr d a b ty mk => some (pack 0x80000180 [(21, d.toNat), (16, a.toNat), (11, b.toNat), (1, ty.code), (0, bit mk)])
  | .vsra d a b ty mk => some (pack 0x800001A0 [(21, d.toNat), (16, a.toNat), (11, b.toNat), (1, ty.code), (0, bit mk)])
  | .vabs d a ty mk => some (pack 0x800001C0 [(21, d.toNat), (16, a.toNat), (1, ty.code), (0, bit mk)])
  | .vfadd d a b ty mk => some (pack 0x84000000 [(21, d.toNat), (16, a.toNat), (11, b.toNat), (1, ty.code), (0, bit mk)])
  | .vfsub d a b ty mk => some (pack 0x84000020 [(21, d.toNat), (16, a.toNat), (11, b.toNat), (1, ty.code), (0, bit mk)])
  | .vfmul d a b ty mk => some (pack 0x84000040 [(21, d.toNat), (16, a.toNat), (11, b.toNat), (1, ty.code), (0, bit mk)])
  | .vfmin d a b ty mk => some (pack 0x84000060 [(21, d.toNat), (16, a.toNat), (11, b.toNat), (1, ty.code), (0, bit mk)])
  | .vfmax d a b ty mk => some (pack 0x84000080 [(21, d.toNat), (16, a.toNat), (11, b.toNat), (1, ty.code), (0, bit mk)])
  | .vfabs d a ty mk => some (pack 0x840000A0 [(21, d.toNat), (16, a.toNat), (1, ty.code), (0, bit mk)])
  | .vfneg d a ty mk => some (pack 0x840000C0 [(21, d.toNat), (16, a.toNat), (1, ty.code), (0, bit mk)])
  | .vfma d a b ty mk => some (pack 0x88000000 [(21, d.toNat), (16, a.toNat), (11, b.toNat), (1, ty.code), (0, bit mk)])
  | .vfms d a b ty mk => some (pack 0x88000020 [(21, d.toNat), (16, a.toNat), (11, b.toNat), (1, ty.code), (0, bit mk)])
  | .vfnma d a b ty mk => some (pack 0x88000040 [(21, d.toNat), (16, a.toNat), (11, b.toNat), (1, ty.code), (0, bit mk)])
  | .vbcast d b ty mk => some (pack 0x8C000000 [(21, d.toNat), (12, b.toNat), (2, ty.code), (1, bit mk)])
  | .vins d k b ty => some (pack 0x8C000200 [(21, d.toNat), (6, k.toNat / 32), (16, k.toNat % 32), (12, b.toNat), (2, ty.code)])
  | .vext v k b ty => some (pack 0x8C000400 [(21, v.toNat), (6, k.toNat / 32), (16, k.toNat % 32), (12, b.toNat), (2, ty.code)])
  | .vaddx d a b ty mk => some (pack 0x8C000600 [(21, d.toNat), (16, a.toNat), (12, b.toNat), (2, ty.code), (1, bit mk)])
  | .vfmulx d a b ty mk => some (pack 0x8C000800 [(21, d.toNat), (16, a.toNat), (12, b.toNat), (2, ty.code), (1, bit mk)])
  | .vcmp n a b c ty mk => some (pack 0x90000000 [(21, n.toNat), (16, a.toNat), (11, b.toNat), (5, c.code), (1, ty.code), (0, bit mk)])
  | .vsel d a b ty => some (pack 0x90000200 [(21, d.toNat), (16, a.toNat), (11, b.toNat), (1, ty.code)])
  | .mand n a b => some (pack 0x90000220 [(21, n.toNat), (16, a.toNat), (11, b.toNat)])
  | .mor n a b => some (pack 0x90000240 [(21, n.toNat), (16, a.toNat), (11, b.toNat)])
  | .mnot n a => some (pack 0x90000260 [(21, n.toNat), (16, a.toNat)])
  | .mpopc x a ty mk => some (pack 0x90000280 [(21, x.toNat), (16, a.toNat), (1, ty.code), (0, bit mk)])
  | .vcvt d a nan rm src p dst mk => some (pack 0x94000000 [(21, d.toNat), (16, a.toNat), (13, bit nan), (11, rm.code), (7, src.code), (5, p.toNat), (1, dst.code), (0, bit mk)])
  | .vcvts d a k src p dst mk => some (pack 0x94008000 [(21, d.toNat), (16, a.toNat), (11, k.toNat), (7, src.code), (5, p.toNat), (1, dst.code), (0, bit mk)])
  | .vexp2 d a ty mk => some (pack 0x98000000 [(21, d.toNat), (16, a.toNat), (1, ty.code), (0, bit mk)])
  | .vlog2 d a ty mk => some (pack 0x98000020 [(21, d.toNat), (16, a.toNat), (1, ty.code), (0, bit mk)])
  | .vrcp d a ty mk => some (pack 0x98000040 [(21, d.toNat), (16, a.toNat), (1, ty.code), (0, bit mk)])
  | .vrsq d a ty mk => some (pack 0x98000060 [(21, d.toNat), (16, a.toNat), (1, ty.code), (0, bit mk)])
  | .vsqrt d a ty mk => some (pack 0x98000080 [(21, d.toNat), (16, a.toNat), (1, ty.code), (0, bit mk)])
  | .vtanh d a ty mk => some (pack 0x980000A0 [(21, d.toNat), (16, a.toNat), (1, ty.code), (0, bit mk)])
  | .vsigm d a ty mk => some (pack 0x980000C0 [(21, d.toNat), (16, a.toNat), (1, ty.code), (0, bit mk)])
  | .vradd d a ty mk => some (pack 0x9C000000 [(21, d.toNat), (16, a.toNat), (1, ty.code), (0, bit mk)])
  | .vrmax d a ty mk => some (pack 0x9C000020 [(21, d.toNat), (16, a.toNat), (1, ty.code), (0, bit mk)])
  | .vrmin d a ty mk => some (pack 0x9C000040 [(21, d.toNat), (16, a.toNat), (1, ty.code), (0, bit mk)])
  | .vrmaxi d a ty mk => some (pack 0x9C000060 [(21, d.toNat), (16, a.toNat), (1, ty.code), (0, bit mk)])
  | .vscan d a ty mk => some (pack 0x9C000080 [(21, d.toNat), (16, a.toNat), (1, ty.code), (0, bit mk)])
  | .vperm d a b ty mk => some (pack 0xA0000000 [(21, d.toNat), (16, a.toNat), (11, b.toNat), (1, ty.code), (0, bit mk)])
  | .vslide d a k ty mk => some (pack 0xA0000020 [(21, d.toNat), (16, a.toNat), (11, k.toNat), (1, ty.code), (0, bit mk)])
  | .vslideUp d a k ty mk => some (pack 0xA0000040 [(21, d.toNat), (16, a.toNat), (11, k.toNat), (1, ty.code), (0, bit mk)])
  | .vrot d a k ty mk => some (pack 0xA0000060 [(21, d.toNat), (16, a.toNat), (11, k.toNat), (1, ty.code), (0, bit mk)])
  | .vdot4 d a b ty mk => some (pack 0xAC000000 [(21, d.toNat), (16, a.toNat), (11, b.toNat), (1, ty.code), (0, bit mk)])
  | .vdotf8 d a b ty mk => some (pack 0xAC000020 [(21, d.toNat), (16, a.toNat), (11, b.toNat), (1, ty.code), (0, bit mk)])
  | .vsortk d a b ty mk => some (pack 0xA4000000 [(21, d.toNat), (16, a.toNat), (11, b.toNat), (1, ty.code), (0, bit mk)])
  | .vmergek d a b ty => some (pack 0xA4000020 [(21, d.toNat), (16, a.toNat), (11, b.toNat), (1, ty.code)])
  | .vrnd d a mk => some (pack 0xA800000A [(21, d.toNat), (16, a.toNat), (0, bit mk)])
  | .dstkp d a b => some (pack 0xD0000000 [(22, d.toNat), (18, a.toNat), (14, b.toNat)])
  | .dstka d a b => some (pack 0xD0000100 [(22, d.toNat), (18, a.toNat), (14, b.toNat)])
  | .dstkc b => some (pack 0xD0000200 [(14, b.toNat)])
  | .kfmt c nan strict fb fa => some (pack 0xB0000000 [(22, c.toNat), (7, bit nan), (6, bit strict), (3, fb.code), (0, fa.code)])
  | .kmma t a b c as acc => some (pack 0xB4000000 [(22, t.toNat), (18, a.toNat), (14, b.toNat), (7, c.toNat), (6, bit as), (4, bit acc)])
  | .kmmas t a b c as acc => some (pack 0xB4000020 [(22, t.toNat), (18, a.toNat), (14, b.toNat), (7, c.toNat), (6, bit as), (4, bit acc)])
  | .kmmv t b c as acc => some (pack 0xB4000200 [(22, t.toNat), (14, b.toNat), (7, c.toNat), (6, bit as), (4, bit acc)])
  | .kzero t => some (pack 0xB8000000 [(22, t.toNat)])
  | .klda t a acc => some (pack 0xB8000200 [(22, t.toNat), (18, a.toNat), (4, bit acc)])
  | .ksta t a => some (pack 0xB8000400 [(22, t.toNat), (18, a.toNat)])
  | .kcvt t a c => some (pack 0xB8000600 [(22, t.toNat), (18, a.toNat), (7, c.toNat)])
  | .ksync => some (pack 0xB8000800 [])
  | .kscaleA a b => some (pack 0xBC000000 [(18, a.toNat), (14, b.toNat)])
  | .kscaleB a b => some (pack 0xBC000100 [(18, a.toNat), (14, b.toNat)])
  | .ctxsv keep s => some (pack 0xD4000000 [(10, bit keep), (6, s.toNat)])
  | .ctxld a s => some (pack 0xD4000001 [(18, a.toNat), (6, s.toNat)])
  | .accspill => some (pack 0xD4000002 [])
  | .accfill => some (pack 0xD4000003 [])
  | .cpyw a b k => some (pack 0xC4000000 [(18, a.toNat), (14, b.toNat), (0, k.toNat)])
  | .cpyq d => some (pack 0xC4000100 [(22, d.toNat)])
  | .cpyx d => some (pack 0xC4000200 [(22, d.toNat)])
  | .cpy d o sc => some (pack 0xC0000000 [(22, d.toNat), (3, o.code), (0, sc.code)])
  | .cpyt d o sc => some (pack 0xC0000100 [(22, d.toNat), (3, o.code), (0, sc.code)])
  | .cpyk d o sc => some (pack 0xC0000200 [(22, d.toNat), (3, o.code), (0, sc.code)])
  | .cpys d o sc => some (pack 0xC0000300 [(22, d.toNat), (3, o.code), (0, sc.code)])
  | .mwinCount d => some (pack 0xC8000001 [(22, d.toNat)])
  | .mwin d a => some (pack 0xC8000000 [(22, d.toNat), (18, a.toNat)])
  | .mtick d => some (pack 0xC8000100 [(22, d.toNat)])
  | .mack a => some (pack 0xC8000200 [(18, a.toNat)])
  | .frameIssue _ => none
  | .sequencerRelease _ => none
  | .burneComplete _ => none
  | .burnHandlerEntry _ => none
  | .handlerOverrun _ => none
  | .atomicPerform _ => none
  | .reductionContribution _ => none
  | .reductionAdmit _ _ => none
  | .reductionClose _ => none
  | .putnDelivery _ => none
  | .messageDelivery _ => none
  | .sparkHandlerStart _ => none
  | .illegalWord _ => none
  | .deferredTrap _ => none
  | .tlbiAck _ => none
  | .partWrite _ _ => none
  | .userInterruptEntry _ => none
  | .tagwait _ => none
  | .slotWake _ => none
  | .loadFill _ _ => none
  | .vectorLoadFill _ _ => none
  | .storeBufferDrain _ => none
  | .l2Eviction _ _ => none
  | .homeMerge _ _ => none
  | .emberArrival _ _ _ _ => none
  | .emberHandoff _ => none
  | .emberack _ _ => none
  | .haltRequest _ => none
  | .resumeRequest _ => none
  | .sparkDelivery _ => none
  | .launchAccept _ _ => none
  | .overflowMove _ => none
  | .priorityAging _ => none
  | .placement _ => none
  | .preempt _ _ => none
  | .groupComplete _ _ => none
  | .checkedRerun _ _ => none
  | .l2WritebackFail _ _ => none
  | .pageWalk _ _ _ _ => none
  | .pageFaultWake _ _ _ => none
  | .kilnGrant _ => none
  | .kilnRetire _ => none
  | .commandAccept _ => none
  | .cpykKilnIssue _ _ => none
  | .copyComplete _ _ => none
  | .copyFaultResume _ _ _ => none
  | .nvmeReadComplete _ _ _ => none
  | .storageControllerReset => none
  | .keySlotInstall _ _ _ => none
  | .tick _ => none
  | .slippedTickLaunch _ => none
  | .recordPresent _ => none
  | .recordExpire _ => none
  | .dtadjStep _ => none
  | .timeReferenceInput _ => none
  | .flitReceive _ _ => none
  | .lack _ _ _ => none
  | .linkDown _ => none
  | .pause _ _ => none
  | .keyx _ _ => none
  | .rekeyStart _ => none
  | .keyout _ => none
  | .keyoutTimeout _ => none
  | .writeArrival _ _ => none
  | .releaseArrival _ _ => none
  | .flagack _ => none
  | .shortfallTimeout _ _ => none
  | .shortfall _ _ => none
  | .giveup _ _ => none
  | .notable _ _ => none
  | .notableRetry _ _ => none
  | .streamEntryFree _ _ => none
  | .probe _ _ => none
  | .probeack _ _ => none
  | .deadlinkTimeout _ => none
  | .frozen _ => none
  | .fzctlRetry _ _ => none
  | .fzctlRefuse _ _ => none
  | .resume _ _ => none
  | .remoteRead _ _ => none
  | .ahloadLoad _ => none
  | .ahloadUnload _ => none
  | .ringTailWrite _ _ => none
  | .ringRecord _ => none
  | .ringResume _ => none
  | .ringEnable _ _ => none
  | .hostWrite _ _ => none
  | .hostRead _ _ => none
  | .registerWrite _ _ _ => none
  | .islceilWrite _ _ => none
  | .islandPowerSample _ _ => none
  | .scrub _ _ => none
  | .packageFailover _ _ => none
  | .deviceReset => none
  | .boot _ => none
  | .attestationRequest _ => none
  | .coreReset _ => none
  | .powerGate _ _ => none

end Sys2Proof
end

