-- ==== Sys2Proof/Machine/Maps.lean ====
section
/-! DEFINITION. Sparse tables as plain data: lists of (key, value) pairs with strictly rising keys. Memory, tags, slots and
every other numbered store of the machine are held in this one form, so that equal tables are equal data. -/
namespace Sys2Proof.Machine

/-- A sparse table: keys rise strictly (`Table.sorted`). -/
abbrev Table (α : Type) := List (Nat × α)

namespace Table
variable {α : Type}

/-- The entry of a key. -/
def find (t : Table α) (k : Nat) : Option α :=
  match t with
  | [] => none
  | (a, v) :: r => if a = k then some v else find r k

/-- The entry of a key, or what an unlisted key reads as. -/
def get (d : α) (t : Table α) (k : Nat) : α := (find t k).getD d

/-- Inserts or replaces the entry of a key, keeping the keys in order. -/
def put (t : Table α) (k : Nat) (v : α) : Table α :=
  match t with
  | [] => [(k, v)]
  | (a, w) :: r => if k < a then (k, v) :: (a, w) :: r else if k = a then (k, v) :: r else (a, w) :: put r k v

/-- Removes the entry of a key. -/
def del (t : Table α) (k : Nat) : Table α := t.filter (fun e => e.1 != k)

/-- Writes a key of a table whose unlisted keys read as `d`: writing `d` removes the entry. -/
def set [DecidableEq α] (d : α) (t : Table α) (k : Nat) (v : α) : Table α :=
  if v = d then del t k else put t k v

/-- The keys rise strictly. -/
def sorted : Table α → Bool
  | [] => true
  | [_] => true
  | (a, _) :: (b, w) :: r => decide (a < b) && sorted ((b, w) :: r)

/-- The canonical form: keys rise strictly and no entry equals what an unlisted key reads as. -/
def wf [DecidableEq α] (d : α) (t : Table α) : Bool := sorted t && t.all (fun e => decide (e.2 ≠ d))

end Table
end Sys2Proof.Machine
end

