-- ==== Sys2Proof/Machine/State.lean ====
section
/-! DEFINITION. The state of one Norqua package as plain data. INVENTORY.md lists every field with the rule that names it
and its reset value. A slot is named by SLOTID[14:0] (R38), a core, a clamp and a hearth by the same number without the
lower fields. -/
namespace Sys2Proof.Machine

/-- Four shadow registers x12 to x15 with their full/empty bits (R106, R114), and the result latencies that run for them (R61). -/
structure Bank where
  x12 : Word
  x13 : Word
  x14 : Word
  x15 : Word
  full : BitVec 4
  lat : List (Nat × Nat)
  deriving DecidableEq, Repr

/-- The per-slot control registers of R37. -/
structure Ctl where
  status : Word
  lid : Word
  rcba : Word
  epc : Word
  ecause : Word
  eaddr : Word
  einfo : Word
  evec : Word
  estat : Word
  burnst : Word
  bstart : Word
  bmin : Word
  bmax : Word
  bhnd : Word
  bepc : Word
  uivec : Word
  uixid : Word
  uipc : Word
  waitlim : Word
  kscba : Word
  kscsa : Word
  kscbb : Word
  kscsb : Word
  rngklo : Word
  rngkhi : Word
  fpst : Word
  fltst : Word
  fdom : Word
  islsel : Word
  deriving DecidableEq, Repr

/-- Every per-slot control register at 0, the reset value of R37. -/
def Ctl.zero : Ctl :=
  ⟨0, 0, 0, 0, 0, 0, 0, 0, 0, 0, 0, 0, 0, 0, 0, 0, 0, 0, 0, 0, 0, 0, 0, 0, 0, 0, 0, 0, 0⟩

/-- Whether a slot takes part in the rotation (R95, R110, R118, R189). -/
inductive Mode where
  /-- holds no thread -/
  | free
  | running
  /-- halted by HALT or a debugger -/
  | halted
  /-- stopped by a double fault or a handler overrun -/
  | stopped
  /-- leaving through CTXSV, REAP or an ember's departure: issues nothing more -/
  | leaving
  deriving DecidableEq, Repr

/-- Why a slot parks (R21). -/
inductive ParkReason where
  | reg (r : Nat)
  | vreg (v : Nat)
  /-- the tag of the word, the state awaited, and the offset for EADDR -/
  | tag (l : Loc) (full : Bool) (ea : Word)
  | msg (sender seq : Word)
  /-- a page fault with its token; declined when the service declines -/
  | page (token : Nat) (ea : Word) (einfo : Word)
  | burne
  | repf
  | sendStore
  | wfi
  deriving DecidableEq, Repr

/-- A park: why, since when (R23), whether its ending event has occurred, whether it was declined (R288), whether the first
of the two own turns of R22 has passed, and the cycle in which the event occurred (R22). -/
structure Park where
  reason : ParkReason
  since : Nat
  occurred : Bool
  declined : Bool
  passed : Bool
  at_ : Nat
  deriving DecidableEq, Repr

/-- A run of bytes that a fill still waits for: the answer's name, the position, the length, the global address, and, for a lane of its
own (R134), that lane's offset for EADDR. -/
structure FillWait where
  id : Nat
  pos : Nat
  len : Nat
  addr : Word
  ea : Option Word
  deriving DecidableEq, Repr

/-- A trap to be taken: cause, return PC, EADDR and EINFO (R107). -/
structure Trap where
  cause : Nat
  epc : Word
  eaddr : Word
  einfo : Word
  deriving DecidableEq, Repr

/-- A trap taken later than its instruction (R107). -/
structure DTrap where
  cause : Nat
  eaddr : Word
  einfo : Word
  deriving DecidableEq, Repr

/-- An outstanding fill of an x register or of a vector register (R27, R28). -/
structure Fill where
  vec : Bool
  reg : Nat
  /-- bytes taken at issue; answers are put in as they arrive -/
  buf : List Byte
  waits : List FillWait
  /-- bytes forwarded from the slot's own entries, put in last (R133) -/
  own : List (Nat × Byte)
  /-- scalar loads: size in bytes and sign extension -/
  size : Nat
  signed : Bool
  /-- the fill fails, and delivers this trap (R107) -/
  failed : Option DTrap
  /-- low 32 bits of the load's PC -/
  pc : Nat
  /-- the offset for EADDR, and EINFO's access fields (R108) -/
  ea : Word
  einfo : Word
  /-- a TAGRD of another package: the value is the tag that the answer brings (R136) -/
  ofTag : Bool
  deriving DecidableEq, Repr

/-- Bytes a write puts at one place, and the tag change that goes with them (R124). -/
structure WritePart where
  loc : Loc
  bytes : List Byte
  tag : Option Bool
  /-- the segment address, its root and right, while the translation of issue holds (R292); none when untranslated -/
  va : Option Nat
  deriving DecidableEq, Repr

/-- What an entry of the store buffer does when it drains (R133). -/
inductive SbKind where
  | write (parts : List WritePart)
  | atomic (r : AtomicReq)
  | reduce (r : RedReq)
  /-- a message and its destination slot or thread (R152) -/
  | send (phys spark : Bool) (dest : Word) (m : Message)
  /-- retires the records of the step's window below k (R312) -/
  | mack (k : Nat)
  deriving DecidableEq, Repr

/-- An entry of the store buffer. -/
structure SbEntry where
  kind : SbKind
  /-- the scope at which the entry is a release (R160), and whether the instruction itself is one -/
  rel : Option Scope
  own : Bool
  /-- held by a burn (R93) -/
  held : Bool
  /-- the segment register of the access, which names the ordering stream (R324) -/
  seg : Nat
  /-- the translation of issue was shot down (R292) -/
  stale : Bool
  /-- low 32 bits of the PC -/
  pc : Nat
  /-- an atomic that is an acquire (R162) -/
  acq : Bool
  deriving DecidableEq, Repr

/-- What the slot's next instruction waits for after an instruction that has issued (R147, R148, R123, R188, R198, R305). -/
inductive Barrier where
  | fence (o : MemOrd) (sc : Scope)
  | fences (t : Reg) (sc : Scope)
  /-- a FENCES whose probes have been sent (R331) -/
  | probed (t : Reg)
  /-- an atomic that is an acquire is performed (R162) -/
  | performed
  | exit
  /-- an EXIT whose probes have been sent (R188) -/
  | ending
  /-- being reaped (R189) -/
  | reap
  | ksync
  /-- kind, register operand, root, scope -/
  | tlbi (k : Nat) (xa root : Word) (sc : Scope)
  /-- the patch overlays of SPAWN and their reads (R58, R186) -/
  | overlays
  | ctxsv (slot : Nat) (keep : Bool)
  | cpyx (d : Reg)
  /-- an ember leaves for the clamp of this place: package and clamp, HADDR, and the PC it arrives with (R25, R190) -/
  | depart (pkg clamp : Nat) (haddr pc : Word)
  /-- its record is written, and the packet leaves once that is performed and there is room (R26, R166) -/
  | departing (pkg clamp : Nat) (haddr pc : Word)
  /-- a saved thread's record is written, and the slot is free once that is performed (R166) -/
  | recorded
  /-- every write of the slot to another package is acknowledged (R198) -/
  | sentAll
  /-- the packet is on its way to another package, or was refused there for want of room (R335) -/
  | sent (pkg clamp : Nat) (p : EmberPacket) (refused : Bool)
  /-- an ember that has been handed to the slot reads its record (R26) -/
  | landing (p : EmberPacket)
  deriving DecidableEq, Repr

/-- A patch entry of the slot's overlay (R58). -/
structure Overlay where
  ioff : Nat
  kind : Nat
  psize : Nat
  shift : Nat
  poff : Nat
  value : Word
  bad : Bool
  deriving DecidableEq, Repr

/-- A submitted mailbox (R296): form, flags, sequence, words, captured segments and scale registers. -/
structure Submission where
  form : Nat
  acq : Bool
  rel : Bool
  scope : Scope
  seq : Nat
  mb : List Word
  sg : List Seg
  ksc : List Word
  /-- the issuer's privilege, and the root of its page table (R38, R284, R297) -/
  priv : Bool
  root : Word
  deriving DecidableEq, Repr

/-- What came back for a tagged access or a returning AFADD: bytes, tag and status, or the loss of the request, with EADDR (R317, R331). -/
inductive TagReply where
  | got (bytes : List Byte) (tag : Bool) (x : RespStatus)
  | lost (ea : Word)
  deriving DecidableEq, Repr

/-- An access of a word of another package that waits for its answer where it stands (R107, R124, R136): 0 LDF, 1 LDFE, 2 STEF, 4 and 5
a returning AFADD; or, while the slot is parked, a look at the tag. The answer is taken on the slot's own turn (R105, R109). -/
structure RemoteTag where
  id : Nat
  kind : Nat
  reg : Reg
  loc : Loc
  ea : Word
  einfo : Word
  poll : Bool
  answer : Option TagReply
  deriving DecidableEq, Repr

/-- A read of code, of an overlay, of a record or by a collier in another package: what is read, the answer's name, the answer,
whether its data is uncorrectable, its tag, and the cause that refuses a collier's read. -/
structure RemoteRead where
  key : Nat
  id : Nat
  answer : Option Word
  bad : Bool
  tag : Bool
  fail : Option Nat
  deriving DecidableEq, Repr

/-- What a unit of the package does in memory and around it (R103, R167, R181). -/
inductive UnitKind where
  | write (w : Word) (bytes : List Byte)
  /-- a write that is a release at `.sys`, with a tag change where it has one -/
  | release (w : Word) (bytes : List Byte) (tag : Option Bool)
  /-- counts down the DEPCNT of a successor: of its RCB, or of the entry of a replay, by number and root (R175, R183) -/
  | decrement (succ : Word) (replay : Option (Nat × Word))
  /-- a handler message to the slot of a SLOTID (R181) -/
  | message (dest : Word) (m : Message)
  /-- what has been sent to another package is acknowledged -/
  | wait
  /-- a spark for the stoker of a package and core -/
  | stoker (pkg core : Nat) (w0 w1 w2 w3 : Word)
  deriving DecidableEq, Repr

/-- An operation of a unit that has not been performed: operations of one lane go in order. Those of a slot's own record go out on the
slot's streams. -/
structure UnitOp where
  lane : Word
  src : Nat
  unit : Bool
  kind : UnitKind
  deriving DecidableEq, Repr

/-- Who launched a slot's thread (R173, R186, R312): nobody but a stoker; a launch unit of this package, by hearth; or another package,
whose ember it is. -/
inductive Launcher where
  | stoker
  | hearth (h : Nat)
  | away
  deriving DecidableEq, Repr

/-- One slot and its thread (R40). -/
structure Slot where
  mode : Mode
  x : Vector Word 16
  xf : BitVec 16
  /-- x registers that a failed fill left empty: nothing fills them (R107) -/
  xdead : BitVec 16
  v : Vector VWord 32
  vp : BitVec 32
  m : Vector Word 4
  pc : Word
  sg : Vector Seg 8
  ctl : Ctl
  sbank : Bank
  sseg : Seg
  ubank : Bank
  park : Option Park
  barrier : Option Barrier
  yielded : Bool
  fills : List Fill
  /-- registers (x: 0 to 15, v: 16 to 47) whose result latency runs, with the cycle at which each is full (R61, R221) -/
  lat : List (Nat × Nat)
  sb : List SbEntry
  msgs : List Message
  sendCount : Nat
  /-- the waiting PUTN value: register, value and sender (R150) -/
  putn : Option (Reg × Word × Nat)
  /-- FENCES counts in the layout of R148 -/
  fstat : Word
  /-- the widest scope of a FENCE with a release part: every later write is a release at it (R160) -/
  fenceRel : Option Scope
  /-- packages written since the last FENCES (R148) -/
  written : List Nat
  /-- packages toward which a write has been lost or refused since the last FENCES `.sys`: no release covers it (R168) -/
  lost : List Nat
  taskPos : Nat
  /-- E and the effective NTASK of the group (R184) -/
  extent : Nat
  ntask : Nat
  ca : Word
  overlays : List Overlay
  mb : List Word
  sub : Option Submission
  xferCount : Nat
  /-- CPYX counts: commands completed with a non-zero status, and the latest such status (R305) -/
  cpyBad : Nat
  cpyLast : Nat
  /-- queued copy completions: transfer identifier and handler address (R113) -/
  completions : List (Word × Word)
  /-- pending TAGWAIT user interrupt: EADDR and EINFO[63:32] (R116) -/
  tagwait : Option (Word × BitVec 32)
  deferred : List DTrap
  /-- a trap whose entry waits until no fill is outstanding into x12 to x15 (R106) -/
  trapWait : Option Trap
  /-- exception bits of instructions that have issued and not completed: for FPST, for FLTST, and the cycle of completion (R210) -/
  sticks : List (Word × Word × Nat)
  faultCount : Nat
  /-- one more than the cycle in which the kiln last retired a request of the slot (R256) -/
  kDone : Nat
  /-- the four ordering-stream words (R324) -/
  streams : List Word
  /-- domain in whose ring the slot's record is reserved (R111) -/
  reserved : Option Word
  mseq : Nat
  /-- LSEQ of the launch the thread belongs to (R173), and DTIME since which its slot time is not charged (R171) -/
  lseq : Nat
  launcher : Launcher
  startAt : Nat
  /-- halted at this instant of the clock (R96, R118) -/
  haltedAt : Option Nat
  haltRequest : Bool
  resumeRequest : Bool
  /-- the debugger has enabled halting by BRK (R117) -/
  debugHalt : Bool
  remoteTag : Option RemoteTag
  /-- code read from another package since the last ISYNC and the last change of sg0 -/
  remoteFetch : List RemoteRead
  /-- bytes hashed for the digest of a checked group; and writes not yet among them, in program order: how many entries of the store buffer
  come before, and the bytes once known (R357) -/
  digest : List Byte
  hashes : List (Nat × Option (List Byte))
  deriving DecidableEq, Repr

/-- A slot that holds no thread, every register at its reset value (assumption 1). -/
def Slot.free : Slot where
  mode := .free
  x := Vector.replicate 16 0
  xf := 0xFFFF
  xdead := 0
  v := Vector.replicate 32 0
  vp := 0xFFFFFFFF
  m := Vector.replicate 4 0
  pc := 0
  sg := Vector.replicate 8 Seg.empty
  ctl := Ctl.zero
  sbank := ⟨0, 0, 0, 0, 0xF, []⟩
  sseg := Seg.empty
  ubank := ⟨0, 0, 0, 0, 0xF, []⟩
  park := none
  barrier := none
  yielded := false
  fills := []
  lat := []
  sb := []
  msgs := []
  sendCount := 0
  putn := none
  fstat := 0
  fenceRel := none
  written := []
  lost := []
  taskPos := 0
  extent := 0
  ntask := 0
  ca := 0
  overlays := []
  mb := [0, 0, 0, 0, 0, 0, 0, 0]
  sub := none
  xferCount := 0
  cpyBad := 0
  cpyLast := 0
  completions := []
  tagwait := none
  deferred := []
  trapWait := none
  sticks := []
  faultCount := 0
  kDone := 0
  streams := [0, 0, 0, 0]
  reserved := none
  mseq := 0
  lseq := 0
  launcher := .stoker
  startAt := 0
  haltedAt := none
  haltRequest := false
  resumeRequest := false
  debugHalt := false
  remoteTag := none
  remoteFetch := []
  digest := []
  hashes := []

/-- A repeat frame (R83 to R87): owner, captured words, strides, the next (j, i), and whether it is frozen by a fault. -/
structure Frame where
  owner : Nat
  words : List Instr
  n : Nat
  dv : Nat
  dx : Nat
  j : Nat
  i : Nat
  /-- sg0 offset of the REPF -/
  repf : Word
  frozen : Bool
  /-- cycle of the REPF or of the latest frame instruction (R85) -/
  at_ : Nat
  deriving DecidableEq, Repr

/-- The kind of a kiln request (R239). -/
inductive KKind where
  | mma | mmas | mmv | zero | lda | sta | cvt
  deriving DecidableEq, Repr

/-- One row of an operand as the kiln read it (R243 to R247): value bytes without rotation, position metadata, scale bytes; short
when a byte lies outside the scratchpad (R244). -/
structure KRow where
  data : List Byte
  meta_ : List Byte
  scales : List Byte
  short : Bool
  deriving DecidableEq, Repr

/-- A kiln request with everything it captured at issue (R239). -/
structure KReq where
  slot : Nat
  kind : KKind
  t : TReg
  ea : Word
  oa : Word
  eb : Word
  ob : Word
  fmt : Word
  /-- KSCBA, KSCSA, KSCBB, KSCSB -/
  ksc : List Word
  scaled : Bool
  acc : Bool
  v : List VWord
  timed : Bool
  /-- low 32 bits of the PC -/
  pc : Nat
  /-- grants received (a strict KMMAS needs two) -/
  grants : Nat
  /-- sequence of the CPYK command it belongs to (R301) -/
  cmd : Option Nat
  /-- rows of A and of B, read at a grant (R246) -/
  a : List KRow
  b : List KRow
  /-- an uncorrectable byte was read, in descriptor form (R251) -/
  bad : Option Word
  /-- cycle at which the last grant ends -/
  ends : Nat
  deriving DecidableEq, Repr

/-- A command in the collier's queue (R298). -/
structure Command where
  /-- slot number of the issuer in the core, and its identity -/
  slot : Nat
  lseq : Nat
  rcba : Word
  ca : Word
  sub : Submission
  /-- status once known (R303) -/
  status : Option Nat
  refusedChunks : Nat
  /-- bytes, or rows of a CPYT, already moved -/
  moved : Nat
  /-- parked on a page fault with this token (R304) -/
  parked : Option Nat
  /-- CPYK: the kiln request is made -/
  kilnIssued : Bool
  /-- CPYS: handed to the storage engine -/
  handed : Bool
  /-- running position, which names its ordering stream (R298, R324), and whether it has had one -/
  pos : Option Nat
  started : Bool
  /-- a write of its stream has been lost (R299) -/
  lost : Bool
  /-- its slot has been reaped (R306) -/
  orphan : Bool
  /-- the service declined a fault on its completion word (R304) -/
  noWord : Bool
  /-- its completion word has been sent to another package (R298) -/
  filled : Bool
  deriving DecidableEq, Repr

/-- A spark in the stoker's queue (R18): four words, or a placement (R177) that names the RCB and, for each thread, the slot and
the LID. -/
inductive Spark where
  | words (w0 w1 w2 w3 : Word)
  | place (rcba : Word) (lseq : Nat) (threads : List (Nat × Word))
  deriving DecidableEq, Repr

/-- A message between a slot's port and its destination (R151). -/
structure Flight where
  src : Nat
  dst : Nat
  /-- sent with `phys` -/
  phys : Bool
  spark : Bool
  m : Message
  /-- a message to a thread not yet placed: group, launch and LID -/
  waiting : Option (Word × Nat × Nat)
  deriving DecidableEq, Repr

/-- Per-core state (R40). -/
structure Core where
  part : Word
  accown : Word
  accsave : Word
  ptroot : Word
  kfmt : List Word
  /-- tiles: 1,024 binary32 values each; an unlisted tile is all +0 -/
  tiles : Table (List (BitVec 32))
  kTimed : Option KReq
  kUntimed : Option KReq
  kRun : List KReq
  frame : Option Frame
  suspended : Option Frame
  /-- one more than the cycle in which the rotation last issued a vector-pipe instruction (R85) -/
  vpipe : Nat
  repfQueue : List Nat
  sparks : List Spark
  sparksHeld : List Spark
  /-- inbound handler messages (R18) -/
  handlers : List Flight
  commands : List Command
  collierFaults : Nat
  acceptNext : Nat
  /-- nothing more is placed until the core is reset (R110) -/
  closed : Bool
  /-- being reset: EXIT of the stoker is legal (R188) -/
  resetting : Bool
  /-- the slot whose tile spill to another package is not yet performed (R198) -/
  spilling : Option Nat
  deriving DecidableEq, Repr

/-- A core after reset. -/
def Core.reset : Core :=
  ⟨0, 0, 0, 0, [0, 0, 0, 0], [], none, none, [], none, none, 0, [], [], [], [], [], 0, 0, false, false, none⟩

/-- A cached leaf, or a cached table entry, whose TYPE is 0 (R292): root, first address and span, home address parameters, and the two words of the entry. -/
structure TlbEntry where
  root : Word
  va : Nat
  span : Nat
  w0 : Nat
  w1 : Nat
  /-- the home address of the entry, for the A and D update (R289) -/
  entry : Nat
  deriving DecidableEq, Repr

/-- Per-clamp state. -/
structure Clamp where
  /-- its port is out of service after an uncorrectable error in its caches (R293) -/
  out : Bool
  lastCore : Nat
  tlb : List TlbEntry
  embers : List EmberPacket
  /-- RCBA, LID and MSEQ of packets accepted (R26), and sources, by package and slot, of packets refused for want of room (R335) -/
  accepted : List (Word × Word × Nat)
  refused : List (Nat × Nat)
  nextCore : Nat
  gated : Bool
  /-- cycles of 3.6 GHz that the clamp's clock has left out since reset, and its phase in MHz, while its frequency is lower
  (R16, R360) -/
  lag : Nat
  phase : Nat
  /-- the kiln's grant ends at this cycle (R239) -/
  kBusy : Nat
  deriving DecidableEq, Repr

/-- A clamp after reset: core 15 counts as granted last (R239). -/
def Clamp.reset : Clamp := ⟨false, 15, [], [], [], [], 0, false, 0, 0, 0⟩

/-- A byte an L2 holds dirty, and the slots that wrote it (R161); sent: on its way home by an eviction. -/
structure DirtyByte where
  val : Byte
  writers : List Nat
  sent : Bool
  deriving DecidableEq, Repr

/-- The tile that a 4 KiB line of an L2 holds: TID, tile row and tile column (R286). -/
structure TileLine where
  tid : Nat
  tr : Nat
  tc : Nat
  deriving DecidableEq, Repr

/-- A tag an L2 holds dirty. -/
structure DirtyTag where
  full : Bool
  writers : List Nat
  sent : Bool
  deriving DecidableEq, Repr

/-- The effective fields of an RCB (R171). -/
structure Rcb where
  parent : Word
  kind : Nat
  depth : Nat
  prio : Nat
  flags : Nat
  bslott : Nat
  bslots : Nat
  bgran : Nat
  blaunch : Nat
  fdom : Word
  part : Word
  kaddr : Word
  paddr : Word
  psize : Nat
  extt : Nat
  extc : Nat
  crn : Nat
  caddr : Word
  ctag : Word
  cspkd : Word
  cspkh : Word
  ntask : Nat
  tsegb : Word
  tsegl : Word
  tevec : Word
  savea : Word
  graph : Word
  rpca : Word
  rpcn : Nat
  rpcs : Nat
  /-- SUCC0 to SUCC3, and the address of the list with more (R175) -/
  succ : List Word
  succx : Word
  deriving DecidableEq, Repr

/-- One record of a step's window (R312, R339). -/
structure WindowRec where
  sink : Nat
  /-- record number n -/
  n : Nat
  off : Nat
  stamp : Nat
  stream : Nat
  seq : Nat
  retired : Bool
  deriving DecidableEq, Repr

/-- The window and tick instant of a step (R312). -/
structure StepWindow where
  desc : Nat
  tick : Nat
  recs : List WindowRec
  deriving DecidableEq, Repr

/-- A thread of a placed group: 0 promised by a placement, 1 in its slot, 2 saved, 3 ended (R177, R179, R181). -/
structure Placed where
  lid : Nat
  logical : Nat
  slot : Nat
  phase : Nat
  deriving DecidableEq, Repr

/-- What a node of the launch's path to the root grants (R171, R177): its address, KIND, BCLASS and effective budgets. -/
structure Budget where
  rcba : Word
  kind : Nat
  bclass : Nat
  bslott : Nat
  bslots : Nat
  bgran : Nat
  deriving DecidableEq, Repr

/-- A launch in the pending pool (R173). -/
structure Pend where
  lseq : Nat
  rcba : Word
  g : Rcb
  /-- the node and its ancestors, the node first -/
  chain : List Budget
  /-- present queue (R176) and since when -/
  prio : Nat
  since : Nat
  /-- 1 pending, 2 ready, 3 running, 4 being saved by a pre-emption -/
  state : Nat
  replay : Option Nat
  /-- base of sg6 of a replay's node (R183) -/
  copy : Word
  deps : Nat
  threads : List Placed
  nexit : Nat
  nreap : Nat
  preempted : Bool
  tplace : Option Nat
  usedt : Nat
  fail : Option Nat
  under : Bool
  window : Option StepWindow
  /-- run of a checked group (R357), digests of its threads, clamps that the run has used, and digest and clamps of the first run -/
  run : Nat
  digests : Table (List Byte)
  clamps : List Nat
  firstDigest : List Byte
  firstClamps : List Nat
  deriving DecidableEq, Repr

/-- An overflow entry (R174): a launch, or a graph replay that waits for its copy, with its patch list. -/
structure Overflow where
  lseq : Nat
  parent : Word
  rcba : Word
  pend : Option Pend
  plist : Word
  replay : Nat
  deriving DecidableEq, Repr

/-- A replay of a graph (R183): its number and sequence, the hearth that accepts its nodes, the address of its parameter copy, its nodes,
those accepted and completed, and the decrements of nodes not yet accepted. -/
structure Replay where
  n : Nat
  lseq : Nat
  hearth : Nat
  copy : Word
  nodes : List Word
  accepted : List Word
  done : List Word
  pre : List Word
  deriving DecidableEq, Repr

/-- A graph that has been replayed: its root, the next replay number, the nodes known, the replays not complete (R183). -/
structure Graph where
  root : Word
  next : Nat
  nodes : List Word
  replays : List Replay
  deriving DecidableEq, Repr

/-- Per-hearth state. -/
structure Hearth where
  dirty : Table DirtyByte
  dtags : Table DirtyTag
  /-- words of the L2 with an uncorrectable error, by address / 8 (R355), and lines, by address / 128, that could not be written back for
  one (R356) -/
  bad : List Nat
  failing : List Nat
  /-- who last wrote to each dirty line, latest first: address / 128, slot and fault domain (R356) -/
  last : List (Nat × Nat × Option Word)
  /-- tile lines, by their physical base / 4,096 (R286) -/
  tiles : Table TileLine
  sysfdom : Word
  sysfdomSet : Bool
  nextLseq : Nat
  pool : List Pend
  overflow : List Overflow
  /-- job domains whose burn-class work the hearth has accepted: their slots and granules are reserved for it (R178) -/
  reserves : List Word
  deriving DecidableEq, Repr

/-- A hearth after reset. -/
def Hearth.reset : Hearth := ⟨[], [], [], [], [], [], 0, false, 1, [], [], []⟩

/-- An open ordered reduction (R144). -/
structure Reduction where
  addr : Nat
  size : Nat
  rcba : Word
  extent : Nat
  v : Word
  next : Nat
  buffered : List (Nat × Word)
  tagged : Bool
  deriving DecidableEq, Repr

/-- Ordered reductions of one grate (R144): open slots and contributions held at its input. -/
structure Grate where
  open_ : List Reduction
  held : List RedReq
  deriving DecidableEq, Repr

/-- A grate after reset. -/
def Grate.reset : Grate := ⟨[], []⟩

/-- A window of a source stream (R325). -/
structure SrcWindow where
  win : Nat
  base : Nat
  n : Nat
  closed : Bool
  deriving DecidableEq, Repr

/-- A stream toward a package, at the source grate (R324, R325). -/
structure SrcStream where
  sid : Nat
  dst : Nat
  seq : Nat
  wins : List SrcWindow
  nextWin : Nat
  frozen : Bool
  deriving DecidableEq, Repr

/-- A send-store entry (R327): a write or atomic bound for another package. -/
structure SendEntry where
  flit : WriteFlit
  /-- transmitted at least once -/
  sent : Bool
  /-- refused by NOTABLE since, the back-off in ns, and the instant of the next try (R328) -/
  backoff : Option (Nat × Nat × Nat)
  slot : Nat
  /-- known to be applied from a SHORTFALL (R330) -/
  applied : Bool
  /-- its stored bytes have an uncorrectable error (R355) -/
  bad : Bool
  /-- written by a unit of the package, not by a slot or a command -/
  unit : Bool
  deriving DecidableEq, Repr

/-- A release sent and not acknowledged by every stream it closed (R329). -/
structure OutRelease where
  slot : Nat
  dst : Nat
  flit : ReleaseFlit
  sids : List Nat
  wins : List WindowName
  /-- EADDR of a REMOTE (R330) -/
  ea : Word
  pc : Nat
  /-- it waits for the RESUME of a frozen stream (R332) -/
  queued : Bool
  unit : Bool
  deriving DecidableEq, Repr

/-- A window at the arrival grate (R328). -/
structure ArrWindow where
  win : Nat
  base : Option Nat
  n : Nat
  applied : List Nat
  rounds : Nat
  /-- one of its writes was refused here, so that no release that covers it is applied (R168) -/
  failed : Bool
  deriving DecidableEq, Repr

/-- A stream-table entry (R328). -/
structure StreamEntry where
  grate : Nat
  sid : Nat
  oldest : Nat
  wins : List ArrWindow
  idleSince : Nat
  /-- frozen with this token (R332) -/
  frozen : Option Nat
  deriving DecidableEq, Repr

/-- A release withheld at the arrival grate (R329, R330). -/
structure Withheld where
  grate : Nat
  flit : ReleaseFlit
  since : Nat
  deriving DecidableEq, Repr

/-- A request that faulted at this package and is held with a token (R332): a READ or a returning ATOMIC. -/
structure Faulted where
  grate : Nat
  token : Nat
  body : FlitBody
  deriving DecidableEq, Repr

/-- A flit in a queue, and DTIME since which it has waited (R319). -/
structure QueuedFlit where
  body : FlitBody
  since : Nat
  deriving DecidableEq, Repr

/-- The keys and salts of a link at one of its ends (R322): AES-256 keys and GCM salts, outward and inward. -/
structure KeySet where
  keyOut : List Byte
  keyIn : List Byte
  saltOut : List Byte
  saltIn : List Byte
  deriving DecidableEq, Repr

/-- One link direction pair of a flue port (R319 to R323). -/
structure Link where
  lseq : Nat
  rxNext : Nat
  /-- flits not acknowledged, with their LSEQ, and how often the oldest has been replayed (R320) -/
  replay : List (Nat × QueuedFlit)
  replays : Nat
  /-- flit counter and key phase of the sending direction, the re-key count, the keys and salts, and the old ones while the receiver keeps
  them (R322, R323) -/
  fctr : Nat
  kph : Bool
  epoch : Nat
  keys : Option KeySet
  oldKeys : Option KeySet
  down : Bool
  /-- the lossless class is paused by the peer, and this end has paused the peer's (R321) -/
  paused : Bool
  pausing : Bool
  /-- an exchange of keys runs: this end has sent its offer; it has signed (R322) -/
  rekeying : Bool
  signed : Bool
  keyoutAt : Option Nat
  held : List QueuedFlit
  /-- flits that a failed link of the bundle handed over, which go first and in their order (R320) -/
  again : List QueuedFlit
  /-- a replay came to the end of the counter: it is made again under the next key (R323) -/
  stalled : Bool
  /-- flits of link control that found no counter value -/
  owed : List FlitBody
  deriving DecidableEq, Repr

/-- A link after reset: no keys until its first exchange (R322). -/
def Link.reset : Link := ⟨0, 0, [], 0, 0, false, 0, none, none, false, false, false, false, false, none, [], [], false, []⟩

/-- The flue of the package (R317 to R335). -/
structure Flue where
  streams : List SrcStream
  store : List SendEntry
  releases : List OutRelease
  table : List StreamEntry
  /-- writes of windows that are not yet oldest, or of frozen streams, with their grate -/
  hold : List (Nat × WriteFlit)
  faulted : List Faulted
  withheld : List Withheld
  links : Table Link
  /-- flits that no live link can take -/
  waiting : List QueuedFlit
  /-- flits on their links, by port, oldest first, that the outside has not taken -/
  out : List (Nat × LinkFlit)
  nextToken : Nat
  /-- packages declared without a live path (R331), and since when no link has been live -/
  dead : List Nat
  cutSince : Option Nat
  /-- package numbers mapped onto a spare (R358) -/
  remap : Table Nat
  /-- switch levels of the system above the package, 0 to 3 (R317) -/
  levels : Nat
  deriving DecidableEq, Repr

/-- The flue after reset. -/
def Flue.reset : Flue := ⟨[], [], [], [], [], [], [], [], [], [], 0, [], none, [], 3⟩

/-- A launch ring (R351). -/
structure Ring where
  rbase : Word
  log2n : Nat
  en : Bool
  tail : Nat
  accept : Nat
  state : Nat
  cause : Nat
  deriving DecidableEq, Repr

/-- A ring after reset: every register 0 (R351). -/
def Ring.reset : Ring := ⟨0, 0, false, 0, 0, 0, 0⟩

/-- An outstanding NVMe Read of the storage engine (R307). -/
structure NvmeRead where
  /-- storage port, namespace, and the grate whose engine reads (R307) -/
  port : Nat
  nsid : Nat
  grate : Nat
  core : Nat
  seq : Nat
  slot : Nat
  lba : Nat
  bytes : Nat
  /-- 0 a plain read; 1 the header of a rick image, 2 its manifest, 3 its chunks; and what earlier reads of the load gave -/
  stage : Nat
  got : List Byte
  /-- the data has come and waits for a page fault of its destination to be served (R304) -/
  data : Option (List Byte)
  deriving DecidableEq, Repr

/-- A record present in a sink that no tick has taken (R343, R345). -/
structure SinkRec where
  item : WindowRec
  /-- DTIME at which it became present -/
  presentAt : Nat
  /-- returned unretired by a completed group or a refused launch: the next tick takes it -/
  returned : Bool
  deriving DecidableEq, Repr

/-- A tick descriptor as memory holds it (R341). -/
structure TickDesc where
  at_ : Nat
  rcba : Word
  sink : Nat
  period : Nat
  phase : Nat
  width : Nat
  guard : Nat
  ctl : Nat
  deriving DecidableEq, Repr

/-- A sink the media unit serves, by descriptor (R339 to R345). -/
structure Sink where
  /-- the descriptor in effect, as it was at the last tick: none before the first (R341) -/
  desc : Option TickDesc
  recs : List SinkRec
  /-- by sink address, records made present or dropped so far, and the numbers retired or dropped beyond FREE -/
  seen : Table Nat
  done : List (Nat × Nat)
  /-- the last tick fired, and the instants that forward steps have passed over since (from, below) -/
  lastTick : Option Nat
  passed : List (Nat × Nat)
  /-- the latest held tick with its descriptor, and the records that held ticks have taken -/
  heldTick : Option Nat
  heldDesc : Option TickDesc
  heldRecs : List WindowRec
  /-- hearth and LSEQ of the step group that is not complete -/
  step : Option (Nat × Nat)
  deriving DecidableEq, Repr

/-- A sink after reset. -/
def Sink.reset : Sink := ⟨none, [], [], [], none, [], none, none, [], none⟩

/-- What a load or an unload of a handler has sent to the engines: its words, the cycle, and the name of the load (R334). -/
structure HandlerVersion where
  words : Option (List Nat)
  since : Nat
  key : Nat
  deriving DecidableEq, Repr

/-- Package registers and the units that own them. -/
structure Pkg where
  harvest : Word
  number : Nat
  gwb : Table Word
  gwl : Table Word
  ahbase : Word
  /-- handlers 16 to 31, the latest load or unload first, the bad bits of AHST, and what AHLOAD asked for that has not reached the engines: the number i and
  whether it is a load (R333, R334) -/
  handlers : Table (List HandlerVersion)
  ahBad : BitVec 16
  ahPending : List (Nat × Bool)
  fzsvc : Word
  timest : Word
  tickctl : Word
  /-- ceilings written since reset (R365) -/
  islceil : Table Word
  /-- frequency in MHz, and the measurements of an island's last 100 µs in mW, latest first (R360) -/
  islfreq : Table Nat
  samples : Table (List Nat)
  /-- slew of DTIME in parts per 10^9 (R337) -/
  slew : Int
  refs : BitVec 3
  sinks : Table Sink
  /-- nodes not launched whose DEPCNT would have fallen below 0 (R175) -/
  under : List Word
  /-- decrements of DEPCNTs in other packages that have not been answered, by the answer's name (R175) -/
  decrements : List (Nat × Word)
  /-- by context area, what a thread saved there holds beyond its record: the scope of a fence with a release part, and packages toward which
  a write was lost (R160, R168, R264) -/
  marks : Table (Option Scope × List Nat)
  /-- page-table roots of job domains, by the address of the job's node, as threads of the domain have left them (R284) -/
  roots : Table Word
  rings : Table Ring
  /-- graphs that have been replayed: one numbering for the launch units of every hearth (R183) -/
  graphs : List Graph
  /-- what the units of the package have begun and not performed, oldest first -/
  units : List UnitOp
  nvme : List NvmeRead
  keySlots : Table (List Byte × List Byte)
  /-- management counters: corrected errors, CRC failures, discards (R355, R319, R321) -/
  corrected : Nat
  crcFails : Nat
  discards : Nat
  /-- 0 before boot, 1 running, 2 recovery (R361), 3 halted for the sum of the ceilings (R359) -/
  bootState : Nat
  fwDigest : List Byte
  fwVersion : Nat
  /-- local DRAM address at which the runtime has placed the 64 GiB window of BAR2 of each host port (R350) -/
  bar2 : Table Nat
  /-- what the host and the management port have been answered, oldest first -/
  reports : List (List Byte)
  deriving DecidableEq, Repr

/-- The package registers after reset (R37, R364; assumption 1). -/
def Pkg.reset : Pkg where
  harvest := 0
  number := 0
  gwb := []
  gwl := []
  ahbase := 0
  handlers := []
  ahBad := 0
  ahPending := []
  fzsvc := 0
  timest := 0
  tickctl := 0
  islceil := []
  islfreq := []
  samples := []
  slew := 0
  refs := 0
  sinks := []
  under := []
  decrements := []
  marks := []
  roots := []
  rings := []
  graphs := []
  units := []
  nvme := []
  keySlots := []
  corrected := 0
  crcFails := 0
  discards := 0
  bootState := 0
  fwDigest := []
  fwVersion := 0
  bar2 := []
  reports := []

/-- What the agenda asks step to do next (assumption 3). -/
inductive Move where
  /-- a hardware step, or an input from outside -/
  | event (i : Instr)
  /-- the turn of this core in the present cycle -/
  | turn (core : Nat)
  /-- the debug port enables halting by BRK for a slot, and chooses the PC of a halted slot (R117) -/
  | debug (slot : Nat) (on : Bool) (pc : Option Word)
  /-- the next cycle, whatever internal steps are due -/
  | cycle
  /-- a clamp port meets an uncorrectable error in its caches (R293) -/
  | portFail (clamp : Nat)
  deriving DecidableEq, Repr

/-- The machine. -/
structure State where
  /-- model's own: moves chosen from outside (assumption 3) -/
  agenda : List Move
  /-- model's own: the counter free values are applied to (assumption 4) -/
  fresh : Nat
  /-- model's own: the slot that issues; whether the sequencer issues for it; whether the turn is lent -/
  cur : Nat
  inFrame : Bool
  lent : Bool
  /-- model's own: cores whose turn of this cycle is still to come -/
  todo : List Nat
  cycle : Nat
  /-- DTIME in units of 1/18 ns: a cycle of 3.6 GHz is 5/18 ns (R16, R39) -/
  clock : Nat
  slots : Table Slot
  cores : Table Core
  clamps : Table Clamp
  hearths : Table Hearth
  grates : Table Grate
  /-- DRAM, host memory and the pools by local address (R279) -/
  home : List Host.Cell
  /-- tags that read empty, by word number; unlisted words are full (R36) -/
  tags : Table Bool
  /-- units with an uncorrectable error, by first address: 8 bytes of a pool, 64 of other memory (R355) -/
  bad : Table Bool
  /-- atomics and reductions on their way to their places (R139, R144) -/
  atomics : List AtomicReq
  reductions : List RedReq
  flights : List Flight
  pkg : Pkg
  flue : Flue
  deriving DecidableEq, Repr

/-- The machine right after reset. -/
def State.reset : State where
  agenda := []
  fresh := 0
  cur := 0
  inFrame := false
  lent := false
  todo := []
  cycle := 0
  clock := 0
  slots := []
  cores := []
  clamps := []
  hearths := []
  grates := []
  home := []
  tags := []
  bad := []
  atomics := []
  reductions := []
  flights := []
  pkg := Pkg.reset
  flue := Flue.reset

/-- Why the machine stops with a fault. -/
inductive Fault where
  /-- raised by `step` when the agenda names the turn of a core that does not exist; safe: no such core runs -/
  | noSuchCore (core : Nat)
  deriving DecidableEq, Repr

/-- Why an instruction has no meaning. -/
inductive Refusal where
  /-- raised by an arm of `exec` for an instruction that has no meaning yet; safe: nothing is claimed of it -/
  | notModelled (mnemonic : String)
  deriving DecidableEq, Repr

/-- The outcome of a meaning. -/
abbrev Out := Host.Outcome State Fault Refusal

end Sys2Proof.Machine
end

