-- ==== Sys2Proof/Machine/Mem.lean ====
section
/-! DEFINITION. Access to the tables of the state, the address map of a package (18_translation R279), home memory with its tags
and bad blocks, and the L2 of each hearth (10_ordering R159 to R161). -/
namespace Sys2Proof.Machine

/-! ## Tables of the state -/

def coreOf (slot : Nat) : Nat := slot / 16
def clampOf (slot : Nat) : Nat := slot / 256
def hearthOf (slot : Nat) : Nat := slot / 4096
def slotNo (slot : Nat) : Nat := slot % 16

def State.slot (s : State) (i : Nat) : Slot := Table.get Slot.free s.slots i
def State.setSlot (s : State) (i : Nat) (x : Slot) : State := { s with slots := Table.put s.slots i x }
def State.updSlot (s : State) (i : Nat) (f : Slot → Slot) : State := s.setSlot i (f (s.slot i))

/-- A slot of this package learns something; a slot of another package is named by a number of 2^15 or more, and does not. -/
def State.tellSlot (s : State) (i : Nat) (f : Slot → Slot) : State := if i < 2 ^ 15 then s.updSlot i f else s

/-- The slot that issues. -/
def State.me (s : State) : Slot := s.slot s.cur
def State.upd (s : State) (f : Slot → Slot) : State := s.setSlot s.cur (f s.me)

def State.core (s : State) (i : Nat) : Core := Table.get Core.reset s.cores i
def State.setCore (s : State) (i : Nat) (x : Core) : State := { s with cores := Table.put s.cores i x }
def State.updCore (s : State) (i : Nat) (f : Core → Core) : State := s.setCore i (f (s.core i))

/-- The core of the slot that issues. -/
def State.myCore (s : State) : Core := s.core (coreOf s.cur)

def State.clamp (s : State) (i : Nat) : Clamp := Table.get Clamp.reset s.clamps i
def State.updClamp (s : State) (i : Nat) (f : Clamp → Clamp) : State :=
  { s with clamps := Table.put s.clamps i (f (s.clamp i)) }

/-- The cycle count of a core: that of its clamp island's clock (R16). -/
def State.cycleOf (s : State) (core : Nat) : Nat := s.cycle - (s.clamp (core / 16)).lag

def State.hearth (s : State) (i : Nat) : Hearth := Table.get Hearth.reset s.hearths i
def State.updHearth (s : State) (i : Nat) (f : Hearth → Hearth) : State :=
  { s with hearths := Table.put s.hearths i (f (s.hearth i)) }

def State.grate (s : State) (i : Nat) : Grate := Table.get Grate.reset s.grates i
def State.updGrate (s : State) (i : Nat) (f : Grate → Grate) : State :=
  { s with grates := Table.put s.grates i (f (s.grate i)) }

/-- Clock units in one nanosecond (R39). -/
def nsUnits : Nat := 18

/-- Clock units of one cycle of 3.6 GHz: sixteen cycles are 40/9 ns of DTIME (R7, R16). -/
def cycleUnits : Nat := 5

/-- DTIME: the integer part of the instant in ns (R39). -/
def State.dtime (s : State) : Nat := s.clock / nsUnits

/-- No firmware image has been accepted, or boot has been halted: the management port alone reaches the package (R359, R361). -/
def State.recovering (s : State) : Bool := s.pkg.bootState != 1

/-! ## Bits and fields of 64-bit registers -/

/-- A register with one bit set to a value. -/
def setBit (w : Word) (i : Nat) (b : Bool) : Word :=
  if b then w ||| (1#64 <<< i) else w &&& ~~~(1#64 <<< i)

/-- Bits [lo + n − 1 : lo] of a register. -/
def getField (w : Word) (lo n : Nat) : Nat := fld w.toNat lo n

/-- A register with bits [lo + n − 1 : lo] replaced. -/
def putField (w : Word) (lo n v : Nat) : Word :=
  (w &&& ~~~(BitVec.ofNat 64 ((2 ^ n - 1) * 2 ^ lo))) ||| BitVec.ofNat 64 (v % 2 ^ n * 2 ^ lo)

/-- A register whose bits under `mask` come from `new` and whose other bits stay (R8). -/
def merge (mask old new : Word) : Word := (old &&& ~~~mask) ||| (new &&& mask)

/-! ## The address map (R279) -/

/-- First local address of the pools: L[50:30] all ones. -/
def poolBase : Nat := (2 ^ 21 - 1) * 2 ^ 30

def isPool (a : Nat) : Bool := a / 2 ^ 30 == 2 ^ 21 - 1
def isDram (a : Nat) : Bool := decide (a < 0xC000000000)
def isHost (a : Nat) : Bool := decide (2 ^ 48 ≤ a ∧ a < 2 ^ 49)

/-- The core a pool address names (R278). -/
def poolCore (a : Nat) : Nat := fld a 19 11

/-- Local address of a byte of a core's pool (R278). -/
def poolAddr (core o : Nat) : Nat := poolBase + core * 2 ^ 19 + o

/-- The stack and the grate that home a DRAM address. -/
def stackOf (a : Nat) : Nat := a / 4096 % 12
def grateOf (a : Nat) : Nat := stackOf a / 3

/-- Package number and local address of a global physical address (R366). -/
def globalPkg (w : Word) : Nat := getField w 51 13
def globalLocal (w : Word) : Nat := getField w 0 51

/-- The global address of a local address of this package. -/
def State.global (s : State) (a : Nat) : Word := BitVec.ofNat 64 (s.pkg.number * 2 ^ 51 + a)

/-- Clamps that are gated since boot (R2, R364). -/
def State.gatedAtBoot (s : State) (clamp : Nat) : Bool :=
  bitOf s.pkg.harvest.toNat (32 + clamp / 16) && fld s.pkg.harvest.toNat (4 * (clamp / 16)) 4 == clamp % 16

/-- A physical clamp that exists and is not gated since boot. -/
def State.clampExists (s : State) (clamp : Nat) : Bool := decide (clamp < 128) && !s.gatedAtBoot clamp

/-- A clamp that runs nothing: absent, gated since boot, or power-gated (R2, R278, R293). -/
def State.clampOff (s : State) (clamp : Nat) : Bool := !s.clampExists clamp || (s.clamp clamp).gated

/-- Scratchpad granules NSG of a core (R32). -/
def State.nsg (s : State) (core : Nat) : Nat := getField (s.core core).part 7 6

/-- A pool address that lies in the scratchpad of an existing core (R278). -/
def State.poolOk (s : State) (a : Nat) : Bool :=
  !s.clampOff (poolCore a / 16) && decide (a % 2 ^ 19 < 16384 * s.nsg (poolCore a))

/-- A populated local address (R279). -/
def State.populated (s : State) (a : Nat) : Bool :=
  isDram a || isHost a || (isPool a && s.poolOk a)

/-- A word that carries a tag in hardware (R36): pool and DRAM words. -/
def carriesTag (a : Nat) : Bool := isDram a || isPool a

/-! ## Home memory -/

/-- What a byte of memory that nothing has written reads as (assumption 5). -/
def unlisted : Byte := 0

/-- The canonical form of home memory. -/
def memoryWf (m : List Host.Cell) : Bool := Table.wf unlisted m

def State.homeByte (s : State) (a : Nat) : Byte := Table.get unlisted s.home a
def State.setHomeByte (s : State) (a : Nat) (b : Byte) : State := { s with home := Table.set unlisted s.home a b }

/-- Bytes `a` to `a + n − 1` at home, lowest address first. -/
def State.homeBytes (s : State) (a : Nat) : Nat → List Byte
  | 0 => []
  | n + 1 => s.homeByte a :: s.homeBytes (a + 1) n

/-- Little-endian value of bytes (R7). -/
def leNat : List Byte → Nat
  | [] => 0
  | b :: bs => b.toNat + 256 * leNat bs

def State.homeNat (s : State) (a n : Nat) : Nat := leNat (s.homeBytes a n)
def State.homeWord (s : State) (a : Nat) : Word := BitVec.ofNat 64 (s.homeNat a 8)

/-- Puts bytes into home memory. -/
def putHome (m : List Host.Cell) (a : Nat) : List Byte → List Host.Cell
  | [] => m
  | b :: bs => putHome (Table.set unlisted m a b) (a + 1) bs

/-- The unit of protection that holds a byte (R355), by its first address and its size: 8 bytes in a pool, a block of 64 elsewhere. -/
def unitSize (a : Nat) : Nat := if isPool a then 8 else 64
def unitOf (a : Nat) : Nat := a / unitSize a * unitSize a

/-- Bytes `a` to `a + n − 1` meet, or cover whole, the unit that starts at `u`. -/
def meetsUnit (u a n : Nat) : Bool := decide (u < a + n) && decide (a < u + unitSize u)
def coversUnit (u a n : Nat) : Bool := decide (a ≤ u) && decide (u + unitSize u ≤ a + n)

/-- The units that bytes `a` to `a + n − 1` cover whole lose their error (R355). -/
def clearBad (t : Table Bool) (a n : Nat) : Table Bool := t.filter (fun e => !coversUnit e.1 a n)

def State.writeHome (s : State) (a : Nat) (bs : List Byte) : State :=
  { s with home := putHome s.home a bs, bad := clearBad s.bad a bs.length }

def State.writeHomeNat (s : State) (a n v : Nat) : State := s.writeHome a (bytesOfNat n v)

/-- Some byte of `a` to `a + n − 1` lies in a bad unit (R355). -/
def State.badAt (s : State) (a n : Nat) : Bool := s.bad.any (fun e => e.2 && meetsUnit e.1 a n)

/-- The write of `n` bytes at `a` is refused by a bad unit it does not cover whole (R128, R355). -/
def State.writeRefused (s : State) (a n : Nat) : Bool := s.bad.any (fun e => e.2 && meetsUnit e.1 a n && !coversUnit e.1 a n)

/-- A unit's write of a field at home; an error of a block that it does not cover refuses it (R128, R355). -/
def State.storeNat (s : State) (a n v : Nat) : State := if s.writeRefused a n then s else s.writeHomeNat a n v

/-- The tag of the word at an address: full unless listed (R36). -/
def State.homeTag (s : State) (a : Nat) : Bool := Table.get true s.tags (a / 8)
def State.setHomeTag (s : State) (a : Nat) (full : Bool) : State :=
  { s with tags := Table.set true s.tags (a / 8) full }

/-! ## The L2 of a hearth (R161) -/

/-- A byte as the hearth reads it: its own dirty byte before what the home holds (R161). -/
def State.hearthByte (s : State) (h a : Nat) : Byte :=
  match Table.find (s.hearth h).dirty a with
  | some d => d.val
  | none => s.homeByte a

def State.hearthBytes (s : State) (h a : Nat) : Nat → List Byte
  | 0 => []
  | n + 1 => s.hearthByte h a :: s.hearthBytes h (a + 1) n

def State.hearthTag (s : State) (h a : Nat) : Bool :=
  match Table.find (s.hearth h).dtags (a / 8) with
  | some d => d.full
  | none => s.homeTag a

/-- Adds a writer once, the latest first. -/
def addWriter (l : List Nat) (slot : Nat) : List Nat := slot :: l.filter (fun x => x != slot)

/-- A byte of an L2 under its writers. One that is on its way home stays so with its new value. -/
def putDirty (t : Table DirtyByte) (slot a : Nat) : List Byte → Table DirtyByte
  | [] => t
  | b :: bs =>
    let d := match Table.find t a with
      | some d => ⟨b, addWriter d.writers slot, d.sent⟩
      | none => ⟨b, [slot], false⟩
    putDirty (Table.put t a d) slot (a + 1) bs

/-- Sends dirty bytes home: those of `t` that satisfy `p` are merged into home memory in address order. -/
def mergeBytes (m : List Host.Cell) : Table DirtyByte → List Host.Cell
  | [] => m
  | (a, d) :: r => mergeBytes (Table.set unlisted m a d.val) r

def mergeTags (m : Table Bool) : Table DirtyTag → Table Bool
  | [] => m
  | (w, d) :: r => mergeTags (Table.set true m w d.full) r

/-! FENCES counts (R148). -/

/-- Status bits of FENCES. -/
def Fence.deadlink : Nat := 0
def Fence.refused : Nat := 1
def Fence.frozen : Nat := 2
def Fence.exhaust : Nat := 3
def Fence.eccloss : Nat := 4

/-- Counts `n` writes not applied, and sets a status bit. -/
def Slot.failWrites (p : Slot) (n bit_ : Nat) : Slot :=
  { p with fstat := setBit (putField p.fstat 16 16 (min (getField p.fstat 16 16 + n) 0xFFFF)) bit_ true }

/-- A write of the slot toward a package is lost or refused: no release covers it until a FENCES `.sys` has told of it (R168). -/
def Slot.loses (p : Slot) (dst : Nat) : Slot := if p.lost.contains dst then p else { p with lost := dst :: p.lost }

/-- Sets a status bit of the next FENCES. -/
def Slot.fenceBit (p : Slot) (bit_ : Nat) : Slot := { p with fstat := setBit p.fstat bit_ true }

/-- A block of 64 bytes whose error the arriving bytes do not cover whole: its writes are refused (R128, R355). -/
def State.refusesBlock (s : State) (go : Table DirtyByte) (block : Nat) : Bool :=
  s.badAt (64 * block) 64 && decide ((go.filter (fun e => e.1 / 64 == block)).length < 64)

/-- Every writer of refused bytes counts one refused write a block (R148). -/
def countRefused (s : State) : Table DirtyByte → List (Nat × Nat) → State
  | [], _ => s
  | (a, d) :: r, seen =>
    let new := (d.writers.map (fun w => (w, a / 64))).filter (fun x => !seen.contains x)
    countRefused (new.foldl (fun s x => s.updSlot x.1 (fun p => p.failWrites 1 Fence.eccloss)) s) r (new ++ seen)

/-- Merges at home the bytes and tags of hearth `h` that satisfy the conditions, and removes them from the L2 (R161). An arriving
block that meets an uncorrectable error it does not cover whole is refused (R128). -/
def State.sendClean (s : State) (h : Nat) (p : Nat → DirtyByte → Bool) (q : Nat → DirtyTag → Bool) : State :=
  let l2 := s.hearth h
  let go := l2.dirty.filter (fun e => p e.1 e.2)
  let goT := l2.dtags.filter (fun e => q e.1 e.2)
  let ok := go.filter (fun e => !s.refusesBlock go (e.1 / 64))
  let okT := goT.filter (fun e => !s.refusesBlock go (e.1 / 8))
  let lost := go.filter (fun e => s.refusesBlock go (e.1 / 64))
  let s1 := { s.updHearth h (fun x => { x with dirty := x.dirty.filter (fun e => !p e.1 e.2), dtags := x.dtags.filter (fun e => !q e.1 e.2) }) with
    home := mergeBytes s.home ok
    tags := mergeTags s.tags okT
    bad := s.bad.filter (fun e => !ok.any (fun b => unitOf b.1 == e.1)) }
  countRefused s1 lost []

/-- The 128-byte line of an address (R161). -/
def lineOf (a : Nat) : Nat := a / 128

/-- The line of a byte in an L2: its first byte and its length (R161, R286): 4 KiB where the L2 holds a tile. -/
def Hearth.lineAt (h : Hearth) (a : Nat) : Nat × Nat :=
  if (Table.find h.tiles (a / 4096)).isSome then (a / 4096 * 4096, 4096) else (128 * lineOf a, 128)

/-- The line of a byte holds an uncorrectable word in the L2: it cannot be written back (R355, R356). -/
def Hearth.spoilt (h : Hearth) (a : Nat) : Bool := h.bad.any (fun w => h.lineAt (8 * w) == h.lineAt a)

/-- Lines of the bytes and tags that should go home and cannot. -/
def Hearth.stuck (h : Hearth) (p : Nat → DirtyByte → Bool) (q : Nat → DirtyTag → Bool) : List Nat :=
  (h.dirty.filter (fun e => p e.1 e.2 && h.spoilt e.1)).map (fun e => lineOf e.1) ++
  (h.dtags.filter (fun e => q e.1 e.2 && h.spoilt (8 * e.1))).map (fun e => lineOf (8 * e.1))

/-- What satisfies the conditions goes home. A line that cannot be written back stays, and fails its domain (R356). -/
def State.sendHome (s : State) (h : Nat) (p : Nat → DirtyByte → Bool) (q : Nat → DirtyTag → Bool) : State :=
  let l2 := s.hearth h
  (s.updHearth h (fun x => { x with failing := x.failing ++ (l2.stuck p q).eraseDups })).sendClean h
    (fun a d => p a d && !l2.spoilt a) (fun w d => q w d && !l2.spoilt (8 * w))

/-- A byte or the tag of the word `w` in a hearth's L2 was written by the slot. -/
def Hearth.wrote (h : Hearth) (slot w : Nat) : Bool :=
  h.dirty.any (fun e => e.1 / 8 == w && e.2.writers.contains slot) || h.dtags.any (fun e => e.1 == w && e.2.writers.contains slot)

/-- What a release at `.pkg` or `.sys` of a slot sends home: every byte and tag the slot has written (R161), and with it what the L2
holds of the same words, so that an aligned access reaches home whole (R157). -/
def State.releaseHome (s : State) (slot : Nat) : State :=
  let l2 := s.hearth (hearthOf slot)
  s.sendHome (hearthOf slot) (fun a _ => l2.wrote slot (a / 8)) (fun w _ => l2.wrote slot w)

/-- A byte lies in the line that `line` names by a multiple of 128 bytes. -/
def Hearth.onLine (h : Hearth) (line a : Nat) : Bool :=
  decide ((h.lineAt (128 * line)).1 ≤ a) && decide (a < (h.lineAt (128 * line)).1 + (h.lineAt (128 * line)).2)

/-- A line's dirty bytes and tags go home; a tile line is a tile line no more. -/
def State.lineHome (s : State) (h line : Nat) : State :=
  let l2 := s.hearth h
  (s.sendHome h (fun a _ => l2.onLine line a) (fun w _ => l2.onLine line (8 * w))).updHearth h (fun x =>
    { x with tiles := x.tiles.filter (fun e => !l2.onLine line (4096 * e.1)) })

/-- Bytes of an L2 (R3). -/
def l2Bytes : Nat := 192 * 2 ^ 20

/-- Lines of which the L2 holds a dirty byte or tag, by first byte and length. -/
def Hearth.lines (h : Hearth) : List (Nat × Nat) :=
  (h.dirty.map (fun e => h.lineAt e.1) ++ h.dtags.map (fun e => h.lineAt (8 * e.1))).foldl (fun l n => if l.contains n then l else n :: l) []

/-- Bytes that the lines of an L2 and the line of `a` take together. -/
def Hearth.linesWith (h : Hearth) (a : Nat) : Nat :=
  let ls := h.lines
  (ls.map (·.2)).foldl (· + ·) 0 + (if ls.contains (h.lineAt a) then 0 else (h.lineAt a).2)

/-- A full L2 evicts lines until the line of `a` finds room: at most 32 lines of 128 bytes make room for a tile (R3, R161, R286). -/
def State.evictFor (h a : Nat) : Nat → State → State
  | 0, s => s
  | n + 1, s =>
    if (s.hearth h).linesWith a ≤ l2Bytes then s
    else
      let ls := (s.hearth h).lines.filter (fun l => l != (s.hearth h).lineAt a)
      State.evictFor h a n ({ s with fresh := s.fresh + 1 }.lineHome h (lineOf (ls.getD (Config.evictLine s.fresh % ls.length) (0, 0)).1))

def State.makeRoom (s : State) (h a : Nat) : State :=
  if 4096 * ((s.hearth h).dirty.length + (s.hearth h).dtags.length) < l2Bytes then s else State.evictFor h a 33 s

/-- The fault domain of a slot's writes: that in whose ring its entry is reserved; of slots 0 and 14 the system's (R111, R112). -/
def State.writerDomain (s : State) (slot : Nat) : Option Word :=
  if slotNo slot = 0 ∨ slotNo slot = 14 then
    (if (s.hearth (hearthOf slot)).sysfdom = 0 then none else some (s.hearth (hearthOf slot)).sysfdom)
  else (s.slot slot).reserved

/-- A slot has written to the line of `a`, last of all so far (R356). -/
def Hearth.noteLast (h : Hearth) (slot a : Nat) (dom : Option Word) : Hearth :=
  { h with last := (lineOf a, slot, dom) :: h.last.filter (fun e =>
      e.1 != lineOf a && (h.dirty.any (fun b => lineOf b.1 == e.1) || h.dtags.any (fun b => lineOf (8 * b.1) == e.1))) }

/-- A write of a slot leaves its store buffer (R159): pool bytes are performed at the pool port, others become dirty in
the L2 of the slot's hearth; they clear the error of a word that they cover (R355). -/
def State.performWrite (s : State) (slot a : Nat) (bs : List Byte) : State :=
  if isPool a then s.writeHome a bs
  else (s.makeRoom (hearthOf slot) a).updHearth (hearthOf slot) (fun h =>
    { h.noteLast slot a (s.writerDomain slot) with
      dirty := putDirty h.dirty slot a bs
      bad := h.bad.filter (fun w => !(decide (a ≤ 8 * w) && decide (8 * w + 8 ≤ a + bs.length))) })

/-- A word of a hearth's L2 has an uncorrectable error and the bytes do not cover it: the write is refused (R128, R355). -/
def Hearth.refuses (h : Hearth) (a n : Nat) : Bool :=
  h.bad.any (fun w => decide (8 * w < a + n) && decide (a < 8 * w + 8) && !(decide (a ≤ 8 * w) && decide (8 * w + 8 ≤ a + n)))

/-- A tag change of a slot leaves its store buffer (R161). -/
def State.performTag (s : State) (slot a : Nat) (full : Bool) : State :=
  if isPool a then s.setHomeTag a full
  else (s.makeRoom (hearthOf slot) a).updHearth (hearthOf slot) (fun h =>
    let d := match Table.find h.dtags (a / 8) with
      | some d => ⟨full, addWriter d.writers slot, d.sent⟩
      | none => ⟨full, [slot], false⟩
    { h.noteLast slot a (s.writerDomain slot) with dtags := Table.put h.dtags (a / 8) d })

/-- The word at `a` has a dirty byte or tag in hearth `h`. -/
def State.holdsWord (s : State) (h a : Nat) : Bool :=
  (s.hearth h).dirty.any (fun e => e.1 / 8 == a / 8) || (s.hearth h).dtags.any (fun e => e.1 == a / 8)

/-- A unit's write at home comes after the dirty bytes of its range in every L2: none of them is left to hide it (R161; log 84). -/
def State.dropDirty (s : State) (a n : Nat) : State :=
  { s with hearths := s.hearths.map (fun (e : Nat × Hearth) => (e.1, { e.2 with
      dirty := e.2.dirty.filter (fun d => !(decide (a ≤ d.1) && decide (d.1 < a + n))) })) }

/-- A unit of the package writes bytes at home (R161, R166); an error of a block that they do not cover whole refuses them (R128, R355). -/
def State.unitWrite (s : State) (a : Nat) (bs : List Byte) : State :=
  if s.writeRefused a bs.length then s else (s.dropDirty a bs.length).writeHome a bs

/-- Inserts by rank. -/
def insertBy (rank : Nat → Nat) (x : Nat) : List Nat → List Nat
  | [] => [x]
  | y :: ys => if rank x ≤ rank y then x :: y :: ys else y :: insertBy rank x ys

def sortBy (rank : Nat → Nat) : List Nat → List Nat
  | [] => []
  | x :: xs => insertBy rank x (sortBy rank xs)

/-- Before an operation on a word at its home, the dirty bytes of every L2 for the word are merged (R139); the order of several
hearths is open (assumption 6). -/
def State.mergeWord (s : State) (a : Nat) : State :=
  let hs := (List.range 8).filter (fun h => s.holdsWord h a)
  let s1 := { s with fresh := s.fresh + 1 }
  (sortBy (Config.mergeRank s.fresh) hs).foldl
    (fun s h => s.sendHome h (fun b _ => b / 8 == a / 8) (fun w _ => w == a / 8)) s1

/-! ## What a unit reads (R366) -/

/-- A global address that a unit can read: populated here, or of another package. -/
def State.unitAt (s : State) (w : Word) : Bool := decide (globalPkg w ≠ s.pkg.number) || s.populated (globalLocal w)

/-- The byte at `w` that an operation of a unit puts there. -/
def UnitOp.byteAt (o : UnitOp) (w : Word) : Option Byte :=
  match o.kind with
  | .write a bs | .release a bs _ => bs[(w - a).toNat]?
  | .decrement _ _ | .message _ _ | .wait | .stoker _ _ _ _ _ _ => none

/-- The byte at `w` that the units of the package have written and that is not performed, the latest such. -/
def State.unitQueued (s : State) (w : Word) : Option Byte :=
  s.pkg.units.foldl (fun b o => (o.byteAt w).orElse (fun _ => b)) none

/-- A unit cannot read a byte of this package for an uncorrectable error (R355). -/
def State.unitBad (s : State) (w : Word) (n : Nat) : Bool := decide (globalPkg w = s.pkg.number) && s.badAt (globalLocal w) n

/-- `n` bytes at a global address as a unit reads them in memory, untranslated: 0 where nothing is; another package's are free, and so
are those that an uncorrectable error hides (R355). -/
def State.unitHome (s : State) (w : Word) (n : Nat) : List Byte :=
  if globalPkg w = s.pkg.number ∧ s.unitBad w n = false then
    (if s.populated (globalLocal w) then s.homeBytes (globalLocal w) n else List.replicate n 0)
  else (List.range n).map (fun i => Config.farByte s.clock (w + BitVec.ofNat 64 i))

/-- `n` bytes as a unit reads them: what units have written comes before what memory holds. -/
def State.unitBytes (s : State) (w : Word) (n : Nat) : List Byte :=
  if s.pkg.units.isEmpty then s.unitHome w n
  else (List.range n).map (fun i =>
    (s.unitQueued (w + BitVec.ofNat 64 i)).getD (((s.unitHome (w + BitVec.ofNat 64 i) 1)[0]?).getD 0))

def State.unitNat (s : State) (w : Word) (n : Nat) : Nat := leNat (s.unitBytes w n)
def State.unitWord (s : State) (w : Word) : Word := BitVec.ofNat 64 (s.unitNat w 8)

/-- The word at a global address of this package is brought together before a unit reads it (R139). -/
def State.unitMerge (s : State) (w : Word) : State :=
  if globalPkg w = s.pkg.number then s.mergeWord (globalLocal w) else s

end Sys2Proof.Machine
end

