-- ==== Sys2Proof/Machine/Links.lean ====
section
/-! DEFINITION. The sending side of the flue's links: replay buffers, classes, counters and the choice of a link (21_flue R317 to
R323). -/
namespace Sys2Proof.Machine

/-! ## Flits (R319) -/

/-- Source package of a SID (R324). -/
def sidPkg (sid : Nat) : Nat := fld sid 17 13

/-- The lossy class carries WRITE flits only (R321). -/
def FlitBody.lossy : FlitBody → Bool
  | .write _ => true
  | _ => false

/-- The package that a flit goes to. -/
def flitDest : FlitBody → Option Nat
  | .write f | .atomic f => some f.dst
  | .release f | .countrel f | .probe f => some f.dst
  | .flagack w | .shortfall w _ _ _ | .notable w _ | .frozen w _ | .resume w _ | .giveup w _ | .probeack w _ => some (sidPkg w.sid)
  | .read f => some f.dst
  | .report w _ _ _ => some (sidPkg w.sid)
  | .spark d _ _ _ _ _ => some d
  | .resp d _ _ _ _ | .msg d _ _ _ _ _ | .ember d _ _ _ _ | .emberack d _ _ => some d
  | .piece _ d _ => some d
  | .lack _ _ | .pause _ | .keyx _ | .keyout | .idle => none

/-- The TYPE code of a flit. -/
def flitType : FlitBody → Nat
  | .write _ => 0x01
  | .release _ => 0x02
  | .countrel _ => 0x03
  | .flagack _ => 0x04
  | .shortfall _ _ _ _ => 0x05
  | .notable _ _ => 0x06
  | .frozen _ _ => 0x07
  | .resume _ _ => 0x08
  | .giveup _ _ => 0x09
  | .probe _ => 0x0A
  | .probeack _ _ => 0x0B
  | .read _ => 0x10
  | .resp _ _ _ _ _ | .report _ _ _ _ => 0x11
  | .atomic _ => 0x12
  | .msg _ _ _ _ _ _ | .spark _ _ _ _ _ _ => 0x14
  | .ember _ _ _ _ _ => 0x15
  | .emberack _ _ _ => 0x16
  | .lack _ _ => 0x20
  | .pause _ => 0x21
  | .keyx _ => 0x22
  | .keyout => 0x23
  | .idle => 0x24
  | .piece t _ _ => t

/-- CLASS of a flit; link control leaves the bit unused (log 91). -/
def flitLossless (f : FlitBody) : Bool := !FlitBody.lossy f && (flitDest f).isSome

/-- The flits of 224 bytes that go before the last one of a message: one for an ember (R335), two for SHORTFALL and for the bitmaps that
GIVEUP and a refusing RESUME carry (R330, log 91). -/
def flitsBefore : FlitBody → Nat
  | .ember _ _ _ _ _ => 1
  | .shortfall _ _ _ _ | .giveup _ _ | .resume _ (some _) => 2
  | _ => 0

/-- CONT: the payload continues a message begun in an earlier flit. -/
def flitCont : FlitBody → Bool
  | .piece _ _ n => decide (0 < n)
  | f => decide (0 < flitsBefore f)

/-- LEN: 96 bytes of a WRITE (R326), the rest of a message of several flits; else the manual gives no layout. -/
def flitBytes : FlitBody → Nat
  | .write _ => 96
  | .piece _ _ _ => 224
  | .ember _ _ _ _ _ => 384 - 224
  | .shortfall _ _ _ _ => 4 + 2 + 4 + 2 + 512 - 2 * 224
  | f => min 224 (Config.flitLen (flitType f))

/-- The flits of a message, in order. -/
def flitsOf (f : FlitBody) : List FlitBody :=
  (List.range (flitsBefore f)).map (fun n => .piece (flitType f) ((flitDest f).getD 0) n) ++ [f]

/-- A flit that a receiver keeps: TYPE, CLASS and CONT are those of what it carries, and no unused field has a bit set; DPKG is unused
in link control. A LEN above 224 is discarded in the same way (log 91). -/
def legalFlit (f : LinkFlit) : Bool :=
  f.type == flitType f.body && f.lossless == flitLossless f.body && f.cont == flitCont f.body &&
  f.dpkg == (flitDest f.body).getD 0 && decide (f.len ≤ 224) && f.spare == 0

/-! ## Links (R320 to R323) -/

def State.link (s : State) (port : Nat) : Link := Table.get Link.reset s.flue.links port
def State.setLink (s : State) (port : Nat) (l : Link) : State :=
  { s with flue := { s.flue with links := Table.put s.flue.links port l } }
def State.updLink (s : State) (port : Nat) (f : Link → Link) : State := s.setLink port (f (s.link port))

/-- A link that carries data: it has keys and is not down (R320, R322). -/
def Link.live (l : Link) : Bool := l.keys.isSome && !l.down

/-- The counter value that KEYOUT alone uses (R323). -/
def lastCounter : Nat := 2 ^ 40 - 1

/-- The link can send the flit now: room in the replay buffer of 512, no pause of its class, no replay to be made first, and a counter
value (R320, R321, R323). -/
def Link.ready (l : Link) (f : FlitBody) : Bool :=
  decide (l.replay.length < 512) && l.keyoutAt.isNone && !l.stalled && decide (l.fctr < lastCounter) && (FlitBody.lossy f || !l.paused)

/-- AGE of a flit that has waited since an instant: units of 128 ns, saturating (R319). -/
def flitAge (now since : Nat) : Nat := min 255 ((now - since) / 128)

/-- The IV of a flit: the salt, three zero bytes and FCTR (R322). -/
def flitIv (salt : List Byte) (fctr : Nat) : List Byte := salt ++ bytesOfNat 3 0 ++ bytesOfNat 5 fctr

/-- The additional data of a flit: bytes 0 to 5 and 7 to 11 of its header (R319, R322). -/
def flitAad (f : LinkFlit) : List Byte :=
  bytesOfNat 2 ((if f.cont then 2 ^ 15 else 0) + (if f.lossless then 2 ^ 14 else 0) + (if f.kph then 2 ^ 13 else 0) + f.dpkg % 2 ^ 13) ++
  bytesOfNat 1 f.type ++ bytesOfNat 1 f.len ++ bytesOfNat 2 f.lseq ++ bytesOfNat 5 f.fctr

/-- The tag of a flit is computed over its header. -/
def sealed (f : LinkFlit) : LinkFlit := { f with aad := flitAad f }

/-- A flit of the link as it stands on the wire, with its AGE. -/
def Link.frame (l : Link) (age lseq : Nat) (f : FlitBody) : LinkFlit := sealed {
  crcOk := true
  tagOk := true
  cont := flitCont f
  lossless := flitLossless f
  kph := l.kph
  dpkg := (flitDest f).getD 0
  type := flitType f
  len := flitBytes f
  lseq := lseq
  age := age
  fctr := l.fctr
  iv := flitIv ((l.keys.map (·.saltOut)).getD []) l.fctr
  aad := []
  spare := 0
  body := f }

/-- Puts a flit on the wire of a port. -/
def State.wire (s : State) (port : Nat) (f : LinkFlit) : State := { s with flue := { s.flue with out := s.flue.out ++ [(port, f)] } }

/-- Sends a flit with the next LSEQ and a counter value, and keeps it for replay. -/
def State.sendOn (s : State) (port : Nat) (f : QueuedFlit) : State :=
  let l := s.link port
  (s.setLink port { l with lseq := (l.lseq + 1) % 2 ^ 16, replay := l.replay ++ [(l.lseq, f)], fctr := l.fctr + 1 }).wire port
    (l.frame (flitAge s.dtime f.since) l.lseq f.body)

/-- Sends a flit of link control: it is not replayed (R319). Without a counter value it waits for the next key. -/
def State.sendControl (s : State) (port : Nat) (f : FlitBody) : State :=
  let l := s.link port
  if !l.live then s
  else if l.fctr < lastCounter then (s.setLink port { l with fctr := l.fctr + 1 }).wire port (l.frame 0 0 f)
  else s.setLink port { l with owed := l.owed ++ [f] }

/-- Flits that a failed link handed over go out in their order, as far as the link can send. -/
def State.sendAgain (s : State) (port : Nat) : List QueuedFlit → State
  | [] => s.updLink port (fun l => { l with again := [] })
  | f :: fs =>
    if (s.link port).ready f.body then (s.sendOn port f).sendAgain port fs
    else s.updLink port (fun l => { l with again := f :: fs })

/-- A flit goes out on a port, or is held there in order; a WRITE passes flits of the other class. -/
def State.transmit (s : State) (port : Nat) (f : QueuedFlit) : State :=
  let l := s.link port
  if l.ready f.body && ((l.held.isEmpty && l.again.isEmpty) || FlitBody.lossy f.body) then s.sendOn port f
  else s.setLink port { l with held := l.held ++ [f] }

/-- Held flits go out as far as the link can send. -/
def State.flush (s : State) (port : Nat) : State :=
  let s := s.sendAgain port (s.link port).again
  let l := s.link port
  l.held.foldl (fun s f => s.transmit port f) (s.setLink port { l with held := [] })

/-- The flits a link has not sent, or sent and not seen acknowledged. -/
def Link.load (l : Link) : Nat := l.replay.length + l.again.length + l.held.length

/-- The least occupied live link among ports (R317). -/
def State.leastOf (s : State) (ports : List Nat) : Option Nat :=
  (ports.filter (fun p => (s.link p).live)).foldl (fun best p => match best with
    | none => some p
    | some q => if (s.link p).load < (s.link q).load then some p else best)
    none

/-- The least occupied live link (R317): each up-bundle leads to the board switch. -/
def State.bestLink (s : State) : Option Nat := s.leastOf (List.range 32)

/-- The system's tree holds the package number: 8 packages under one switch level, 256 under two, 8,192 under three (R317). -/
def State.inTree (s : State) (pkg : Nat) : Bool :=
  decide (pkg < match s.flue.levels with
    | 0 => 1
    | 1 => 8
    | 2 => 256
    | _ => 8192)

/-- A flit has a path once a link is live, where its package is in the tree. -/
def State.pathFor (s : State) (f : FlitBody) : Option Nat :=
  match flitDest f with
  | some d => if s.inTree d then s.bestLink else none
  | none => s.bestLink

/-- Hands a message to the links: its flits share one link. -/
def State.emit (s : State) (f : FlitBody) : State :=
  let fs := (flitsOf f).map (fun x => (⟨x, s.dtime⟩ : QueuedFlit))
  match s.pathFor f with
  | some p => fs.foldl (fun s x => s.transmit p x) s
  | none => { s with flue := { s.flue with waiting := s.flue.waiting ++ fs } }

/-- A waiting flit goes out; one that continues a message takes the link of the flit before it. -/
def emitNext (x : State × Option Nat) (f : QueuedFlit) : State × Option Nat :=
  match if flitCont f.body && x.2.isSome then x.2 else x.1.pathFor f.body with
  | some p => (x.1.transmit p f, some p)
  | none => ({ x.1 with flue := { x.1.flue with waiting := x.1.flue.waiting ++ [f] } }, none)

/-- Waiting flits go out once a link is live. -/
def State.emitWaiting (s : State) : State :=
  (s.flue.waiting.foldl emitNext ({ s with flue := { s.flue with waiting := [] } }, none)).1

end Sys2Proof.Machine
end

