-- ==== Sys2Proof/Machine/FlueSource.lean ====
section
/-! DEFINITION. What a package sends to another: ordering streams and windows, the send store, releases and probes
(21_flue R324 to R331), and the FENCES counts of 09_memory R148. -/
namespace Sys2Proof.Machine

/-- SID of a stream (R324). -/
def State.sidOf (s : State) (slot stream : Nat) : Nat := s.pkg.number * 2 ^ 17 + slot % 2 ^ 15 * 4 + stream % 4

/-- The slot that owns a SID of this package. -/
def sidSlot (sid : Nat) : Nat := fld sid 2 15

def SrcStream.fresh (sid dst : Nat) : SrcStream := ⟨sid, dst, 0, [], 0, false⟩

/-- The stream of a SID toward a package. -/
def State.stream (s : State) (sid dst : Nat) : SrcStream :=
  (s.flue.streams.find? (fun t => t.sid == sid && t.dst == dst)).getD (.fresh sid dst)

def State.setStream (s : State) (t : SrcStream) : State :=
  let l := s.flue.streams
  let new := if l.any (fun (u : SrcStream) => u.sid == t.sid && u.dst == t.dst) then
      l.map (fun (u : SrcStream) => if u.sid == t.sid && u.dst == t.dst then t else u)
    else l ++ [t]
  { s with flue := { s.flue with streams := new } }

/-- The window that takes the stream's next write, if one is open. -/
def SrcStream.current (t : SrcStream) : Option SrcWindow := t.wins.find? (fun w => !w.closed)

/-- The oldest window that has not been seen acknowledged (R325). -/
def SrcStream.low (t : SrcStream) : Nat := (t.wins.head?.map (·.win)).getD (t.nextWin % 2 ^ 16)

/-- The record that closes the stream's current window: n = 0 when there is nothing to close (R329). LOW goes with it (R328). -/
def SrcStream.record (t : SrcStream) : CountRec :=
  match t.current with
  | some w => if w.n = 0 then ⟨0, 0, 0, t.low⟩ else ⟨w.win, w.n, w.base, t.low⟩
  | none => ⟨0, 0, 0, t.low⟩

def SrcStream.closed (t : SrcStream) : SrcStream :=
  { t with wins := t.wins.map (fun w => if w.n = 0 then w else { w with closed := true }) }

/-- A COUNTREL goes out; a frozen stream keeps it until its RESUME (R332). -/
def State.sendCount (s : State) (sid dst : Nat) (r : CountRec) : State :=
  let flit : ReleaseFlit := ⟨sid, dst, [r], .none, false⟩
  if (s.stream sid dst).frozen then
    { s with flue := { s.flue with releases := s.flue.releases ++ [(⟨sidSlot sid, dst, flit, [], [], 0, 0, true, false⟩ : OutRelease)] } }
  else s.emit (.countrel flit)

/-- A COUNTREL closes the stream's current window (R325). -/
def State.countrel (s : State) (sid dst : Nat) : State :=
  let t := s.stream sid dst
  if t.record.n = 0 then s else (s.setStream t.closed).sendCount sid dst t.record

/-- The 64-byte blocks of a write, as (block, mask, bytes) (R326). -/
def blocks (a : Nat) (bs : List Byte) : List (Nat × Nat × List Byte) :=
  let go (blk : Nat) : Nat × Nat × List Byte :=
    let at_ (i : Nat) : Option Byte := if a ≤ blk + i then bs[blk + i - a]? else none
    (blk, ((List.range 64).map (fun i => if (at_ i).isSome then 2 ^ i else 0)).foldl (· + ·) 0,
      (List.range 64).map (fun i => (at_ i).getD 0))
  (List.range ((a % 64 + max bs.length 1 + 63) / 64)).map (fun k => go (a / 64 * 64 + 64 * k))

/-- Merges bytes under a mask into a flit: the later bytes win (R325). -/
def mergeFlit (f : WriteFlit) (mask : Nat) (bs : List Byte) : WriteFlit :=
  { f with
    mask := f.mask ||| mask
    bytes := (List.range 64).map (fun i => if bitOf mask i then (bs[i]?).getD 0 else (f.bytes[i]?).getD 0) }

/-- A flit that carries no atomic and no contribution. -/
def writePlain (f : WriteFlit) : Bool := f.atomic.isNone && f.reduce.isNone

/-- A send-store entry of a window overlaps a write. -/
def touches (sid dst win blk mask : Nat) (e : SendEntry) : Bool :=
  e.flit.sid == sid && e.flit.dst == dst && e.flit.win == win && e.flit.block == blk && e.flit.mask &&& mask != 0

/-- The 96 payload bytes of a WRITE flit (R326). -/
def writePayload (f : WriteFlit) : List Byte :=
  bytesOfNat 4 f.sid ++ bytesOfNat 4 f.seq ++ bytesOfNat 2 f.win ++ bytesOfNat 2 f.low ++ bytesOfNat 4 0 ++ bytesOfNat 8 f.block ++
  bytesOfNat 8 f.mask ++ (List.range 64).map (fun i => (f.bytes[i]?).getD 0)

/-- The WRITE flit that a payload holds, from the package that a flit goes to (R326). -/
def writeOf (dst : Nat) (bs : List Byte) : WriteFlit :=
  let w (o n : Nat) : Nat := leNat ((bs.drop o).take n)
  ⟨w 0 4, dst, w 4 4, w 8 2, w 10 2, w 16 8, w 24 8, bs.drop 32, none, none⟩

/-- A count block: four records of 8 bytes, WIN, n and BASE (R329). -/
def countBlock (rs : List CountRec) : List Byte := rs.flatMap (fun r => bytesOfNat 2 r.win ++ bytesOfNat 2 r.n ++ bytesOfNat 4 r.base)

/-- A flit has been handed to the links and is not on one yet. -/
def State.onHold (s : State) (f : FlitBody) : Bool :=
  s.flue.waiting.any (fun x => x.body == f) || s.flue.links.any (fun e => e.2.held.any (fun x => x.body == f))

/-- A plain write of the send store that has not been transmitted: a later write merges into it (R325). What a unit writes stays apart. -/
def State.mergeable (s : State) (e : SendEntry) : Bool := writePlain e.flit && !e.bad && !e.unit && (!e.sent || s.onHold (.write e.flit))

/-- A flit takes another's place, in the send store and on hold. -/
def State.replaceWrite (s : State) (old new : WriteFlit) : State :=
  let put (l : List QueuedFlit) : List QueuedFlit := l.map (fun x => if x.body = .write old then { x with body := .write new } else x)
  { s with flue := { s.flue with
    store := s.flue.store.map (fun (e : SendEntry) => if e.flit = old then { e with flit := new } else e)
    waiting := put s.flue.waiting
    links := s.flue.links.map (fun e => (e.1, { e.2 with held := put e.2.held })) } }

/-- A write that overlaps one entry of its window, not transmitted, is merged into it. One that overlaps several would be cut if each took
a part (R157): its window is closed instead (log 93). -/
def State.mergesInto (s : State) (hit : List SendEntry) : Option SendEntry :=
  match hit with
  | [e] => if s.mergeable e then some e else none
  | _ => none

/-- The window of a stream toward a package is closed when it is full or holds a transmitted write that overlaps (R325). -/
def State.closeFor (s : State) (sid dst : Nat) (close : Bool) : State := if close then s.countrel sid dst else s

/-- The current window of a stream; where it has none, a new one is opened. -/
def SrcStream.opened (t : SrcStream) : SrcWindow × SrcStream :=
  match t.current with
  | some w => (w, t)
  | none =>
    let w : SrcWindow := ⟨t.nextWin % 2 ^ 16, t.seq, 0, false⟩
    (w, { t with wins := t.wins ++ [w], nextWin := (t.nextWin + 1) % 2 ^ 16 })

/-- A flit enters the send store, and its stream takes the next SEQ (R325, R327). -/
def State.storeFlit (s : State) (t : SrcStream) (e : SendEntry) : State :=
  { (s.setStream t) with flue := { (s.setStream t).flue with store := (s.setStream t).flue.store ++ [e] } }

/-- A release enters the source's list of those without an answer. -/
def State.storeRelease (s : State) (r : OutRelease) : State :=
  { s with flue := { s.flue with releases := s.flue.releases ++ [r] } }

/-- One write or atomic of a stream (R325 to R327): merged into the untransmitted entries it overlaps, else with a SEQ of its own in
the current window, closed first when it is full or holds a transmitted write that overlaps. -/
def State.sendBlock (s : State) (slot stream dst blk mask : Nat) (bs : List Byte) (atomic : Option AtomicReq) (red : Option RedReq)
    (unit : Bool) : State :=
  let sid := s.sidOf slot stream
  let cur := (s.stream sid dst).current
  let win := (cur.map (·.win)).getD 0
  let hit := s.flue.store.filter (fun e => cur.isSome && touches sid dst win blk mask e)
  let plain := atomic.isNone && red.isNone
  match if plain && !unit then s.mergesInto hit else none with
  | some e => s.replaceWrite e.flit (mergeFlit e.flit mask bs)
  | none =>
    let s := s.closeFor sid dst (!hit.isEmpty)
    let w := (s.stream sid dst).opened.1
    let t := (s.stream sid dst).opened.2
    let f : WriteFlit := ⟨sid, dst, t.seq, w.win, t.low, blk, mask, bs, atomic, red⟩
    let t : SrcStream := { t with
      seq := (t.seq + 1) % 2 ^ 32
      wins := t.wins.map (fun x => if x.win = w.win then { x with n := x.n + 1 } else x) }
    let s := s.storeFlit t ⟨f, !t.frozen, none, slot, false, false, unit⟩
    let s := if t.frozen then s else s.emit (if plain then .write f else .atomic f)
    s.closeFor sid dst (decide (w.n + 1 = 4096))

/-- A stream's statistics word and the packages written since the last FENCES (R148, R324). -/
def Slot.noteWrite (p : Slot) (stream dst : Nat) : Slot :=
  { p with
    streams := p.streams.set (stream % 4) (putField (p.streams.getD (stream % 4) 0) 0 32
      (getField (p.streams.getD (stream % 4) 0) 0 32 + 1))
    written := if p.written.contains dst then p.written else p.written ++ [dst] }

def Slot.noteRelease (p : Slot) (stream dst : Nat) : Slot :=
  { p with
    streams := p.streams.set (stream % 4) (putField (p.streams.getD (stream % 4) 0) 32 16
      (getField (p.streams.getD (stream % 4) 0) 32 16 + 1))
    written := if p.written.contains dst then p.written else p.written ++ [dst] }

/-- Block and mask of an atomic or a contribution. -/
def wordMask (a size : Nat) : Nat × Nat := (a / 64 * 64, (2 ^ size - 1) * 2 ^ (a % 64))

/-- A write bound for another package (R326). -/
def State.sendWrite (s : State) (slot stream dst a : Nat) (bs : List Byte) : State :=
  (blocks a bs).foldl (fun s (b : Nat × Nat × List Byte) =>
    (s.sendBlock slot stream dst b.1 b.2.1 b.2.2 none none false).updSlot slot (fun p => p.noteWrite stream dst)) s

/-- An atomic bound for another package: it takes a SEQ and a window like a write (R326). -/
def State.sendAtomic (s : State) (slot stream dst a : Nat) (r : AtomicReq) : State :=
  (s.sendBlock slot stream dst (wordMask a r.size).1 (wordMask a r.size).2 [] (some r) none false).updSlot slot
    (fun p => p.noteWrite stream dst)

/-- A contribution bound for another package counts as an atomic (R130, R326). -/
def State.sendContribution (s : State) (slot stream dst a : Nat) (r : RedReq) : State :=
  (s.sendBlock slot stream dst (wordMask a r.size).1 (wordMask a r.size).2 [] none (some r) false).updSlot slot
    (fun p => p.noteWrite stream dst)

/-- Entries a send store holds for one grate (R327): 32 MiB at 128 bytes. -/
def sendStoreSize : Nat := 262144

/-- The source grate of a slot: a grate serves two hearths (R3, R324). -/
def sourceGrate (slot : Nat) : Nat := hearthOf slot % 8 / 2

/-- Entries of the send store of a slot's source grate: writes and atomics, those that releases carry among them (R327). -/
def State.storeUsed (s : State) (slot : Nat) : Nat :=
  (s.flue.store.filter (fun e => sourceGrate e.slot == sourceGrate slot)).length +
  (s.flue.releases.filter (fun r => r.flit.body != .none && sourceGrate r.slot == sourceGrate slot)).length

/-- The window of a stream takes the blocks without closing first. -/
def State.windowTakes (s : State) (t : SrcStream) (bs : List (Nat × Nat)) : Bool :=
  match t.current with
  | some w => decide (w.n + bs.length ≤ 4096) && bs.all (fun b =>
      let hit := s.flue.store.filter (touches t.sid t.dst w.win b.1 b.2)
      hit.isEmpty || (s.mergesInto hit).isSome)
  | none => false

/-- Writes to blocks, each with its mask, may be sent now: at most four windows of a stream toward a package are open, and the send
store has room (R325, R327). -/
def State.canSend (s : State) (slot stream dst : Nat) (bs : List (Nat × Nat)) : Bool :=
  let t := s.stream (s.sidOf slot stream) dst
  decide (s.storeUsed slot + bs.length ≤ sendStoreSize) && (decide (t.wins.length < 4) || s.windowTakes t bs)

/-- Blocks and masks of a write. -/
def blockMasks (a : Nat) (bs : List Byte) : List (Nat × Nat) := (blocks a bs).map (fun b => (b.1, b.2.1))

/-- A release toward a package leaves once every window closed before, and every earlier release, has been acknowledged: it covers
their writes too (R168; R329 names only the windows it closes itself). -/
def State.releaseReady (s : State) (slot dst : Nat) : Bool :=
  !s.flue.releases.any (fun r => r.slot == slot && r.dst == dst) &&
  !s.flue.streams.any (fun t => sidSlot t.sid == slot && t.dst == dst && t.wins.any (fun w => w.closed))

/-- A RELEASE or PROBE closes the current window of each of the slot's streams, and enters the list of those without an answer. It waits
here while its stream, or one whose window it closes, is frozen (R329, R332). -/
def State.sendClosing (s : State) (slot stream dst : Nat) (body : ReleaseBody) (probe : Bool) (ea : Word) (pc : Nat) (unit : Bool) : State :=
  let ts := (List.range 4).map (fun i => s.stream (s.sidOf slot i) dst)
  let recs := ts.map SrcStream.record
  let closing := ts.filter (fun t => t.record.n ≠ 0)
  let flit : ReleaseFlit := ⟨s.sidOf slot stream, dst, recs, body, probe⟩
  let sids := if closing = [] then [s.sidOf slot stream] else closing.map (·.sid)
  let wins : List WindowName := closing.map (fun t => ⟨t.sid, dst, t.record.win⟩)
  let s := closing.foldl (fun s t => s.setStream t.closed) s
  let queued := !probe && (s.stream (s.sidOf slot stream) dst :: closing).any (fun t => t.frozen)
  let s := s.storeRelease ⟨slot, dst, flit, sids, wins, ea, pc, queued, unit⟩
  if queued then s else s.emit (if probe then .probe flit else .release flit)

/-- A release of a slot whose location lies in another package (R329). -/
def State.sendRelease (s : State) (slot stream dst : Nat) (body : ReleaseBody) (probe : Bool) (ea : Word) (pc : Nat) : State :=
  let s := s.sendClosing slot stream dst body probe ea pc false
  if probe then s else s.updSlot slot (fun p => p.noteRelease stream dst)

/-- Windows of the slot toward a package are closed, so that they will be acknowledged. -/
def State.closeToward (s : State) (slot dst : Nat) : State :=
  (List.range 4).foldl (fun s i => s.countrel (s.sidOf slot i) dst) s

/-- Windows of the slot toward every package written since the last FENCES are closed. -/
def State.closeAll (s : State) (slot : Nat) : State := (s.slot slot).written.foldl (fun s d => s.closeToward slot d) s

/-- Windows or releases of the slot toward a package that are not acknowledged. -/
def State.outstandingTo (s : State) (slot dst : Nat) : Bool :=
  s.flue.releases.any (fun r => r.slot == slot && r.dst == dst) ||
  s.flue.streams.any (fun t => sidSlot t.sid == slot && t.dst == dst && t.wins.any (fun w => w.n != 0))

/-- Windows of the slot toward a package, or releases, that have not been acknowledged. -/
def State.outstanding (s : State) (slot : Nat) : Bool :=
  s.flue.releases.any (fun r => r.slot == slot) ||
  s.flue.streams.any (fun t => sidSlot t.sid == slot && t.wins.any (fun w => w.n != 0))

/-- A stream of the slot is frozen (R332). -/
def State.frozenStream (s : State) (slot : Nat) : Bool :=
  s.flue.streams.any (fun t => sidSlot t.sid == slot && t.frozen)

/-- A deferred trap for a slot (R107). -/
def Slot.defer (p : Slot) (cause : Nat) (eaddr einfo : Word) : Slot := { p with deferred := p.deferred ++ [⟨cause, eaddr, einfo⟩] }

/-- Number under which a slot of another package that sends a message is known here. -/
def foreignSlot (pkg slot : Nat) : Nat := 2 ^ 15 + pkg * 2 ^ 15 + slot % 2 ^ 15

/-- A message is refused: its sender sets REFUSED in its next FENCES status (R148, R152). -/
def State.refuseMessage (s : State) (src : Nat) : State :=
  if src < 2 ^ 15 then s.updSlot src (fun p => p.fenceBit Fence.refused)
  else s.emit (.report ⟨(src / 2 ^ 15 - 1) * 2 ^ 17 + src % 2 ^ 15 * 4, s.pkg.number, 2 ^ 16⟩ .refused 0 0)

/-! ## The stream table of the arrival grate (R328) -/

/-- Number under which the source of a contribution of another package is known here; its SEQ comes on top. -/
def foreign : Nat := 2 ^ 15

def State.entryOf (s : State) (sid : Nat) : Option StreamEntry := s.flue.table.find? (fun e => e.sid == sid)

def State.setEntry (s : State) (e : StreamEntry) : State :=
  let new := if s.flue.table.any (fun (x : StreamEntry) => x.sid == e.sid) then
      s.flue.table.map (fun (x : StreamEntry) => if x.sid = e.sid then e else x)
    else s.flue.table ++ [e]
  { s with flue := { s.flue with table := new } }

def StreamEntry.win (e : StreamEntry) (w : Nat) : ArrWindow := (e.wins.find? (fun x => x.win == w)).getD ⟨w, none, 0, [], 0, false⟩

def StreamEntry.setWin (e : StreamEntry) (x : ArrWindow) : StreamEntry :=
  { e with wins := if e.wins.any (fun y => y.win == x.win) then e.wins.map (fun y => if y.win = x.win then x else y) else e.wins ++ [x] }

/-- The write of a window has been applied. -/
def StreamEntry.mark (e : StreamEntry) (w seq : Nat) : StreamEntry :=
  e.setWin { e.win w with applied := if (e.win w).applied.contains seq then (e.win w).applied else seq :: (e.win w).applied }

/-! ## What a unit of the package sends to another (R103, R366) -/

/-- The stream on which a unit of a hearth writes to another package: that of the hearth's first slot 15. -/
def unitSlot (h : Nat) : Nat := 4096 * h + 15

/-- Windows of the streams of a slot's number toward every package but `dst` are closed, so that they will be acknowledged. -/
def State.closeOthers (s : State) (slot : Nat) (dst : Option Nat) : State :=
  (s.flue.streams.filter (fun t => sidSlot t.sid == slot && some t.dst != dst)).foldl (fun s t => s.countrel t.sid t.dst) s

/-- What a unit, or a slot, has sent to packages other than `dst` is acknowledged. -/
def State.othersDone (s : State) (slot : Nat) (unit : Bool) (dst : Option Nat) : Bool :=
  !s.flue.releases.any (fun r => r.slot == slot && r.unit == unit && some r.dst != dst) &&
  !s.flue.store.any (fun e => sidSlot e.flit.sid == slot && e.unit == unit && some e.flit.dst != dst)

/-- A write of a unit toward another package may be sent now (R325, R327). -/
def State.unitSends (s : State) (src dst : Nat) (bs : List (Nat × Nat)) : Bool :=
  decide (s.storeUsed src + bs.length ≤ sendStoreSize) && decide ((s.stream (s.sidOf src 0) dst).wins.length < 4)

/-- A release of a unit toward another package may be sent now: it is one at `.sys`, so that everything before it is performed (R167). -/
def State.unitReleases (s : State) (src dst : Nat) (unit : Bool) : Bool :=
  s.othersDone src unit (some dst) && s.releaseReady src dst && decide (s.storeUsed src < sendStoreSize)

/-- A write of a unit goes out to another package; one of a slot's record counts as the slot's. -/
def State.unitSend (s : State) (src dst a : Nat) (bs : List Byte) (unit : Bool) : State :=
  (blocks a bs).foldl (fun s (b : Nat × Nat × List Byte) =>
    let s := s.sendBlock src 0 dst b.1 b.2.1 b.2.2 none none unit
    if unit then s else s.updSlot src (fun p => p.noteWrite 0 dst)) s

end Sys2Proof.Machine
end

