-- ==== Sys2Proof/Machine/Ops.lean ====
section
/-! DEFINITION. The named operations over a slot's registers and its program counter; sparks, fault records and stops
(07_traps R110 to R112, 06_overrun R103); the end of a burn (05_flow_and_burns R94 to R96); the repeat sequencer
(R83 to R87); TAKING AN EXCEPTION (`State.trap`, R106) and returning from one (`Slot.leaveTrap`, `Slot.leaveUser`, R122);
parks (02_machine R21 to R23). -/
namespace Sys2Proof.Machine

/-! ## Status bits (R38) -/

/-- Bit `i` of a register. -/
def bitW (w : Word) (i : Nat) : Bool := w.getLsbD i

def Slot.priv (p : Slot) : Bool := bitW p.ctl.status 0
def Slot.det (p : Slot) : Bool := bitW p.ctl.status 1
def Slot.burning (p : Slot) : Bool := bitW p.ctl.status 2
def Slot.ember (p : Slot) : Bool := bitW p.ctl.status 3
def Slot.uie (p : Slot) : Bool := bitW p.ctl.status 4
def Slot.utw (p : Slot) : Bool := bitW p.ctl.status 5
def Slot.nolend (p : Slot) : Bool := bitW p.ctl.status 6
def Slot.uih (p : Slot) : Bool := bitW p.ctl.status 7
/-- ESTAT.TRAPH (R108). -/
def Slot.traph (p : Slot) : Bool := bitW p.ctl.estat 63
/-- BURNST.STATE (R92). -/
def Slot.burnState (p : Slot) : Nat := getField p.ctl.burnst 0 2
/-- The access has acted in another package, or may have: it completes before a deferred trap is taken, since its instruction has issued
(R105). LDF acts nowhere. -/
def tagCommitted (t : RemoteTag) : Bool :=
  !t.poll && decide (t.kind ≠ 0) && (match t.answer with
    | none | some (.lost _) => true
    | some (.got _ _ x) => x == .ok || x == .handler || x == .refused || (t.kind == 2 && x != .tag))
/-- The instruction at the PC waits for the answer of another package and may have acted there. -/
def Slot.committed (p : Slot) : Bool := p.remoteTag.any tagCommitted
def Slot.setStatus (p : Slot) (i : Nat) (b : Bool) : Slot :=
  { p with ctl := { p.ctl with status := setBit p.ctl.status i b } }

/-- SLOTID of a slot of this package (R38): package number in bits 28:16, the slot's number in bits 14:0. -/
def State.slotid (s : State) (slot : Nat) : Word := BitVec.ofNat 64 (s.pkg.number * 2 ^ 16 + slot % 2 ^ 15)

/-! ## x, v and m registers (R27 to R29) -/

def Slot.getX (p : Slot) (r : Reg) : Word := p.x[r.toNat]
/-- The full/empty bit as it stands once the result latencies of the slot have passed. -/
def Slot.fullX (p : Slot) (r : Reg) : Bool := p.xf.getLsbD r.toNat
def Slot.getV (p : Slot) (r : VReg) : VWord := p.v[r.toNat]
/-- The presence bit as it stands once the result latencies of the slot have passed. -/
def Slot.presentV (p : Slot) (r : VReg) : Bool := p.vp.getLsbD r.toNat

/-- No result latency of register number `r` runs at cycle `now` (x: 0 to 15, v: 16 to 47, m: 48 to 51; R61, R221). -/
def Slot.ran (p : Slot) (now r : Nat) : Bool := p.lat.all (fun e => e.1 != r || decide (e.2 ≤ now))
/-- The x register is full at a cycle: not before the latency of its result has passed (R27, R61). -/
def Slot.fullAt (p : Slot) (now : Nat) (r : Reg) : Bool := p.fullX r && p.ran now r.toNat
/-- The presence bit at a cycle: clear from the issue of a write until its latency has passed (R28, R221). -/
def Slot.presentAt (p : Slot) (now : Nat) (r : VReg) : Bool := p.presentV r && p.ran now (16 + r.toNat)
def Slot.getM (p : Slot) (r : MReg) : Word := p.m[r.toNat]

/-- A full/empty or presence word with bit `i` set to `b`. -/
def setMask {n : Nat} (w : BitVec n) (i : Nat) (b : Bool) : BitVec n :=
  if b then w ||| BitVec.ofNat n (2 ^ i) else w &&& ~~~(BitVec.ofNat n (2 ^ i))

/-- Writes a result: value and full (R27). -/
def Slot.setX (p : Slot) (r : Reg) (w : Word) : Slot :=
  { p with x := p.x.set r.toNat w, xf := setMask p.xf r.toNat true }

/-- Makes an x register empty (R27). -/
def Slot.emptyX (p : Slot) (r : Reg) : Slot :=
  { p with
    xf := setMask p.xf r.toNat false
    xdead := setMask p.xdead r.toNat false
    lat := p.lat.filter (fun e => e.1 != r.toNat) }

def Slot.setV (p : Slot) (r : VReg) (w : VWord) : Slot :=
  { p with v := p.v.set r.toNat w, vp := setMask p.vp r.toNat true }

def Slot.absentV (p : Slot) (r : VReg) : Slot := { p with vp := setMask p.vp r.toNat false }

def Slot.setM (p : Slot) (r : MReg) (w : Word) : Slot := { p with m := p.m.set r.toNat w }

/-- A fill of x register `r` is outstanding (R27). -/
def Slot.fillX (p : Slot) (r : Nat) : Bool := p.fills.any (fun f => !f.vec && f.reg == r)
/-- A load of vector register `r` is outstanding (R28). -/
def Slot.fillV (p : Slot) (r : Nat) : Bool := p.fills.any (fun f => f.vec && f.reg == r)

/-- The result latency of a register starts (R61, R221); registers already full are dropped from the list.
DESIGN CHOICE (log 93): a second result into a register whose earlier latency still runs takes its place, value and latency. -/
def Slot.late (p : Slot) (now r n : Nat) : Slot :=
  { p with lat := (r, now + n) :: p.lat.filter (fun e => e.1 != r && decide (now < e.2)) }

/-- The issuing slot writes x register `r`, full `n` cycles after issue. -/
def State.writeX (s : State) (r : Reg) (w : Word) (n : Nat) : State :=
  s.upd (fun p => (p.setX r w).late (s.cycleOf (coreOf s.cur)) r.toNat n)

/-- The issuing slot writes vector register `r`, present `n` cycles after issue. -/
def State.writeV (s : State) (r : VReg) (w : VWord) (n : Nat) : State :=
  s.upd (fun p => (p.setV r w).late (s.cycleOf (coreOf s.cur)) (16 + r.toNat) n)

/-! ## The program counter, and the position of a frame -/

/-- The frame's position after (j, i): words 0 to len of replay 0, then replay 1, and so on (R85). -/
def Frame.next (f : Frame) : Frame :=
  if f.i + 1 < f.words.length then { f with i := f.i + 1 } else { f with j := f.j + 1, i := 0 }

/-- The frame has issued its last instruction. -/
def Frame.done (f : Frame) : Bool := decide (f.n < f.j)

/-- The instruction that issues has completed its issue: the PC steps to the next word and a park is over; a frame
instruction moves the frame's position instead (R85). -/
def State.advance (s : State) : State :=
  if s.inFrame then s.updCore (coreOf s.cur) (fun c => { c with frame := c.frame.map (fun f => { f.next with at_ := s.cycleOf (coreOf s.cur) }) })
  else s.upd (fun p => { p with pc := p.pc + 4, park := none })

/-- The PC moves to a target (R80). -/
def State.jump (s : State) (target : Word) : State := s.upd (fun p => { p with pc := target, park := none })

/-! ## The repeat sequencer (R86) -/

/-- A frame of the slot is running or suspended. -/
def Core.frameOf (c : Core) (slot : Nat) : Option Frame :=
  match c.frame with
  | some f => if f.owner = slot then some f else
    match c.suspended with
    | some g => if g.owner = slot then some g else none
    | none => none
  | none =>
    match c.suspended with
    | some g => if g.owner = slot then some g else none
    | none => none

/-- The sequencer is released: a suspended frame resumes before any parked REPF is served (R86). -/
def Core.release (c : Core) : Core := { c with frame := c.suspended, suspended := none }

/-- Discards the slot's frame, running, frozen or suspended, and releases the sequencer if it held it (R87, R94, R96). -/
def Core.dropFrame (c : Core) (slot : Nat) : Core :=
  let c := { c with repfQueue := c.repfQueue.filter (fun k => k != slot) }
  let c := match c.suspended with
    | some g => if g.owner = slot then { c with suspended := none } else c
    | none => c
  match c.frame with
  | some f => if f.owner = slot then c.release else c
  | none => c

def State.dropFrame (s : State) (slot : Nat) : State := s.updCore (coreOf slot) (fun c => c.dropFrame slot)

/-! ## Burns (R92 to R96) -/

/-- Held entries of the store buffer (R93, R130). -/
def Slot.held (p : Slot) : Nat := (p.sb.filter (fun e => e.held)).length

/-- A store-buffer entry that holds a message. -/
def SbKind.isSend : SbKind → Bool
  | .send _ _ _ _ => true
  | _ => false

/-- Discards every held entry; the send count returns to the lowest discarded sequence (R94, R152). -/
def Slot.discardHeld (p : Slot) : Slot :=
  { p with
    sendCount := (p.sendCount + 2 ^ 32 - (p.sb.filter (fun e => e.held && e.kind.isSend)).length) % 2 ^ 32
    hashes := p.hashes.map (fun (e : Nat × Option (List Byte)) => (min e.1 (p.sb.filter (fun e => !e.held)).length, e.2))
    sb := p.sb.filter (fun e => !e.held) }

def Slot.setBurnst (p : Slot) (lo n v : Nat) : Slot :=
  { p with ctl := { p.ctl with burnst := putField p.ctl.burnst lo n v } }

/-- A trap ends the burn (R96). -/
def Slot.endBurn (p : Slot) : Slot :=
  if p.burning then
    (((p.discardHeld.setStatus 2 false).setBurnst 0 2 0).setBurnst 24 8 0).setBurnst 9 6 0
  else p

/-- The slot is free: what the thread leaves in its registers stays there until a SPAWN (R188). -/
def Slot.ended (p : Slot) : Slot :=
  { Slot.free with
    x := p.x
    xf := p.xf
    v := p.v
    vp := p.vp
    m := p.m
    pc := p.pc
    sg := p.sg
    ctl := p.ctl
    sbank := p.sbank
    sseg := p.sseg
    ubank := p.ubank }

/-! ## Wakes (R22) -/

/-- A register or tag park has reached WAITLIM without its event (R23, R96, R106). -/
def Slot.expired (p : Slot) (dtime : Nat) : Bool :=
  let limit := getField p.ctl.waitlim 0 32
  match p.park with
  | some k =>
    (match k.reason with
      | .reg _ | .vreg _ | .tag _ _ _ => true
      | _ => false) &&
    !k.occurred && decide (limit ≠ 0) && decide (k.since + limit ≤ dtime) && !p.burning && !p.traph &&
    decide (p.mode = .running)
  | none => false

/-- The limit was reached in an earlier cycle than the present one: an event no longer wins (R23). -/
def State.limitPassed (s : State) (slot : Nat) : Bool := (s.slot slot).expired ((s.clock - cycleUnits) / nsUnits)

/-- The ending event of a slot's park occurs in the present cycle: the slot issues on the first or the second of its next two own
turns (R22, log 8). -/
def State.wake (s : State) (slot : Nat) (declined : Bool) : State :=
  match (s.slot slot).park with
  | none => s
  | some k =>
    if k.occurred || s.limitPassed slot then s
    else { s.updSlot slot (fun p => { p with park := some { k with
        occurred := true
        declined := declined
        passed := Config.wakeFirst s.fresh
        at_ := s.cycle } }) with
      fresh := s.fresh + 1 }

/-- A message, spark or user interrupt arrives for a slot in WFI (R22, R119). -/
def State.wakeWfi (s : State) (slot : Nat) : State :=
  match (s.slot slot).park with
  | some k => if k.reason = .wfi then s.wake slot false else s
  | none => s

/-! ## Sparks (R18) -/

/-- A spark enters the stoker's queue of 32 entries, or is held for it (R18). -/
def Core.addSpark (c : Core) (k : Spark) : Core :=
  if c.sparks.length < 32 ∧ c.sparksHeld = [] then { c with sparks := c.sparks ++ [k] }
  else { c with sparksHeld := c.sparksHeld ++ [k] }

/-- A spark for a core's stoker; one that enters the queue ends the stoker's WFI. -/
def State.sendSpark (s : State) (core : Nat) (k : Spark) : State :=
  let t := s.updCore core (fun c => c.addSpark k)
  if (t.core core).sparks.length = (s.core core).sparks.length then t else t.wakeWfi (16 * core)

/-! ## Successors (R175, R183) -/

/-- The entry's completion record will carry UNDER. -/
def Pend.marked (g : Pend) (rcba : Word) : Pend := if g.rcba = rcba ∧ g.replay = none then { g with under := true } else g

/-- The pool or the overflow of a hearth holds a launch of the node. -/
def Hearth.awaits (h : Hearth) (rcba : Word) : Bool :=
  (h.pool ++ h.overflow.filterMap (·.pend)).any (fun g => decide (g.rcba = rcba) && g.replay.isNone)

/-- The successor's completion record will carry UNDER (R175). -/
def State.markUnder (s : State) (rcba : Word) : State :=
  if s.hearths.any (fun h => h.2.awaits rcba) then
    { s with hearths := s.hearths.map (fun (e : Nat × Hearth) => (e.1, { e.2 with
        pool := e.2.pool.map (fun g => g.marked rcba)
        overflow := e.2.overflow.map (fun (o : Overflow) => { o with pend := o.pend.map (fun g => g.marked rcba) }) })) }
  else { s with pkg := { s.pkg with under := rcba :: s.pkg.under } }

/-- The decrement of a DEPCNT at its home, fixed handler 2 on the 4-byte field, as a release at `.sys` (R140, R175); one in another
package is a returning atomic whose answer says whether the count would have fallen below 0. -/
def State.decrement (s : State) (h : Nat) (succ : Word) : State :=
  if globalPkg succ = s.pkg.number then
    if !s.unitAt succ then s
    else
      let a := globalLocal succ
      let s := s.mergeWord (a + 0x4C)
      let old := s.homeNat (a + 0x4C) 4
      if s.badAt (a + 0x4C) 4 then s else if old = 0 then s.markUnder succ else s.writeHomeNat (a + 0x4C) 4 (old - 1)
  else
    let id := s.fresh
    let req : AtomicReq := ⟨.ahx, .there (globalPkg succ) (globalLocal succ + 0x4C), 4, 0, 2, some id, unitSlot h, 0, false, 0, none, 0⟩
    ({ s with fresh := s.fresh + 1, pkg := { s.pkg with decrements := s.pkg.decrements ++ [(id, succ)] } }).sendClosing (unitSlot h) 0
      (globalPkg succ) (.atomic req) false succ 0 true

/-- A decrement inside a replay acts on the replay's own entries, or is kept until the node is accepted; a successor outside the graph
is decremented as any other. -/
def State.replayDecrement (s : State) (h n : Nat) (root succ : Word) : State :=
  match (s.pkg.graphs.find? (fun t => decide (t.root = root))).bind (fun t => t.replays.find? (fun r => r.n == n && r.nodes.contains succ)) with
  | none => s.decrement h succ
  | some r =>
    if ((s.hearth r.hearth).pool ++ (s.hearth r.hearth).overflow.filterMap (·.pend)).any (fun g => decide (g.rcba = succ) && g.replay == some n) then
      s.updHearth r.hearth (fun x =>
        let count (g : Pend) : Pend := if g.rcba = succ ∧ g.replay = some n then
            (if g.deps = 0 then { g with under := true } else { g with deps := g.deps - 1 })
          else g
        { x with pool := x.pool.map count, overflow := x.overflow.map (fun (o : Overflow) => { o with pend := o.pend.map count }) })
    else { s with pkg := { s.pkg with graphs := s.pkg.graphs.map (fun (t : Graph) => if t.root = root then
        { t with replays := t.replays.map (fun (r : Replay) => if r.n = n then { r with pre := succ :: r.pre } else r) }
      else t) } }

/-! ## What the units of the package do (R103, R167, R181, R366) -/

/-- The completion spark, to a slot of this package or of another that CSPKD names (R181).
DESIGN CHOICE (log 93): its destination is the slot whose number stands in CSPKD; a spark to a slot that holds no thread is refused. -/
def State.completionSpark (s : State) (h : Nat) (cspkd : Word) (m : Message) : State :=
  let slot := getField cspkd 0 15
  if getField cspkd 16 13 = s.pkg.number then
    { s with flights := s.flights ++ [(⟨unitSlot h, slot, false, true, m, none⟩ : Flight)] }
  else s.emit (.msg (getField cspkd 16 13) slot s.pkg.number (unitSlot h) m true)

/-- The four words of a spark go to a stoker, of this package or another. -/
def State.tellStoker (s : State) (k : Nat × Nat) (w0 w1 w2 w3 : Word) : State :=
  if k.1 = s.pkg.number then s.sendSpark k.2 (.words w0 w1 w2 w3) else s.emit (.spark k.1 k.2 w0 w1 w2 w3)

/-- A release at `.sys` of a unit may be performed now, at home or in another package. -/
def State.releaseNow (s : State) (o : UnitOp) (w : Word) : Bool :=
  if globalPkg w = s.pkg.number then s.othersDone o.src o.unit none else s.unitReleases o.src (globalPkg w) o.unit

/-- The operation of a unit may be performed now: a release follows everything the unit has sent to another package (R167). -/
def State.unitReady (s : State) (o : UnitOp) : Bool :=
  match o.kind with
  | .write w bs => decide (globalPkg w = s.pkg.number) || s.unitSends o.src (globalPkg w) (blockMasks (globalLocal w) bs)
  | .release w _ _ => s.releaseNow o w
  | .decrement succ _ => s.releaseNow o succ
  | .message _ _ | .wait => s.othersDone o.src o.unit none
  | .stoker _ _ _ _ _ _ => true

/-- A release of a unit: at home, value and tag in one change, or as a counted release to another package (R329). -/
def State.unitRelease (s : State) (o : UnitOp) (w : Word) (bs : List Byte) (tag : Option Bool) : State :=
  let a := globalLocal w
  if globalPkg w ≠ s.pkg.number then s.sendClosing o.src 0 (globalPkg w) (.write a bs tag) false w 0 o.unit
  else if !s.populated a then s
  else match tag with
    | none => s.unitWrite a bs
    | some t => if s.writeRefused a bs.length then s else ((s.mergeWord a).writeHome a bs).setHomeTag a t

/-- What an operation of a unit does. -/
def State.unitPerform (s : State) (o : UnitOp) : State :=
  match o.kind with
  | .write w bs =>
    if globalPkg w ≠ s.pkg.number then s.unitSend o.src (globalPkg w) (globalLocal w) bs o.unit
    else if s.populated (globalLocal w) then s.unitWrite (globalLocal w) bs
    else s
  | .release w bs tag => s.unitRelease o w bs tag
  | .decrement succ none => s.decrement (hearthOf o.src) succ
  | .decrement succ (some (n, root)) => s.replayDecrement (hearthOf o.src) n root succ
  | .message dest m => s.completionSpark (hearthOf o.src) dest m
  | .wait => s
  | .stoker pkg core w0 w1 w2 w3 => s.tellStoker (pkg, core) w0 w1 w2 w3

/-- A unit does something: at once where nothing of its lane waits and it may, else in its turn. -/
def State.unitDo (s : State) (o : UnitOp) : State :=
  if !s.pkg.units.any (fun x => x.lane == o.lane) && s.unitReady o then s.unitPerform o
  else { s with pkg := { s.pkg with units := s.pkg.units ++ [o] } }

/-- The oldest operation of each lane. -/
def laneHeads : List Word → List UnitOp → List UnitOp
  | _, [] => []
  | seen, o :: os => if seen.contains o.lane then laneHeads seen os else o :: laneHeads (o.lane :: seen) os

/-- Windows that an operation waits for are closed, so that they will be acknowledged. -/
def State.unitCloses (s : State) (o : UnitOp) : State :=
  match o.kind with
  | .write _ _ | .stoker _ _ _ _ _ _ => s
  | .release w _ _ => s.closeOthers o.src (some (globalPkg w))
  | .decrement succ _ => s.closeOthers o.src (some (globalPkg succ))
  | .message _ _ | .wait => s.closeOthers o.src none

/-- The next operation that the units can perform, if any. -/
def State.unitStep (s : State) : State :=
  let heads := laneHeads [] s.pkg.units
  match heads.find? s.unitReady with
  | some o => { s with pkg := { s.pkg with units := s.pkg.units.erase o } }.unitPerform o
  | none => heads.foldl State.unitCloses s

/-- Parts of a write of up to 4 KiB, with their offsets. -/
def writePieces (bs : List Byte) : List (Nat × List Byte) :=
  (List.range ((bs.length + 4095) / 4096)).map (fun i => (4096 * i, (bs.drop (4096 * i)).take 4096))

/-- A write by a unit, on the streams of a slot's number: those of a slot's own record are the slot's (R366). -/
def State.unitWrites (s : State) (lane : Word) (src : Nat) (unit : Bool) (w : Word) (bs : List Byte) : State :=
  if globalPkg w = s.pkg.number then s.unitDo ⟨lane, src, unit, .write w bs⟩
  else (writePieces bs).foldl (fun s (p : Nat × List Byte) => s.unitDo ⟨lane, src, unit, .write (w + BitVec.ofNat 64 p.1) p.2⟩) s

/-- A write by a unit of hearth h. -/
def State.deviceWrite (s : State) (h : Nat) (lane w : Word) (bs : List Byte) : State := s.unitWrites lane (unitSlot h) true w bs

/-- Another operation by a unit of hearth h (R103, R167). -/
def State.deviceDo (s : State) (h : Nat) (lane : Word) (k : UnitKind) : State := s.unitDo ⟨lane, unitSlot h, true, k⟩

/-- Something of a lane of hearth h is not yet performed, or not known to be. -/
def State.lanePending (s : State) (h : Nat) (lane : Word) : Bool :=
  s.pkg.units.any (fun x => x.lane == lane) || !s.othersDone (unitSlot h) true none

/-- What a slot has written to another package, its record among it, is not all acknowledged (R166). -/
def State.sending (s : State) (slot : Nat) : Bool :=
  s.outstanding slot || s.pkg.units.any (fun x => x.src == slot && !x.unit)

/-! ## Fault records (R103, R110 to R112, R180) -/

/-- The fault domain in whose ring the slot's entry is reserved (R111, R112). -/
def State.domainOf (s : State) (slot : Nat) : Option Word :=
  if slotNo slot = 0 ∨ slotNo slot = 14 then
    (if (s.hearth (hearthOf slot)).sysfdom = 0 then none else some (s.hearth (hearthOf slot)).sysfdom)
  else (s.slot slot).reserved

/-- The 64 bytes of a fault record (R111). -/
def faultRecord (dtime : Nat) (slotid lid rcba : Word) (seq cause flags : Nat) (pc addr info : Word) : List Byte :=
  bytesOfNat 8 dtime ++ bytesOfNat 8 slotid.toNat ++ bytesOfNat 8 lid.toNat ++ bytesOfNat 8 rcba.toNat ++
  bytesOfNat 4 seq ++ bytesOfNat 1 cause ++ bytesOfNat 1 flags ++ bytesOfNat 2 0 ++
  bytesOfNat 8 pc.toNat ++ bytesOfNat 8 addr.toNat ++ bytesOfNat 8 info.toNat

/-- Writes a fault record into the reserved entry of the slot's domain: HEAD rises by one and RESV falls by one (R111).
Answers the record's address and SEQ; a slot without a reservation writes none. -/
def State.writeRecord (s : State) (slot cause flags : Nat) (addr info : Word) : State × Nat × Nat :=
  match s.domainOf slot with
  | none => (s, 0, 0)
  | some dom =>
    let s := (s.unitMerge (dom + 8)).unitMerge (dom + 16)
    let rbase := s.unitNat dom 8
    let nent := s.unitNat (dom + 8) 4
    let resv := s.unitNat (dom + 12) 4
    let head := s.unitNat (dom + 16) 8
    let at_ := rbase + 64 * (head % nent)
    let p := s.slot slot
    let h := hearthOf slot
    let far := decide (globalPkg dom ≠ s.pkg.number) || decide (globalPkg (BitVec.ofNat 64 at_) ≠ s.pkg.number)
    let s := s.deviceWrite h dom (BitVec.ofNat 64 at_)
      (faultRecord s.dtime (s.slotid slot) (if slotNo slot = 0 then 0 else p.ctl.lid)
        (if slotNo slot = 0 then 0 else p.ctl.rcba) head cause flags p.pc addr info)
    let count := bytesOfNat 4 (resv - 1) ++ bytesOfNat 8 (head + 1)
    let s := if far then s.deviceDo h dom (.release (dom + 12) count none) else s.deviceWrite h dom (dom + 12) count
    (s.updSlot slot (fun p => { p with reserved := none }), at_, head)

/-- The stoker that a fault domain's SVCD names, by package and core: none where it is not valid (R180). -/
def State.svcd (s : State) (dom : Word) : Option (Nat × Nat) :=
  let w := s.unitNat (dom + 0x20) 8
  if dom ≠ 0 ∧ fld w 63 1 = 1 then some (fld w 16 13, fld w 4 11) else none

/-- Where the spark of a stop goes: to the stoker that SVCD of the record's domain names, else to the core's own; for slot 14 always to
its own (R103, R112, R180). -/
def State.stopService (s : State) (slot : Nat) : Nat × Nat :=
  let own := (s.pkg.number, coreOf slot)
  if slotNo slot = 14 then own else match s.domainOf slot with
    | some dom => (s.svcd dom).getD own
    | none => own

/-- A spark that follows a record at `at_` in a domain's ring: once the record is visible (R103). -/
def State.afterRecord (s : State) (h : Nat) (dom : Option Word) (at_ : Word) (to_ : Nat × Nat) (w0 w1 w2 : Word) : State :=
  match dom with
  | none => s.tellStoker to_ w0 w1 w2 0
  | some d =>
    let s := if globalPkg d ≠ s.pkg.number ∨ globalPkg at_ ≠ s.pkg.number then s.deviceDo h d .wait else s
    s.deviceDo h d (.stoker to_.1 to_.2 w0 w1 w2 0)

/-- Stops a slot (R95, R110): it leaves the rotation, its record is written and then its spark sent. A stop in slot 0 tells
the launch unit, which places nothing more on the core. -/
def State.stopSlot (s : State) (slot cause : Nat) (double : Bool) (addr info : Word) : State :=
  let p := s.slot slot
  let flags := (if double then 1 else 0) + (if p.ember then 2 else 0) + (if p.priv then 4 else 0)
  let s := s.updSlot slot (fun p => { p with mode := .stopped })
  let to_ := s.stopService slot
  let dom := s.domainOf slot
  let (s, at_, seq) := s.writeRecord slot cause flags addr info
  if slotNo slot = 0 then s.updCore (coreOf slot) (fun c => { c with closed := true })
  else s.afterRecord (hearthOf slot) dom (BitVec.ofNat 64 at_) to_ (s.slotid slot)
    (BitVec.ofNat 64 (cause + flags * 2 ^ 8 + seq % 2 ^ 32 * 2 ^ 32)) (BitVec.ofNat 64 at_)

/-! ## Taking an exception (R105 to R108) -/

/-- Cause codes of R107. -/
def Cause.ill : Nat := 0x01
def Cause.priv : Nat := 0x02
def Cause.seglim : Nat := 0x03
def Cause.segrights : Nat := 0x04
def Cause.align : Nat := 0x05
def Cause.tagwait : Nat := 0x08
def Cause.detatom : Nat := 0x09
def Cause.redconf : Nat := 0x0A
def Cause.accfirst : Nat := 0x0B
def Cause.repfmt : Nat := 0x0C
def Cause.eccunc : Nat := 0x0D
def Cause.remote : Nat := 0x0E
def Cause.kilnfmt : Nat := 0x0F
def Cause.trapi : Nat := 0x10
def Cause.brkpt : Nat := 0x11
def Cause.pagefail : Nat := 0x12
def Cause.burnnest : Nat := 0x13
def Cause.burnsto : Nat := 0x14

/-- Full/empty bits of x12 to x15. -/
def Slot.topFull (p : Slot) : BitVec 4 := p.xf.extractLsb' 12 4

/-- x12 to x15 as a bank. -/
def Slot.top (p : Slot) : Bank :=
  ⟨p.x[12], p.x[13], p.x[14], p.x[15], p.topFull, p.lat.filter (fun e => decide (12 ≤ e.1) && decide (e.1 < 16))⟩

/-- x12 to x15 replaced by a bank, with their full/empty bits and their latencies. -/
def Slot.setTop (p : Slot) (b : Bank) : Slot :=
  { p with
    x := (((p.x.set 12 b.x12).set 13 b.x13).set 14 b.x14).set 15 b.x15
    lat := p.lat.filter (fun e => !(decide (12 ≤ e.1) && decide (e.1 < 16))) ++ b.lat
    xf := (p.xf &&& 0x0FFF) ||| (b.full.setWidth 16 <<< 12) }

/-- Exchanges x12 to x15 with the supervisor bank and sg0 with the supervisor code segment (R106, R122). -/
def Slot.exchange (p : Slot) : Slot :=
  let q := p.setTop p.sbank
  { q with sbank := p.top, sg := p.sg.set 0 p.sseg, sseg := p.sg[0], remoteFetch := [] }

/-- No fill is outstanding into x12 to x15 (R106). -/
def Slot.topQuiet (p : Slot) : Bool := !p.fills.any (fun f => !f.vec && decide (12 ≤ f.reg))

/-- A CPYX that waits lets a user interrupt in, and is issued again after it: the completions it waits for may need the room (R113, R305). -/
def Barrier.isCpyx : Barrier → Bool
  | .cpyx _ => true
  | _ => false

/-- An instruction that waits where it stands is issued again after the trap. -/
def Barrier.standing : Barrier → Bool
  | .fences _ _ | .probed _ | .exit | .ending | .cpyx _ => true
  | _ => false

/-- Trap entry (R106). A look at a tag that the parked instruction made in another package is abandoned with the park. -/
def Slot.enterTrap (p : Slot) (t : Trap) : Slot :=
  let q := p.exchange
  { q with
    pc := p.ctl.evec
    park := none
    remoteTag := none
    trapWait := none
    barrier := p.barrier.filter (fun b => !b.standing)
    ctl := { p.ctl with
      estat := 0x8000000000000000#64 ||| (p.ctl.status &&& 0xFF#64)
      epc := t.epc
      ecause := BitVec.ofNat 64 t.cause
      eaddr := t.eaddr
      einfo := t.einfo
      status := (p.ctl.status ||| 1#64) &&& ~~~0x30#64 } }

/-- A burn and its frame end before a trap; a REPF that is parked gives up its place (R86, R96). -/
def State.leaveWork (s : State) : State :=
  if s.me.burning then (s.upd Slot.endBurn).dropFrame s.cur
  else s.updCore (coreOf s.cur) (fun c => { c with repfQueue := c.repfQueue.filter (fun k => k != s.cur) })

/-- The entry itself, once no fill is outstanding into x12 to x15: a trap inside a trap handler stops the slot (R106, R110). -/
def State.enterTrap (s : State) (t : Trap) : State :=
  if s.me.traph then (s.upd (fun p => { p with trapWait := none, remoteTag := none })).stopSlot s.cur t.cause true t.eaddr t.einfo
  else s.upd (fun p => p.enterTrap t)

/-- The issuing slot takes a trap (R96, R106, R110): the burn and its frame end, then the entry waits, if it must, until no fill is
outstanding into x12 to x15. -/
def State.trap (s : State) (t : Trap) : State :=
  let q := s.me.topQuiet
  let s := s.leaveWork
  if q then s.enterTrap t else s.upd (fun p => { p with trapWait := some t })

/-- EINFO of a frame fault (R87): j, i and the FRAME bit under the cause's own bits above bit 15. -/
def frameInfo (f : Frame) (einfo : Word) : Word :=
  (einfo &&& ~~~0xFFFF#64) ||| BitVec.ofNat 64 (f.j % 32 + f.i % 16 * 2 ^ 8 + 2 ^ 12)

/-- A fault of a frame instruction freezes the frame; the trap is taken on the owner's next own turn (R87). -/
def State.freezeFrame (s : State) (cause : Nat) (einfo : Word) : State :=
  match (s.core (coreOf s.cur)).frame with
  | none => s
  | some f =>
    let s := s.updCore (coreOf s.cur) (fun c => { c with frame := some { f with frozen := true } })
    s.upd (fun p => { p with deferred := p.deferred ++ [⟨cause, f.repf, frameInfo f einfo⟩] })

/-- The instruction that issues takes a fault of its own (R105, R107): EPC is its own address. In a frame it freezes the frame. -/
def State.raise (s : State) (cause : Nat) (eaddr einfo : Word) : State :=
  if s.inFrame then s.freezeFrame cause einfo else s.trap ⟨cause, s.me.pc, eaddr, einfo⟩

/-- EINFO of a cause that holds the word as issued (R107). -/
def wordInfo (w : Nat) : Word := BitVec.ofNat 64 (w % 2 ^ 32 * 2 ^ 32)

/-- The word of an instruction. -/
def wordOf (i : Instr) : Nat := (encode i).getD 0

def State.ill (s : State) (i : Instr) : State := s.raise Cause.ill 0 (wordInfo (wordOf i))
def State.privFault (s : State) (i : Instr) : State := s.raise Cause.priv 0 (wordInfo (wordOf i))

/-! ## Returning from an exception (R122) -/

/-- ERET after its checks: the banks and sg0 go back, STATUS is restored from ESTAT, TRAPH clears, PC ← EPC. -/
def Slot.leaveTrap (p : Slot) : Slot :=
  let q := p.exchange
  { q with
    pc := p.ctl.epc
    park := none
    ctl := { p.ctl with
      status := (p.ctl.status &&& ~~~0xF1#64) ||| (p.ctl.estat &&& 0xF1#64)
      estat := p.ctl.estat &&& ~~~0x8000000000000000#64 } }

/-- User-interrupt entry (R114): the UI bank takes x12 to x15; x12 is the event word, x13 its argument, x14 stays, x15 is 0. -/
def Slot.enterUser (p : Slot) (kind : Nat) (arg ret target : Word) (xid : Option Word) : Slot :=
  let q := p.setTop ⟨BitVec.ofNat 64 kind, arg, p.x[14], 0, 0xF, []⟩
  { q with
    ubank := p.top
    pc := target
    park := none
    barrier := p.barrier.filter (fun b => !b.isCpyx)
    remoteTag := none
    remoteFetch := []
    ctl := { p.ctl with
      uipc := ret
      uixid := xid.getD p.ctl.uixid
      status := setBit p.ctl.status 7 true } }

/-- UIRET after its checks. -/
def Slot.leaveUser (p : Slot) : Slot :=
  let q := p.setTop p.ubank
  { q with pc := p.ctl.uipc, park := none, ctl := { p.ctl with status := setBit p.ctl.status 7 false } }

/-! ## Parks (R21 to R23) -/

/-- The slot parks: the instruction does not complete. A slot that wakes and finds its event gone parks afresh; a park on the
same reason that has not ended keeps its instant. -/
def Slot.parkOn (p : Slot) (now : Nat) (r : ParkReason) : Slot :=
  match p.park with
  | some k => if k.reason = r ∧ !k.occurred then p else { p with park := some ⟨r, now, false, false, false, 0⟩ }
  | none => { p with park := some ⟨r, now, false, false, false, 0⟩ }

def State.parkOn (s : State) (r : ParkReason) : State := s.upd (fun p => p.parkOn s.dtime r)

/-! ## The handler of a burn (R94, R95) -/

/-- Entry into the handler at an overrun in the body (R94). A tagged access that waits for another package is abandoned: its answer
changes nothing. -/
def Slot.enterHandler (p : Slot) (dtime : Nat) (parked : Bool) (frame : Option Frame) : Slot :=
  let b := p.ctl.burnst
  let b := putField b 7 1 (if parked then 1 else 0)
  let b := putField b 9 6 p.held
  let b := match frame with
    | some f => putField (putField (putField b 6 1 1) 15 5 f.j) 20 4 f.i
    | none => b
  let b := putField (putField b 24 8 0x06) 0 2 2
  let q := p.discardHeld
  { q with
    pc := p.ctl.bhnd + 8
    park := none
    barrier := none
    remoteTag := none
    remoteFetch := []
    ctl := { p.ctl with
      bepc := p.pc
      burnst := b
      bstart := BitVec.ofNat 64 dtime
      bmin := BitVec.ofNat 64 dtime
      bmax := BitVec.ofNat 64 (dtime + getField p.ctl.burnst 32 32) } }

/-- Registers of a handler overrun (R95, R102); the slot has issued its last, so no answer changes it. -/
def Slot.overrun (p : Slot) (parked : Bool) : Slot :=
  let b := p.ctl.burnst
  let b := putField b 7 1 (if parked then 1 else 0)
  let b := putField b 9 6 p.held
  let b := putField (putField b 24 8 0x07) 0 2 3
  let q := p.discardHeld
  { q with remoteTag := none, ctl := { p.ctl with burnst := b } }

end Sys2Proof.Machine
end

