-- ==== Sys2Proof/Machine/Uses.lean ====
section
/-! DEFINITION. Which registers each instruction reads and writes (the Reads columns and the descriptions of the chapters;
02_machine R17, R27, R28), which instructions are vector, mask, kiln, repeat or context instructions (R24), and the checks every
instruction makes before it takes effect: the illegal words of 03_encoding R48, then readiness (R17, R21). -/
namespace Sys2Proof.Machine

/-- Registers of an instruction: x registers read, vector registers read, x registers written, vector registers written, tiles
named; whether it is a vector, mask, kiln, repeat or context instruction. -/
structure Uses where
  xs : List Reg
  vs : List VReg
  xd : List Reg
  vd : List VReg
  ts : List TReg
  heavy : Bool
  deriving DecidableEq, Repr

def Uses.none : Uses := ⟨[], [], [], [], [], false⟩

/-- `n` registers from `r` on, modulo 16 (R152, R153). -/
def regRange (r : Reg) : Nat → List Reg
  | 0 => []
  | n + 1 => r :: regRange (r + 1) n

/-- v0 to v31, which KMMV reads (R249). -/
def allV : List VReg := (List.range 32).map (BitVec.ofNat 5)

/-- The registers of an instruction. -/
def uses : Instr → Uses
  | .add d a b _ => ⟨[a, b], [], [d], [], [], false⟩
  | .sub d a b _ => ⟨[a, b], [], [d], [], [], false⟩
  | .mul d a b _ => ⟨[a, b], [], [d], [], [], false⟩
  | .mulh d a b _ => ⟨[a, b], [], [d], [], [], false⟩
  | .mulhn d a b _ => ⟨[a, b], [], [d], [], [], false⟩
  | .div d a b _ => ⟨[a, b], [], [d], [], [], false⟩
  | .divn d a b _ => ⟨[a, b], [], [d], [], [], false⟩
  | .rem d a b _ => ⟨[a, b], [], [d], [], [], false⟩
  | .remn d a b _ => ⟨[a, b], [], [d], [], [], false⟩
  | .and d a b _ => ⟨[a, b], [], [d], [], [], false⟩
  | .andn d a b _ => ⟨[a, b], [], [d], [], [], false⟩
  | .or d a b _ => ⟨[a, b], [], [d], [], [], false⟩
  | .xor d a b _ => ⟨[a, b], [], [d], [], [], false⟩
  | .shl d a b _ => ⟨[a, b], [], [d], [], [], false⟩
  | .shr d a b _ => ⟨[a, b], [], [d], [], [], false⟩
  | .sra d a b _ => ⟨[a, b], [], [d], [], [], false⟩
  | .rol d a b _ => ⟨[a, b], [], [d], [], [], false⟩
  | .ror d a b _ => ⟨[a, b], [], [d], [], [], false⟩
  | .min d a b _ => ⟨[a, b], [], [d], [], [], false⟩
  | .max d a b _ => ⟨[a, b], [], [d], [], [], false⟩
  | .minn d a b _ => ⟨[a, b], [], [d], [], [], false⟩
  | .maxn d a b _ => ⟨[a, b], [], [d], [], [], false⟩
  | .sel d a b => ⟨[d, a, b], [], [d], [], [], false⟩
  | .cmpeq d a b _ => ⟨[a, b], [], [d], [], [], false⟩
  | .cmpne d a b _ => ⟨[a, b], [], [d], [], [], false⟩
  | .cmplt d a b _ => ⟨[a, b], [], [d], [], [], false⟩
  | .cmpltn d a b _ => ⟨[a, b], [], [d], [], [], false⟩
  | .cmple d a b _ => ⟨[a, b], [], [d], [], [], false⟩
  | .cmplen d a b _ => ⟨[a, b], [], [d], [], [], false⟩
  | .abs d a _ => ⟨[a], [], [d], [], [], false⟩
  | .neg d a _ => ⟨[a], [], [d], [], [], false⟩
  | .clz d a _ => ⟨[a], [], [d], [], [], false⟩
  | .ctz d a _ => ⟨[a], [], [d], [], [], false⟩
  | .popc d a _ => ⟨[a], [], [d], [], [], false⟩
  | .brev d a _ => ⟨[a], [], [d], [], [], false⟩
  | .bfx d a b => ⟨[a, b], [], [d], [], [], false⟩
  | .bfxs d a b => ⟨[a, b], [], [d], [], [], false⟩
  | .bfi d a b => ⟨[d, a, b], [], [d], [], [], false⟩
  | .sext d a _ => ⟨[a], [], [d], [], [], false⟩
  | .zext d a _ => ⟨[a], [], [d], [], [], false⟩
  | .mov d a => ⟨[a], [], [d], [], [], false⟩
  | .addi d a _ => ⟨[a], [], [d], [], [], false⟩
  | .andi d a _ => ⟨[a], [], [d], [], [], false⟩
  | .ori d a _ => ⟨[a], [], [d], [], [], false⟩
  | .xori d a _ => ⟨[a], [], [d], [], [], false⟩
  | .muli d a _ => ⟨[a], [], [d], [], [], false⟩
  | .shli d a _ => ⟨[a], [], [d], [], [], false⟩
  | .shri d a _ => ⟨[a], [], [d], [], [], false⟩
  | .srai d a _ => ⟨[a], [], [d], [], [], false⟩
  | .cmpi d a c _ => ⟨(if c = .al then [] else [a]), [], [d], [], [], false⟩
  | .movw d _ keep _ => ⟨(if keep then [d] else []), [], [d], [], [], false⟩
  | .lea t a _ _ _ => ⟨[a], [], [t], [], [], false⟩
  | .b c a _ => ⟨(if c = .al then [] else [a]), [], [], [], [], false⟩
  | .bc c a b _ => ⟨(if c = .al then [] else [a, b]), [], [], [], [], false⟩
  | .loop a _ => ⟨[a], [], [a], [], [], false⟩
  | .call _ => ⟨[], [], [15], [], [], false⟩
  | .jr a => ⟨[a], [], [], [], [], false⟩
  | .ret => ⟨[15], [], [], [], [], false⟩
  | .callr a => ⟨[a], [], [15], [], [], false⟩
  | .repf _ _ _ _ => ⟨[], [], [], [], [], true⟩
  | .burn h _ _ _ => ⟨[h], [], [], [], [], false⟩
  | .burnr h a b => ⟨[h, a, b], [], [], [], [], false⟩
  | .burnq d => ⟨[], [], [d], [], [], false⟩
  | .burne => .none
  | .ld t a _ _ _ _ => ⟨[a], [], [t], [], [], false⟩
  | .ldn t a _ _ _ _ => ⟨[a], [], [t], [], [], false⟩
  | .st t a _ _ _ _ => ⟨[t, a], [], [], [], [], false⟩
  | .ldv v a _ _ _ _ => ⟨[a], [], [], [v], [], true⟩
  | .stv v a _ _ _ _ => ⟨[a], [v], [], [], [], true⟩
  | .ldvg v i b _ _ mk => ⟨[b], (i :: if mk then [v] else []), [], [v], [], true⟩
  | .stvs v i b _ _ _ => ⟨[b], [i, v], [], [], [], true⟩
  | .ldf t a _ _ => ⟨[a], [], [t], [], [], false⟩
  | .ldfe t a _ _ => ⟨[a], [], [t], [], [], false⟩
  | .stf t a _ _ => ⟨[t, a], [], [], [], [], false⟩
  | .stef t a _ _ => ⟨[t, a], [], [], [], [], false⟩
  | .tagrd t a _ _ => ⟨[a], [], [t], [], [], false⟩
  | .tagset _ a _ _ => ⟨[a], [], [], [], [], false⟩
  | .aadd t a _ b _ ret _ _ => ⟨[a, b], [], (if ret then [t] else []), [], [], false⟩
  | .aand t a _ b _ ret _ _ => ⟨[a, b], [], (if ret then [t] else []), [], [], false⟩
  | .aor t a _ b _ ret _ _ => ⟨[a, b], [], (if ret then [t] else []), [], [], false⟩
  | .axor t a _ b _ ret _ _ => ⟨[a, b], [], (if ret then [t] else []), [], [], false⟩
  | .amin t a _ b _ ret _ _ => ⟨[a, b], [], (if ret then [t] else []), [], [], false⟩
  | .amax t a _ b _ ret _ _ => ⟨[a, b], [], (if ret then [t] else []), [], [], false⟩
  | .aminn t a _ b _ ret _ _ => ⟨[a, b], [], (if ret then [t] else []), [], [], false⟩
  | .amaxn t a _ b _ ret _ _ => ⟨[a, b], [], (if ret then [t] else []), [], [], false⟩
  | .axch t a _ b _ ret _ _ => ⟨[a, b], [], (if ret then [t] else []), [], [], false⟩
  | .afadd t a _ b _ ret _ _ => ⟨[a, b], [], (if ret then [t] else []), [], [], false⟩
  | .acas t a _ b _ _ _ => ⟨[t, a, b], [], [t], [], [], false⟩
  | .ahx t a _ b ret _ _ => ⟨[t, a, b], [], (if ret then [t] else []), [], [], false⟩
  | .dredfF64 a _ b _ => ⟨[a, b], [], [], [], [], false⟩
  | .dredfF32 a _ b _ => ⟨[a, b], [], [], [], [], false⟩
  | .dcloseF64 a _ _ => ⟨[a], [], [], [], [], false⟩
  | .dcloseF32 a _ _ => ⟨[a], [], [], [], [], false⟩
  | .fence _ _ => .none
  | .fences t _ => ⟨[], [], [t], [], [], false⟩
  | .dcwb a _ _ => ⟨[a], [], [], [], [], false⟩
  | .pf _ _ _ => ⟨[], [], [], [], [], false⟩
  | .putn _ a _ _ => ⟨[a], [], [], [], [], false⟩
  | .xclr d => ⟨[], [], [d], [], [], false⟩
  | .xpres d _ => ⟨[], [], [d], [], [], false⟩
  | .send d a b _ _ n => ⟨(a :: regRange b (n.toNat + 1)), [], [d], [], [], false⟩
  | .recv d a b n => ⟨[a, b], [], (regRange d (n.toNat + 2)), [], [], false⟩
  | .spkret => .none
  | .spawn d a b _ _ => ⟨[a, b], [], [d], [], [], false⟩
  | .reap d _ => ⟨[], [], [d], [], [], false⟩
  | .launch d a b _ => ⟨[a, b], [], [d], [], [], false⟩
  | .exit => .none
  | .migr d a => ⟨[a], [], [d], [], [], false⟩
  | .dtask d => ⟨[], [], [d], [], [], false⟩
  | .slotq d a => ⟨[a], [], [d], [], [], false⟩
  | .nop => .none
  | .halt => .none
  | .wfi => .none
  | .yield => .none
  | .isync => .none
  | .eret => .none
  | .uiret => .none
  | .trap _ => .none
  | .brk _ => .none
  | .mfc d _ => ⟨[], [], [d], [], [], false⟩
  | .mtc a _ => ⟨[a], [], [], [], [], false⟩
  | .segld b a _ => ⟨[a, b], [], [], [], [], false⟩
  | .segrd d _ _ => ⟨[], [], [d], [], [], false⟩
  | .tlbi a _ _ => ⟨[a], [], [], [], [], false⟩
  | .vadd d a b _ mk => ⟨[], (a :: b :: if mk then [d] else []), [], [d], [], true⟩
  | .vsub d a b _ mk => ⟨[], (a :: b :: if mk then [d] else []), [], [d], [], true⟩
  | .vmul d a b _ mk => ⟨[], (a :: b :: if mk then [d] else []), [], [d], [], true⟩
  | .vmulh d a b _ mk => ⟨[], (a :: b :: if mk then [d] else []), [], [d], [], true⟩
  | .vadds d a b _ mk => ⟨[], (a :: b :: if mk then [d] else []), [], [d], [], true⟩
  | .vsubs d a b _ mk => ⟨[], (a :: b :: if mk then [d] else []), [], [d], [], true⟩
  | .vmin d a b _ mk => ⟨[], (a :: b :: if mk then [d] else []), [], [d], [], true⟩
  | .vmax d a b _ mk => ⟨[], (a :: b :: if mk then [d] else []), [], [d], [], true⟩
  | .vand d a b _ mk => ⟨[], (a :: b :: if mk then [d] else []), [], [d], [], true⟩
  | .vor d a b _ mk => ⟨[], (a :: b :: if mk then [d] else []), [], [d], [], true⟩
  | .vxor d a b _ mk => ⟨[], (a :: b :: if mk then [d] else []), [], [d], [], true⟩
  | .vshl d a b _ mk => ⟨[], (a :: b :: if mk then [d] else []), [], [d], [], true⟩
  | .vshr d a b _ mk => ⟨[], (a :: b :: if mk then [d] else []), [], [d], [], true⟩
  | .vsra d a b _ mk => ⟨[], (a :: b :: if mk then [d] else []), [], [d], [], true⟩
  | .vabs d a _ mk => ⟨[], (a :: if mk then [d] else []), [], [d], [], true⟩
  | .vfadd d a b _ mk => ⟨[], (a :: b :: if mk then [d] else []), [], [d], [], true⟩
  | .vfsub d a b _ mk => ⟨[], (a :: b :: if mk then [d] else []), [], [d], [], true⟩
  | .vfmul d a b _ mk => ⟨[], (a :: b :: if mk then [d] else []), [], [d], [], true⟩
  | .vfmin d a b _ mk => ⟨[], (a :: b :: if mk then [d] else []), [], [d], [], true⟩
  | .vfmax d a b _ mk => ⟨[], (a :: b :: if mk then [d] else []), [], [d], [], true⟩
  | .vfabs d a _ mk => ⟨[], (a :: if mk then [d] else []), [], [d], [], true⟩
  | .vfneg d a _ mk => ⟨[], (a :: if mk then [d] else []), [], [d], [], true⟩
  | .vfma d a b _ _ => ⟨[], [a, b, d], [], [d], [], true⟩
  | .vfms d a b _ _ => ⟨[], [a, b, d], [], [d], [], true⟩
  | .vfnma d a b _ _ => ⟨[], [a, b, d], [], [d], [], true⟩
  | .vbcast d b _ mk => ⟨[b], (if mk then [d] else []), [], [d], [], true⟩
  | .vins d _ b _ => ⟨[b], [d], [], [d], [], true⟩
  | .vext v _ b _ => ⟨[], [v], [b], [], [], true⟩
  | .vaddx d a b _ mk => ⟨[b], (a :: if mk then [d] else []), [], [d], [], true⟩
  | .vfmulx d a b _ mk => ⟨[b], (a :: if mk then [d] else []), [], [d], [], true⟩
  | .vcmp _ a b _ _ _ => ⟨[], [a, b], [], [], [], true⟩
  | .vsel d a b _ => ⟨[], [a, b], [], [d], [], true⟩
  | .mand _ _ _ => ⟨[], [], [], [], [], true⟩
  | .mor _ _ _ => ⟨[], [], [], [], [], true⟩
  | .mnot _ _ => ⟨[], [], [], [], [], true⟩
  | .mpopc x _ _ _ => ⟨[], [], [x], [], [], true⟩
  | .vcvt d a _ _ src _ dst mk => ⟨[], (a :: if mk || decide (dst.bits < src.bits) then [d] else []), [], [d], [], true⟩
  | .vcvts d a _ src _ dst mk => ⟨[], (a :: if mk || decide (dst.bits < src.bits) then [d] else []), [], [d], [], true⟩
  | .vexp2 d a _ mk => ⟨[], (a :: if mk then [d] else []), [], [d], [], true⟩
  | .vlog2 d a _ mk => ⟨[], (a :: if mk then [d] else []), [], [d], [], true⟩
  | .vrcp d a _ mk => ⟨[], (a :: if mk then [d] else []), [], [d], [], true⟩
  | .vrsq d a _ mk => ⟨[], (a :: if mk then [d] else []), [], [d], [], true⟩
  | .vsqrt d a _ mk => ⟨[], (a :: if mk then [d] else []), [], [d], [], true⟩
  | .vtanh d a _ mk => ⟨[], (a :: if mk then [d] else []), [], [d], [], true⟩
  | .vsigm d a _ mk => ⟨[], (a :: if mk then [d] else []), [], [d], [], true⟩
  | .vradd d a _ _ => ⟨[], [a], [], [d], [], true⟩
  | .vrmax d a _ _ => ⟨[], [a], [], [d], [], true⟩
  | .vrmin d a _ _ => ⟨[], [a], [], [d], [], true⟩
  | .vrmaxi d a _ _ => ⟨[], [a], [], [d], [], true⟩
  | .vscan d a _ _ => ⟨[], [a], [], [d], [], true⟩
  | .vperm d a b _ mk => ⟨[], (a :: b :: if mk then [d] else []), [], [d], [], true⟩
  | .vslide d a _ _ mk => ⟨[], (a :: if mk then [d] else []), [], [d], [], true⟩
  | .vslideUp d a _ _ mk => ⟨[], (a :: if mk then [d] else []), [], [d], [], true⟩
  | .vrot d a _ _ mk => ⟨[], (a :: if mk then [d] else []), [], [d], [], true⟩
  | .vdot4 d a b _ _ => ⟨[], [a, b, d], [], [d], [], true⟩
  | .vdotf8 d a b _ _ => ⟨[], [a, b, d], [], [d], [], true⟩
  | .vsortk d a b _ _ => ⟨[], [a, b], [], [d], [], true⟩
  | .vmergek d a b _ => ⟨[], [a, b], [], [d], [], true⟩
  | .vrnd d a mk => ⟨[], (a :: if mk then [d] else []), [], [d], [], true⟩
  | .dstkp d a b => ⟨[a, b], [], [d], [], [], false⟩
  | .dstka d a b => ⟨[a, b], [], [d], [], [], false⟩
  | .dstkc b => ⟨[b], [], [], [], [], false⟩
  | .kfmt _ _ _ _ _ => ⟨[], [], [], [], [], true⟩
  | .kmma t a b _ _ _ => ⟨[a, a + 1, b, b + 1], [], [], [], [t], true⟩
  | .kmmas t a b _ _ _ => ⟨[a, a + 1, b, b + 1], [], [], [], [t], true⟩
  | .kmmv t b _ _ _ => ⟨[b, b + 1], allV, [], [], [t], true⟩
  | .kzero t => ⟨[], [], [], [], [t], true⟩
  | .klda t a _ => ⟨[a, a + 1], [], [], [], [t], true⟩
  | .ksta t a => ⟨[a, a + 1], [], [], [], [t], true⟩
  | .kcvt t a _ => ⟨[a, a + 1], [], [], [], [t], true⟩
  | .ksync => ⟨[], [], [], [], [], true⟩
  | .kscaleA a b => ⟨[a, b], [], [], [], [], true⟩
  | .kscaleB a b => ⟨[a, b], [], [], [], [], true⟩
  | .ctxsv _ _ => ⟨[], [], [], [], [], true⟩
  | .ctxld a _ => ⟨[a], [], [], [], [], true⟩
  | .accspill => ⟨[], [], [], [], [], true⟩
  | .accfill => ⟨[], [], [], [], [], true⟩
  | .cpyw a b _ => ⟨[a, b], [], [], [], [], false⟩
  | .cpyq d => ⟨[], [], [d], [], [], false⟩
  | .cpyx d => ⟨[], [], [d], [], [], false⟩
  | .cpy d _ _ => ⟨[], [], [d], [], [], false⟩
  | .cpyt d _ _ => ⟨[], [], [d], [], [], false⟩
  | .cpyk d _ _ => ⟨[], [], [d], [], [], false⟩
  | .cpys d _ _ => ⟨[], [], [d], [], [], false⟩
  | .mwinCount d => ⟨[], [], [d], [], [], false⟩
  | .mwin d a => ⟨[a], [], [d], [], [], false⟩
  | .mtick d => ⟨[], [], [d], [], [], false⟩
  | .mack a => ⟨[a], [], [], [], [], false⟩
  | .frameIssue _ => .none
  | .sequencerRelease _ => .none
  | .burneComplete _ => .none
  | .burnHandlerEntry _ => .none
  | .handlerOverrun _ => .none
  | .atomicPerform _ => .none
  | .reductionContribution _ => .none
  | .reductionAdmit _ _ => .none
  | .reductionClose _ => .none
  | .putnDelivery _ => .none
  | .messageDelivery _ => .none
  | .sparkHandlerStart _ => .none
  | .illegalWord _ => .none
  | .deferredTrap _ => .none
  | .tlbiAck _ => .none
  | .partWrite _ _ => .none
  | .userInterruptEntry _ => .none
  | .tagwait _ => .none
  | .slotWake _ => .none
  | .loadFill _ _ => .none
  | .vectorLoadFill _ _ => .none
  | .storeBufferDrain _ => .none
  | .l2Eviction _ _ => .none
  | .homeMerge _ _ => .none
  | .emberArrival _ _ _ _ => .none
  | .emberHandoff _ => .none
  | .emberack _ _ => .none
  | .haltRequest _ => .none
  | .resumeRequest _ => .none
  | .sparkDelivery _ => .none
  | .launchAccept _ _ => .none
  | .overflowMove _ => .none
  | .priorityAging _ => .none
  | .placement _ => .none
  | .preempt _ _ => .none
  | .groupComplete _ _ => .none
  | .checkedRerun _ _ => .none
  | .l2WritebackFail _ _ => .none
  | .pageWalk _ _ _ _ => .none
  | .pageFaultWake _ _ _ => .none
  | .kilnGrant _ => .none
  | .kilnRetire _ => .none
  | .commandAccept _ => .none
  | .cpykKilnIssue _ _ => .none
  | .copyComplete _ _ => .none
  | .copyFaultResume _ _ _ => .none
  | .nvmeReadComplete _ _ _ => .none
  | .storageControllerReset => .none
  | .keySlotInstall _ _ _ => .none
  | .tick _ => .none
  | .slippedTickLaunch _ => .none
  | .recordPresent _ => .none
  | .recordExpire _ => .none
  | .dtadjStep _ => .none
  | .timeReferenceInput _ => .none
  | .flitReceive _ _ => .none
  | .lack _ _ _ => .none
  | .linkDown _ => .none
  | .pause _ _ => .none
  | .keyx _ _ => .none
  | .rekeyStart _ => .none
  | .keyout _ => .none
  | .keyoutTimeout _ => .none
  | .writeArrival _ _ => .none
  | .releaseArrival _ _ => .none
  | .flagack _ => .none
  | .shortfallTimeout _ _ => .none
  | .shortfall _ _ => .none
  | .giveup _ _ => .none
  | .notable _ _ => .none
  | .notableRetry _ _ => .none
  | .streamEntryFree _ _ => .none
  | .probe _ _ => .none
  | .probeack _ _ => .none
  | .deadlinkTimeout _ => .none
  | .frozen _ => .none
  | .fzctlRetry _ _ => .none
  | .fzctlRefuse _ _ => .none
  | .resume _ _ => .none
  | .remoteRead _ _ => .none
  | .ahloadLoad _ => .none
  | .ahloadUnload _ => .none
  | .ringTailWrite _ _ => .none
  | .ringRecord _ => .none
  | .ringResume _ => .none
  | .ringEnable _ _ => .none
  | .hostWrite _ _ => .none
  | .hostRead _ _ => .none
  | .registerWrite _ _ _ => .none
  | .islceilWrite _ _ => .none
  | .islandPowerSample _ _ => .none
  | .scrub _ _ => .none
  | .packageFailover _ _ => .none
  | .deviceReset => .none
  | .boot _ => .none
  | .attestationRequest _ => .none
  | .coreReset _ => .none
  | .powerGate _ _ => .none

/-- Vector registers of a slot under its core's partition (R32, R33): general slots only. -/
def State.vcount (s : State) (slot : Nat) : Nat :=
  if 1 ≤ slotNo slot ∧ slotNo slot ≤ 13 then
    match getField (s.core (coreOf slot)).part 0 2 with
    | 0 => 0
    | 1 => 8
    | 2 => 16
    | _ => 32
  else 0

/-- Tiles of a core under its partition (R32). -/
def State.tcount (s : State) (core : Nat) : Nat := getField (s.core core).part 2 5

/-- The word is legal in the slot: no register beyond the partition, and no vector, mask, kiln, repeat or context instruction
in an ember (R48, R24, R28, R30). -/
def State.legalIn (s : State) (slot : Nat) (i : Instr) : Bool :=
  wellFormed i && !((s.slot slot).ember && (uses i).heavy) &&
  ((uses i).vs ++ (uses i).vd).all (fun v => decide (v.toNat < s.vcount slot)) &&
  (uses i).ts.all (fun t => decide (t.toNat < s.tcount (coreOf slot)))

/-- The first x register that the instruction reads and that is empty, or the first vector register that is not present (R21, R221). The
latency of an x result parks nothing (R61). -/
def Slot.missing (p : Slot) (now : Nat) (i : Instr) : Option ParkReason :=
  match (uses i).xs.find? (fun r => !p.fullX r) with
  | some r => some (.reg r.toNat)
  | none =>
    match (uses i).vs.find? (fun v => !p.presentAt now v) with
    | some v => some (.vreg v.toNat)
    | none => none

/-- The register the issuing slot lacks in the present cycle of its core. -/
def State.missing (s : State) (i : Instr) : Option ParkReason := s.me.missing (s.cycleOf (coreOf s.cur)) i

/-- The latency of an x register that the instruction reads still runs: it does not issue in this cycle (R17, R61). -/
def Slot.settling (p : Slot) (now : Nat) (i : Instr) : Bool := (uses i).xs.any (fun r => !p.ran now r.toNat)

/-- A register the instruction writes has a fill outstanding (R27, R28). -/
def Slot.awaited (p : Slot) (i : Instr) : Bool :=
  (uses i).xd.any (fun r => p.fillX r.toNat) || (uses i).vd.any (fun v => p.fillV v.toNat)

/-- The issuing slot waits with the instruction, without a park: for a latency, or for a fill. -/
def State.holds (s : State) (i : Instr) : Bool := s.me.settling (s.cycleOf (coreOf s.cur)) i || s.me.awaited i

/-- A frame of the slot replays or is suspended; a frozen one does not replay (R85, R87). -/
def Core.replays (c : Core) (slot : Nat) : Bool :=
  match c.frameOf slot with
  | some f => !f.frozen
  | none => false

/-- A vector, mask, kiln, repeat or context instruction of the rotation waits while a frame of its slot replays (R85). -/
def State.frameBusy (s : State) (i : Instr) : Bool := !s.inFrame && (uses i).heavy && s.myCore.replays s.cur

/-- The instruction can take effect in the slot that issues: legal, no frame in its way, its sources full or present, no fill
outstanding into its destinations (R17). -/
def State.ready (s : State) (i : Instr) : Bool :=
  s.legalIn s.cur i && !s.frameBusy i && (s.missing i).isNone && !s.holds i

/-- A window register: its window, and whether it is GWL. -/
def windowReg (crn : Nat) : Option (Nat × Bool) :=
  if 0x900 ≤ crn ∧ crn ≤ 0x97F then some ((crn - 0x900) / 2, crn % 2 == 1) else none

/-- What user privilege may do with a register (R37). -/
inductive UserAccess where
  | no
  | read
  | write
  deriving DecidableEq, Repr

/-- User access of the registers of the map; none for a number absent from it. -/
def userAccess (crn : Nat) : Option UserAccess :=
  if crn = 0x000 ∨ crn = 0x040 ∨ crn = 0x042 ∨ crn = 0x050 ∨ (0x070 ≤ crn ∧ crn ≤ 0x073) ∨ crn = 0x080 ∨ crn = 0x081 ∨ crn = 0x090 ∨
    crn = 0x0A0 then some .write
  else if (0x001 ≤ crn ∧ crn ≤ 0x004) ∨ crn = 0x010 ∨ (0x030 ≤ crn ∧ crn ≤ 0x035) ∨ crn = 0x041 ∨ crn = 0x060 ∨ crn = 0x813 then some .read
  else if (0x020 ≤ crn ∧ crn ≤ 0x025) ∨ crn = 0x061 ∨ (0x800 ≤ crn ∧ crn ≤ 0x802) ∨ (0x810 ≤ crn ∧ crn ≤ 0x812) ∨
    (0x820 ≤ crn ∧ crn ≤ 0x824) ∨ crn = 0x830 ∨ crn = 0x831 ∨ crn = 0x833 ∨ (windowReg crn).isSome then some .no
  else none

/-- Scopes by width (R160). -/
def scopeRank : Scope → Nat
  | .core => 0
  | .clamp => 1
  | .hearth => 2
  | .pkg => 3
  | .sys => 4

/-- ILL of an instruction that stands in a burn, or in an ember, whatever its operands hold (R24, R130 and the descriptions). -/
def Slot.illHere (p : Slot) : Instr → Bool
  | .aadd _ _ _ _ _ ret _ _ | .aand _ _ _ _ _ ret _ _ | .aor _ _ _ _ _ ret _ _ | .axor _ _ _ _ _ ret _ _
  | .amin _ _ _ _ _ ret _ _ | .amax _ _ _ _ _ ret _ _ | .aminn _ _ _ _ _ ret _ _ | .amaxn _ _ _ _ _ ret _ _
  | .axch _ _ _ _ _ ret _ _ | .afadd _ _ _ _ _ ret _ _ | .ahx _ _ _ _ ret _ _ => p.burning && ret
  | .acas _ _ _ _ _ _ _ | .ldfe _ _ _ _ | .stef _ _ _ _ | .dcloseF64 _ _ _ | .dcloseF32 _ _ _ | .fence _ _ | .fences _ _
  | .dcwb _ _ _ | .ctxsv _ _ | .accspill | .accfill | .ctxld _ _ | .tlbi _ _ _ | .launch _ _ _ _ | .exit => p.burning
  | .st _ _ _ _ rel _ | .stv _ _ _ _ rel _ => p.burning && rel
  | .stf _ _ _ sc | .tagset _ _ _ sc => p.burning && decide (scopeRank .hearth < scopeRank sc)
  | .cpyw _ _ _ | .cpyq _ | .send _ _ _ _ _ _ | .recv _ _ _ _ | .dstkp _ _ _ | .dstka _ _ _ | .dstkc _ | .dtask _ => p.ember
  | .cpyx _ | .cpy _ _ _ | .cpyt _ _ _ | .cpyk _ _ _ | .cpys _ _ _ => p.ember || p.burning
  | .migr _ _ => p.burning || !p.ember
  | _ => false

/-- PRIV of an instruction, whatever its operands hold (R18, R37, R123, R152 and the descriptions). -/
def State.privHere (s : State) : Instr → Bool
  | .send _ _ _ phys _ _ => phys && !s.me.priv
  | .mfc _ crn | .mtc _ crn => userAccess crn.toNat == some .no && !s.me.priv
  | .slotq _ _ | .tlbi _ _ _ => !s.me.priv
  | .spawn _ _ _ _ _ | .reap _ _ | .ctxld _ _ | .ctxsv _ _ => slotNo s.cur != 0
  | _ => false

/-- The faults that come before the wait for operands (R49, R109, R152): an instruction that would wait takes them instead. -/
def State.waits (s : State) (i : Instr) (wait : State) : State :=
  if s.me.illHere i then s.ill i else if s.privHere i then s.privFault i else wait

/-- The checks of every instruction, in order (R49, R17): ILL, then the wait for the slot's own frame, then a park on an empty
source, then the wait for a source's latency or a destination's fill; an ILL or a PRIV that no operand decides comes before these waits. In a frame the sequencer waits instead of parking (R85). -/
def gate (i : Instr) (s : State) (body : State → State) : State :=
  if !s.legalIn s.cur i then s.ill i
  else if s.frameBusy i then s.waits i s
  else match s.missing i with
    | some r => s.waits i (if s.inFrame then s else s.parkOn r)
    | none => if s.holds i then s.waits i s else body s

theorem gate_ready (i : Instr) (s : State) (body : State → State) (h : s.ready i = true) : gate i s body = body s := by
  simp only [State.ready, Bool.and_eq_true, Bool.not_eq_true'] at h
  obtain ⟨⟨⟨h1, h4⟩, h2⟩, h3⟩ := h
  cases hm : s.missing i with
  | some r => simp [hm] at h2
  | none => simp [gate, h1, h4, hm, h3]

end Sys2Proof.Machine
end

