-- ==== Sys2Proof/Machine/Operands.lean ====
section
/-! DEFINITION. EVERY OPERAND FORM: segments and their checks (09_memory R128, 18_translation R278), the page table and the clamp
port (R281 to R289), page faults (R287), the store buffer with forwarding (R133), loads and stores over the places they reach. -/
namespace Sys2Proof.Machine

/-! ## Segment checks (R128) -/

/-- An access: segment register, offset, size, alignment, rights needed (R31), kind of translation (0 load, 1 write, 2 fetch, 3
load and write), whether it is a tagged-word access, and whether it may move an ember (R25). -/
structure Access where
  seg : Nat
  o : Word
  size : Nat
  align : Nat
  need : BitVec 8
  kind : Nat
  tagged : Bool
  moves : Bool
  deriving DecidableEq, Repr

/-- Code of an access size (R108). -/
def sizeCode (n : Nat) : Nat :=
  if n = 1 then 0 else if n = 2 then 1 else if n = 4 then 2 else if n = 8 then 3 else if n = 32 then 4 else 5

/-- EINFO of an access cause (R108): SIZE, WR, FETCH, SG, RIGHTS. -/
def Access.einfo (a : Access) : Word :=
  BitVec.ofNat 64 (a.seg * 2 ^ 16 + (if a.kind = 2 then 2 ^ 19 else 0) +
    (if a.kind = 1 ∨ a.kind = 3 then 2 ^ 20 else 0) + sizeCode a.size * 2 ^ 21 + a.need.toNat * 2 ^ 24)

def Slot.seg (p : Slot) (g : Nat) : Seg := p.sg[g % 8]'(Nat.mod_lt _ (by decide))

/-- Rights of R31. -/
def segGlobal (g : Seg) : Bool := g.rights.getLsbD 7
def segLeaves (g : Seg) : Bool := g.rights.getLsbD 5
def segEmpty (g : Seg) : Bool := g == Seg.empty

/-- Alignment, limit and rights, in this order (R128). -/
def segCheck (g : Seg) (a : Access) : Option Nat :=
  if a.o.toNat % a.align ≠ 0 then some Cause.align
  else if segEmpty g || decide (g.limit.toNat < a.o.toNat + a.size - 1) then some Cause.seglim
  else if g.rights &&& a.need ≠ a.need then some Cause.segrights
  else none

/-! ## The page table (R281 to R285, R289) -/

/-- What a translation gives: the local physical address and the HOME clamp, a page fault with its reason, or the cause that refuses the
access: SEGRIGHTS for an untagged leaf met by a tagged-word access, ECCUNC for an entry that cannot be read (R355). -/
inductive Trans where
  | ok (pa : Nat) (home : Option Nat)
  | page (reason : Nat)
  | refused (cause : Nat)
  deriving DecidableEq, Repr

/-- Physical address of offset `v` of a leaf (R282, R283); none beyond the extent. -/
def leafAddr (w0 w1 v : Nat) : Option Nat :=
  let pa := fld w0 13 38 * 2 ^ 13
  if fld w0 1 2 = 1 then some (pa + v)
  else
    let pitch := 128 * fld w1 20 12
    let row := v / pitch
    let col := v % pitch
    if fld w1 32 32 ≤ row then none
    else
      let tw := 128 * 2 ^ fld w1 18 2
      let tr := 32 / 2 ^ fld w1 18 2
      some (pa + 4096 * (row / tr * (pitch / tw) + col / tw) + tw * (row % tr) + col % tw)

/-- Last local address a leaf reaches, relative to its base, plus one. -/
def leafReach (w0 w1 span : Nat) : Nat :=
  if fld w0 1 2 = 1 then span
  else
    let tr := 32 / 2 ^ fld w1 18 2
    let tw := 128 * 2 ^ fld w1 18 2
    4096 * ((fld w1 32 32 + tr - 1) / tr * (128 * fld w1 20 12 / tw))

/-- A range of local addresses lies in one populated range (R279). -/
def inPopulated (a n : Nat) : Bool :=
  decide (a + n ≤ 0xC000000000) || (decide (2 ^ 48 ≤ a) && decide (a + n ≤ 2 ^ 49)) ||
  (isPool a && decide (a + n ≤ poolBase + 2 ^ 30))

/-- A malformed leaf (R285): reserved bits, alignment, level, tile fields, unpopulated memory. -/
def leafBad (w0 w1 level span : Nat) : Bool :=
  let pa := fld w0 13 38 * 2 ^ 13
  decide (level = 0) || decide (fld w0 1 2 = 2 ∧ level = 3) ||
  (if fld w0 1 2 = 1 then decide (w1 ≠ 0) || decide (pa % span ≠ 0)
   else decide (fld w1 18 2 = 3) || decide (fld w1 20 12 = 0) || decide (fld w1 20 12 % 2 ^ fld w1 18 2 ≠ 0)) ||
  !inPopulated pa (leafReach w0 w1 span)

/-- A leaf as the walk finds it, or the reason of a fault. -/
inductive Walked where
  | leaf (w0 w1 entry va span : Nat)
  | fault (reason : Nat)
  /-- an entry lies in a unit with an uncorrectable error (R355) -/
  | bad
  deriving DecidableEq, Repr

/-- Index bits of a level (R281): position and width. -/
def levelShift (level : Nat) : Nat := if level = 0 then 43 else if level = 1 then 34 else if level = 2 then 25 else 16
def levelBits (level : Nat) : Nat := if level = 0 then 14 else 9

/-- Keeps a leaf or a table entry in the caches of a clamp's port (R292). -/
def State.addTlb (s : State) (clamp : Nat) (e : TlbEntry) : State :=
  s.updClamp clamp (fun c => if c.tlb.contains e then c
    else { c with tlb := e :: c.tlb.filter (fun x => !(x.root == e.root && x.va == e.va && x.span == e.span)) })

/-- A cached entry is a table entry: its TYPE is 0. -/
def TlbEntry.isTable (e : TlbEntry) : Bool := fld e.w0 1 2 == 0

/-- The table entry for an address at a level that the port has cached: it stays in use until a TLBI (R292). -/
def State.cachedTable (s : State) (clamp : Nat) (root : Word) (a level : Nat) : Option TlbEntry :=
  (s.clamp clamp).tlb.find? (fun e => e.isTable && e.root == root && e.va == a / 2 ^ levelShift level * 2 ^ levelShift level &&
    e.span == 2 ^ levelShift level)

/-- Walks the levels in order from a table base, each entry from the port's cache or at its home after the merge of R139. -/
def walkFrom (s : State) (clamp : Nat) (root : Word) (a : Nat) : List Nat → Nat → State × Walked
  | [], _ => (s, .fault 4)
  | level :: rest, base => match s.cachedTable clamp root a level with
    | some e => walkFrom s clamp root a rest (fld e.w0 13 38 * 2 ^ 13)
    | none =>
    if 0xC000000000 < base + 16 * 2 ^ levelBits level then (s, .fault 4)
    else
      let e := base + 16 * fld a (levelShift level) (levelBits level)
      let span := 2 ^ levelShift level
      let s := (s.mergeWord e).mergeWord (e + 8)
      let w0 := s.homeNat e 8
      let w1 := s.homeNat (e + 8) 8
      if s.badAt e 16 then (s, .bad)
      else if fld w0 0 1 = 0 then (s, .fault 1)
      else if fld w0 59 5 ≠ 0 ∨ fld w0 10 3 ≠ 0 ∨ fld w0 1 2 = 3 then (s, .fault 4)
      else if fld w0 1 2 = 0 then
        if fld w0 3 7 ≠ 0 ∨ w1 ≠ 0 ∨ fld w0 51 8 ≠ 0 then (s, .fault 4)
        else walkFrom (s.addTlb clamp ⟨root, a / span * span, span, w0, w1, e⟩) clamp root a rest (fld w0 13 38 * 2 ^ 13)
      else
        if leafBad w0 w1 level span then (s, .fault 4)
        else (s, .leaf w0 w1 e (a / span * span) span)

/-- The walk from a root (R284, R285). -/
def State.walk (s : State) (clamp : Nat) (root : Word) (a : Nat) : State × Walked :=
  if !bitW root 0 then (s, .fault 1) else walkFrom s clamp root a [0, 1, 2, 3] (getField root 18 33 * 2 ^ 18)

/-- Rights of a leaf against a translation (R285): reason 2 when one is missing. -/
def leafDenies (w0 : Nat) (user : Bool) (kind : Nat) : Bool :=
  (user && fld w0 7 1 == 0) || ((kind == 0 || kind == 3) && fld w0 3 1 == 0) ||
  ((kind == 1 || kind == 3) && fld w0 4 1 == 0) || (kind == 2 && fld w0 5 1 == 0)

/-- A leaf used: A is set, and D for a write (R289). -/
def leafUsed (w0 kind : Nat) : Nat :=
  let w := if fld w0 8 1 = 0 then w0 + 2 ^ 8 else w0
  if (kind = 1 ∨ kind = 3) ∧ fld w 9 1 = 0 then w + 2 ^ 9 else w

/-- HOME of a leaf as hearth × 16 + clamp (R282). -/
def leafHome (w0 : Nat) : Option Nat :=
  if fld w0 58 1 = 1 then some (fld w0 55 3 * 16 + fld w0 51 4) else none

/-- Uses a leaf: rights, tags, A and D, then the address (R285). -/
def State.useLeaf (s : State) (clamp : Nat) (root : Word) (a : Nat) (user : Bool) (kind : Nat) (tagged : Bool)
    (w0 w1 entry va span : Nat) : State × Trans :=
  if leafDenies w0 user kind then (s, .page 2)
  else if tagged && fld w0 6 1 == 0 then (s, .refused Cause.segrights)
  else
    let w := leafUsed w0 kind
    let s := if w = w0 then s else s.writeHomeNat entry 8 w
    match leafAddr w w1 (a - va) with
    | none => (s, .page 3)
    | some pa => (s.addTlb clamp ⟨root, va, span, w, w1, entry⟩, .ok pa (leafHome w))

/-- Translates afresh through the page table. -/
def State.translateWalk (s : State) (clamp : Nat) (root : Word) (a : Nat) (user : Bool) (kind : Nat) (tagged : Bool) :
    State × Trans :=
  match s.walk clamp root a with
  | (s, .fault r) => (s, .page r)
  | (s, .bad) => (s, .refused Cause.eccunc)
  | (s, .leaf w0 w1 entry va span) => s.useLeaf clamp root a user kind tagged w0 w1 entry va span

/-- Translates at a clamp port (R285, R292): a cached leaf stays in use until a TLBI; an update of its A or D bits compares the entry
at home with the cached one, and walks again when they differ (R289). A port out of service translates nothing (R293); what asks it,
a command of one of its stopped slots, meets the error of its caches (log 24). -/
def State.translate (s : State) (clamp : Nat) (root : Word) (a : Nat) (user : Bool) (kind : Nat) (tagged : Bool) :
    State × Trans :=
  if (s.clamp clamp).out then (s, .refused Cause.eccunc)
  else match (s.clamp clamp).tlb.find? (fun e => !e.isTable && e.root == root && decide (e.va ≤ a) && decide (a < e.va + e.span)) with
  | none => s.translateWalk clamp root a user kind tagged
  | some e =>
    if leafDenies e.w0 user kind || (tagged && fld e.w0 6 1 == 0) || leafUsed e.w0 kind == e.w0 then
      s.useLeaf clamp root a user kind tagged e.w0 e.w1 e.entry e.va e.span
    else
      let s := (s.mergeWord e.entry).mergeWord (e.entry + 8)
      if s.badAt e.entry 16 then (s, .refused Cause.eccunc)
      else if s.homeNat e.entry 8 = e.w0 ∧ s.homeNat (e.entry + 8) 8 = e.w1 then
        s.useLeaf clamp root a user kind tagged e.w0 e.w1 e.entry e.va e.span
      else s.translateWalk clamp root a user kind tagged

/-! ## Where an access lands (R278) -/

/-- A run of bytes an access reaches, with the segment address of a translated run and the home clamp of R25 (package, clamp). -/
structure Piece where
  loc : Loc
  len : Nat
  va : Option Nat
  home : Option (Nat × Nat)
  deriving DecidableEq, Repr

inductive Resolved where
  | ok (ps : List Piece)
  | fault (cause : Nat)
  | page (reason va : Nat)
  deriving DecidableEq, Repr

def locAdd : Loc → Nat → Loc
  | .here a, n => .here (a + n)
  | .there p a, n => .there p (a + n)

/-- Global address of a place (R366). -/
def State.globalOf (s : State) : Loc → Word
  | .here a => s.global a
  | .there p a => BitVec.ofNat 64 (p * 2 ^ 51 + a)

/-- Runs of `size` bytes from segment address `a`, cut where a multiple of 128 is crossed: no leaf, tile or pool boundary lies
inside a run (R283). -/
def cutRuns : Nat → Nat → Nat → List (Nat × Nat)
  | 0, a, size => [(a, size)]
  | k + 1, a, size =>
    let n := 128 - a % 128
    if size ≤ n then [(a, size)] else (a, n) :: cutRuns k (a + n) (size - n)

def cut (a size : Nat) : List (Nat × Nat) := cutRuns (size / 128 + 1) a size

/-- Runs of an access that are translated: a tagged word is the one that its address translates to, whatever lies behind (R124). -/
def Access.runs (acc : Access) (a : Nat) : List (Nat × Nat) := if acc.tagged && acc.align == 8 then [(a, acc.size)] else cut a acc.size

/-- Translates the runs of an access in order from a root; the first that fails decides. -/
def State.resolveRuns (s : State) (slot : Nat) (root : Word) (user : Bool) (acc : Access) : List (Nat × Nat) → State × Resolved
  | [] => (s, .ok [])
  | (a, n) :: rest =>
    match s.translate (clampOf slot) root a user acc.kind acc.tagged with
    | (s, .page r) => (s, .page r a)
    | (s, .refused c) => (s, .fault c)
    | (s, .ok pa h) =>
      if isPool pa && !s.poolOk pa then (s, .fault Cause.segrights)
      else if acc.tagged && !carriesTag pa then (s, .fault Cause.segrights)
      else match s.resolveRuns slot root user acc rest with
        | (s, .ok ps) => (s, .ok (⟨.here pa, n, some a, h.map (fun c => (s.pkg.number, c))⟩ :: ps))
        | r => r

/-- Checks and resolves an access through a segment, for a slot or a unit of its core at a privilege and under a root (R128, R278). -/
def State.resolveAs (s : State) (slot : Nat) (root : Word) (user : Bool) (g : Seg) (acc : Access) : State × Resolved :=
  match segCheck g acc with
  | some c => (s, .fault c)
  | none =>
    if segGlobal g then
      let l := globalLocal g.base + acc.o.toNat
      if 2 ^ 51 ≤ l then (s, .fault Cause.seglim)
      else if globalPkg g.base = s.pkg.number then
        if !s.populated l || !s.populated (l + acc.size - 1) || (acc.tagged && !carriesTag l) then (s, .fault Cause.segrights)
        else (s, .ok [⟨.here l, acc.size, none,
          if isPool l then some (s.pkg.number, poolCore l / 16) else none⟩])
      else if !segLeaves g then (s, .fault Cause.segrights)
      else (s, .ok [⟨.there (globalPkg g.base) l, acc.size, none,
        (Config.remoteHome (globalPkg g.base) l).map (fun c => (globalPkg g.base, c))⟩])
    else
      let a := (g.base.toNat + acc.o.toNat) % 2 ^ 57
      if a / 2 ^ 30 = 2 ^ 27 - 1 then
        let l := poolBase + a % 2 ^ 30
        if !s.poolOk l || !s.poolOk (l + acc.size - 1) then (s, .fault Cause.segrights)
        else (s, .ok [⟨.here l, acc.size, none, some (s.pkg.number, poolCore l / 16)⟩])
      else s.resolveRuns slot root user acc (acc.runs a)

/-- Checks and resolves an access of a slot through a segment. -/
def State.resolveSeg (s : State) (slot : Nat) (g : Seg) (acc : Access) : State × Resolved :=
  s.resolveAs slot (s.core (coreOf slot)).ptroot (!(s.slot slot).priv) g acc

/-- Checks and resolves an access of a slot through its own segment register. -/
def State.resolve (s : State) (slot : Nat) (acc : Access) : State × Resolved := s.resolveSeg slot ((s.slot slot).seg acc.seg) acc

/-! ## Page faults (R287) -/

/-- The stoker that serves the slot's page faults: SVCD of its fault domain, or its own core's (R180, R287). -/
def State.service (s : State) (slot : Nat) : Nat × Nat :=
  let dom := (s.slot slot).ctl.fdom
  (s.svcd (if dom = 0 then (s.hearth (hearthOf slot)).sysfdom else dom)).getD (s.pkg.number, coreOf slot)

/-- A page fault: the spark goes to the service and the slot parks on the token (R287). -/
def State.pageFault (s : State) (acc : Access) (reason va : Nat) : State :=
  let p := s.me
  let token := (p.faultCount + 1) % 2 ^ 32
  let s := s.tellStoker (s.service s.cur) (BitVec.ofNat 64 va)
    (BitVec.ofNat 64 ((s.slotid s.cur).toNat + reason * 2 ^ 32 + acc.kind * 2 ^ 36 + (if p.priv then 2 ^ 39 else 0)))
    s.myCore.ptroot (BitVec.ofNat 64 token)
  s.upd (fun p => { p.parkOn s.dtime (.page token acc.o acc.einfo) with faultCount := token })

/-! ## Migration of embers (R25) -/

/-- The clamp the ember moves to for an access, if it moves: the home clamp of the first byte when it is another (R25).
DESIGN CHOICE (log 93): a clamp that is gated since boot is a home clamp like another where HOME names it; its queue takes the ember, which
no core there ever runs. -/
def State.movesTo (s : State) (acc : Access) (ps : List Piece) : Option (Nat × Nat × Loc) :=
  if s.me.ember && !s.me.burning && acc.moves then
    match ps with
    | ⟨l, _, _, some (k, c)⟩ :: _ => if k = s.pkg.number ∧ c = clampOf s.cur then none else some (k, c, l)
    | _ => none
  else none

/-- The checks of an access, then its effect: a fault, a page-fault park, the departure of an ember (which waits until no fill is
outstanding and its store buffer is empty), or `k` (R128, R25). -/
def State.access (s : State) (acc : Access) (k : State → List Piece → State) : State :=
  match s.resolve s.cur acc with
  | (s, .fault c) => s.raise c acc.o acc.einfo
  | (s, .page r va) => s.pageFault acc r va
  | (s, .ok ps) =>
    match s.movesTo acc ps with
    | none => k s ps
    | some (pkg, clamp, l) =>
      if s.me.fills = [] ∧ s.me.sb = [] then
        s.upd (fun p => { p with mode := .leaving, barrier := some (.depart pkg clamp (s.globalOf l) p.pc) })
      else s

/-! ## The store buffer (R133) -/

/-- Bytes of a run that an entry's part covers, as (position, byte). -/
def coverPart (l : Loc) (n : Nat) (w : WritePart) : List (Nat × Byte) :=
  match l, w.loc with
  | .here a, .here b => (List.range n).filterMap (fun i =>
      if b ≤ a + i then (w.bytes[a + i - b]?).map (fun x => (i, x)) else none)
  | .there p a, .there q b => if p = q then (List.range n).filterMap (fun i =>
      if b ≤ a + i then (w.bytes[a + i - b]?).map (fun x => (i, x)) else none) else []
  | _, _ => []

def coverParts (l : Loc) (n : Nat) : List WritePart → List (Nat × Byte)
  | [] => []
  | w :: ws => coverPart l n w ++ coverParts l n ws

/-- Parts of the entries of a store buffer, oldest first. -/
def bufferParts : List SbEntry → List WritePart
  | [] => []
  | e :: es =>
    match e.kind with
    | .write ws => ws ++ bufferParts es
    | _ => bufferParts es

/-- Bytes of a write flit as parts, one a byte (R326). -/
def flitParts (f : WriteFlit) : List WritePart :=
  (List.range 64).filterMap (fun i =>
    if bitOf f.mask i then (f.bytes[i]?).map (fun b => ⟨.there f.dst (f.block + i), [b], none, none⟩) else none)

/-- Writes of the slot still in the send store, oldest first (R327). -/
def State.storeParts (s : State) (slot : Nat) : List WritePart :=
  s.flue.store.flatMap (fun e => if e.slot = slot ∧ e.flit.atomic = none ∧ e.flit.reduce = none then flitParts e.flit else [])

/-- Place and size of what a release does at its location. -/
def bodyAt (d : Nat) : ReleaseBody → Option (Loc × Nat)
  | .none => none
  | .write a bs _ => some (.there d a, max bs.length 1)
  | .atomic r => some (r.loc, r.size)
  | .contribute r | .close r => some (r.loc, r.size)

/-- The own write of a release that has been sent and not acknowledged (R329). -/
def releaseParts (r : OutRelease) : List WritePart :=
  match r.flit.body with
  | .write a bs _ => [⟨.there r.dst a, bs, none, none⟩]
  | _ => []

/-- The slot's own writes that a load of a run sees, oldest first (R133, R158, R327). -/
def State.ownBytes (s : State) (slot : Nat) (l : Loc) (n : Nat) : List (Nat × Byte) :=
  coverParts l n (s.storeParts slot ++ (s.flue.releases.filter (fun r => r.slot == slot)).flatMap releaseParts ++
    bufferParts (s.slot slot).sb)

/-- Puts bytes at positions into a list, later ones last. -/
def putBytes (bs : List Byte) : List (Nat × Byte) → List Byte
  | [] => bs
  | (i, b) :: r => putBytes (bs.set i b) r

/-- The value of a run of this package as the slot's loads see it (R133, R159, R161). -/
def State.loadHere (s : State) (slot a n : Nat) : List Byte :=
  putBytes (s.hearthBytes (hearthOf slot) a n) (s.ownBytes slot (.here a) n)

/-- A byte as the hearth reads it is uncorrectable: in its L2 where that holds it dirty, else at home (R355). -/
def State.hearthBad (s : State) (h a : Nat) : Bool :=
  if (Table.find (s.hearth h).dirty a).isSome then (s.hearth h).bad.contains (a / 8) else s.badAt a 1

/-- Some byte of the run that the load takes from memory is uncorrectable (R355): the slot's own writes, and the dirty bytes of its
hearth, hide the error beneath them. -/
def State.loadBad (s : State) (slot a n : Nat) : Bool :=
  (List.range n).any (fun i => s.hearthBad (hearthOf slot) (a + i) && !(s.ownBytes slot (.here a) n).any (fun e => e.1 == i))

/-- A write of the slot that lies in the send store with an uncorrectable error is the youngest to cover a byte of the run (R355). -/
def State.storeBad (s : State) (slot : Nat) (l : Loc) (n : Nat) : Bool :=
  let young := coverParts l n ((s.flue.releases.filter (fun r => r.slot == slot)).flatMap releaseParts ++ bufferParts (s.slot slot).sb)
  (List.range n).any (fun i => !young.any (fun e => e.1 == i) &&
    (match ((s.flue.store.filter (fun e => decide (e.slot = slot) && writePlain e.flit)).filter (fun e =>
        (coverParts l n (flitParts e.flit)).any (fun x => x.1 == i))).getLast? with
      | some e => e.bad
      | none => false))

/-- Two runs share a byte. -/
def overlaps (l : Loc) (n : Nat) (k : Loc) (m : Nat) : Bool :=
  match l, k with
  | .here a, .here b => decide (a < b + m) && decide (b < a + n)
  | .there p a, .there q b => decide (p = q) && decide (a < b + m) && decide (b < a + n)
  | _, _ => false

/-- An atomic of the slot on the run may not have been performed: a later load of the slot waits for it (R158). One in the send
store has been performed once its answer has come. -/
def SendEntry.pendingOn (e : SendEntry) (p : Slot) (l : Loc) (n : Nat) : Bool :=
  match e.flit.atomic with
  | some r => overlaps l n r.loc r.size && (match r.ret with
    | some id => p.fills.any (fun f => f.waits.any (fun w => w.id == id))
    | none => true)
  | none => false

/-- An atomic of the slot on the run is ahead of a load (R158). DESIGN CHOICE (log 93): one that a burn holds is not: a load inside the burn
returns the word as it is without it. -/
def State.atomicAhead (s : State) (slot : Nat) (l : Loc) (n : Nat) : Bool :=
  (s.slot slot).sb.any (fun e => !e.held && match e.kind with
    | .atomic r => overlaps l n r.loc r.size
    | _ => false) ||
  s.atomics.any (fun r => decide (r.slot = slot) && overlaps l n r.loc r.size) ||
  s.flue.store.any (fun e => decide (e.slot = slot) && e.pendingOn (s.slot slot) l n) ||
  s.flue.releases.any (fun r => decide (r.slot = slot) && match r.flit.body with
    | .atomic a => overlaps l n a.loc a.size
    | _ => false)

/-- Whether some place lies in another package. -/
def locRemote : Loc → Bool
  | .here _ => false
  | .there _ _ => true

/-- Appends an entry to the store buffer of the issuing slot, held when it burns (R93); BURNST.HELD counts it. -/
def State.pushEntry (s : State) (e : SbEntry) : State :=
  s.upd (fun p =>
    let q := { p with sb := p.sb ++ [{ e with held := p.burning }] }
    if p.burning then q.setBurnst 9 6 q.held else q)

/-- An entry for the store buffer, then what follows it. Inside a burn the 33rd takes BURNSTO; outside, a full buffer makes the
instruction wait, and a full send store parks it (R93, R133). -/
def State.enter (s : State) (acc : Access) (remote : Bool) (e : SbEntry) (k : State → State) : State :=
  let p := s.me
  if p.burning then
    if 32 ≤ p.held then s.raise Cause.burnsto acc.o acc.einfo else k (s.pushEntry e)
  else if remote ∧ sendStoreSize ≤ s.storeUsed s.cur then s.parkOn .sendStore
  else if 32 ≤ p.sb.length then s
  else k (s.pushEntry e)

/-- The wider of two scopes, if there is one. -/
def widerScope (a b : Option Scope) : Option Scope :=
  match a, b with
  | none, x => x
  | x, none => x
  | some x, some y => some (if scopeRank x < scopeRank y then y else x)

/-- What a release of the slot sends home before and after its own write (R161). -/
def State.releaseAt (s : State) (slot : Nat) (rel : Option Scope) : State :=
  match rel with
  | some sc => if scopeRank .pkg ≤ scopeRank sc then s.releaseHome slot else s
  | none => s

/-- An entry as an instruction makes it: a release at its own scope, or at that of an earlier fence (R160). -/
def State.entry (s : State) (kind : SbKind) (rel : Option Scope) (seg : Nat) : SbEntry :=
  ⟨kind, widerScope rel s.me.fenceRel, rel.isSome, false, seg, false, s.me.pc.toNat % 2 ^ 32, false⟩

/-- Cuts bytes over the pieces of an access. -/
def splitParts : List Piece → List Byte → Option Bool → List WritePart
  | [], _, _ => []
  | p :: ps, bs, tag => ⟨p.loc, bs.take p.len, tag, p.va⟩ :: splitParts ps (bs.drop p.len) tag

/-- The pieces include another package. -/
def anyRemote (ps : List Piece) : Bool := ps.any (fun p => locRemote p.loc)

/-- A store of `bs` (R132, R134). -/
def State.store (s : State) (acc : Access) (bs : List Byte) (rel : Option Scope) : State :=
  s.access acc (fun s ps =>
    s.enter acc (anyRemote ps) (s.entry (.write (splitParts ps bs none)) rel acc.seg) State.advance)

/-- The runs of a load: bytes at hand, requests to other packages, the slot's own bytes, and whether the data is uncorrectable. -/
structure Gathered where
  buf : List Byte
  waits : List FillWait
  own : List (Nat × Byte)
  bad : Bool
  deriving DecidableEq, Repr

/-- Gathers the pieces of a load from position `pos` on; each piece of another package becomes a READ, which names the slot and the segment
(R317, R332; log 65). -/
def State.gather (s : State) (slot seg : Nat) (tagged : Bool) : List Piece → Nat → State × Gathered
  | [], _ => (s, ⟨[], [], [], false⟩)
  | p :: ps, pos =>
    match p.loc with
    | .here a =>
      let bs := s.loadHere slot a p.len
      let bad := s.loadBad slot a p.len
      let (s, g) := s.gather slot seg tagged ps (pos + p.len)
      (s, ⟨bs ++ g.buf, g.waits, g.own, bad || g.bad⟩)
    | .there pkg a =>
      let id := s.fresh
      let own := (s.ownBytes slot p.loc p.len).map (fun e => (pos + e.1, e.2))
      let bad := s.storeBad slot p.loc p.len
      let s := { s with fresh := s.fresh + 1 }.emit (.read ⟨s.sidOf slot seg, pkg, id, a, p.len, tagged, none⟩)
      let (s, g) := s.gather slot seg tagged ps (pos + p.len)
      (s, ⟨List.replicate p.len 0 ++ g.buf, ⟨id, pos, p.len, s.globalOf p.loc, none⟩ :: g.waits, own ++ g.own, bad || g.bad⟩)

/-- A deferred ECCUNC of a fill (R107). -/
def deferInfo (pc : Nat) (einfo : Word) : Word := (einfo &&& 0xFFFF0000#64) ||| BitVec.ofNat 64 (2 ^ 14 + pc % 2 ^ 32 * 2 ^ 32)

/-- The fill of a load (R27, R28): its register turns empty or absent at issue. -/
def State.startFill (s : State) (acc : Access) (vec : Bool) (reg : Nat) (signed : Bool) (g : Gathered) : State :=
  s.upd (fun p =>
    let f : Fill := ⟨vec, reg, putBytes g.buf g.own, g.waits, g.own, acc.size, signed,
      if g.bad then some ⟨Cause.eccunc, acc.o, deferInfo (p.pc.toNat % 2 ^ 32) acc.einfo⟩ else none,
      p.pc.toNat % 2 ^ 32, acc.o, acc.einfo, false⟩
    let q := { p with fills := p.fills ++ [f] }
    if vec then q.absentV (BitVec.ofNat 5 reg) else q.emptyX (BitVec.ofNat 4 reg))

/-- A contribution on a word and an open reduction of the word: it belongs to a later one (R144). -/
def Reduction.after (o : Reduction) (r : RedReq) : Bool :=
  o.rcba != r.rcba || decide (r.lid < o.next) || o.buffered.any (fun e => e.1 == r.lid)

/-- A contribution held at its grate belongs to a later reduction of its word. It has arrived: it opens that reduction at the close, before
anything that arrives later (R144, log 96). -/
def Grate.later (g : Grate) (r : RedReq) : Bool :=
  g.open_.any (fun o => overlaps r.loc r.size (.here o.addr) o.size && o.after r)

/-- A contribution or a DCLOSE of the slot has not arrived at a reduction: it is on its way, or held for want of room (R144). -/
def State.contributing (s : State) (slot : Nat) : Bool :=
  s.reductions.any (fun r => r.slot == slot) || s.grates.any (fun e => e.2.held.any (fun r => r.slot == slot && !e.2.later r))

/-- An atomic, a contribution or a close of the slot is on its way: its later writes follow it (R158, R159). -/
def State.passing (s : State) (slot : Nat) : Bool := s.atomics.any (fun r => r.slot == slot) || s.contributing slot

/-- Every operation of the slot that a release covers has been performed, its writes to other packages apart (R160): its loads,
atomics and contributions. Answers of atomics that wait in its own store buffer are younger than the release. -/
def State.settled (s : State) (slot : Nat) : Bool :=
  !s.atomics.any (fun r => r.slot == slot) && !s.contributing slot &&
  (s.slot slot).fills.all (fun f => f.waits.all (fun w => (s.slot slot).sb.any (fun e => match e.kind with
    | .atomic r => r.ret == some w.id
    | _ => false)))

/-- Tag changes of a word in a store buffer, oldest first (R133). -/
def bufferTags (a : Nat) (ws : List WritePart) : List Bool :=
  ws.filterMap (fun w => match w.loc, w.tag with
    | .here b, some t => if b / 8 = a / 8 then some t else none
    | _, _ => none)

/-- The tag of a word of this package as the slot sees it: its own buffered change before its hearth's (R158). -/
def State.slotTag (s : State) (slot a : Nat) : Bool :=
  match (bufferTags a (bufferParts (s.slot slot).sb)).getLast? with
  | some t => t
  | none => s.hearthTag (hearthOf slot) a

/-! ## Fetch (R41, R58) -/

/-- What a fetch gives. -/
inductive Fetched where
  | word (w : Nat)
  | fault (t : Trap)
  | page (reason va : Nat)
  | wait
  deriving DecidableEq, Repr

/-- A word the fetch unit makes illegal keeps its bits (R58); the mark 2^32 tells decode of it. -/
def illegalMark : Nat := 2 ^ 32

/-- The overlaid word (R58), with the mark of an illegal word where the value does not fit. -/
def patch (o : Overlay) (w : Nat) : Nat :=
  let v : Nat := if o.psize = 0 then
      (if o.kind = 1 then o.value.toNat % 2 ^ 32 else (sext 32 o.value.toNat).toNat) else o.value.toNat
  let f : Int := sgn 64 v / (2 ^ o.shift : Nat)
  let mark (ok : Bool) : Nat := if ok then 0 else illegalMark
  if o.kind = 1 then w / 2 ^ 16 * 2 ^ 16 + fld v o.shift 16
  else if o.kind = 0 ∨ o.kind = 3 then
    w / 2 ^ 18 * 2 ^ 18 + wrap 18 f + mark (decide (-(2 ^ 17 : Int) ≤ f ∧ f < 2 ^ 17))
  else if o.kind = 2 then
    w / 2 ^ 10 * 2 ^ 10 + wrap 10 f + mark (decide (-(2 ^ 9 : Int) ≤ f ∧ f < 2 ^ 9))
  else
    let lo := v % 2 ^ 32
    let hi := v / 2 ^ 32
    let a := lo / 2 ^ o.shift
    let b := hi / 2 ^ o.shift
    w / 2 ^ 20 * 2 ^ 20 + a % 2 ^ 9 * 2 ^ 11 + b % 2 ^ 11 +
      mark (decide (a < 2 ^ 9 ∧ b < 2 ^ 11 ∧ lo % 2 ^ o.shift = 0 ∧ hi % 2 ^ o.shift = 0))

/-- The word at an offset under the slot's overlays (R58). A trap handler runs from the supervisor code segment, whose offsets the
overlays do not name (R106, R200; DEDUCED, log 31). -/
def overlaid (p : Slot) (pc : Word) (w : Nat) : Fetched :=
  match p.overlays.find? (fun o => decide (o.ioff = pc.toNat)) with
  | none => .word w
  | some o =>
    if p.traph then .word w
    else if o.bad then .fault ⟨Cause.eccunc, pc, BitVec.ofNat 64 o.poff,
      BitVec.ofNat 64 (6 * 2 ^ 16 + 2 ^ 19 + sizeCode (if o.psize = 0 then 4 else 8) * 2 ^ 21 + 2 ^ 24)⟩
    else .word (patch o w)

/-- Segment register of a read by its name: sg0 of code, sg6 of overlays; a read by address has none. -/
def keySeg (key : Nat) : Nat := if 2 ^ 70 ≤ key ∧ key < 2 ^ 72 then 6 else 0

/-- A read of another package: the answer once it has come, else none, with the READ sent once (R317). -/
def State.remoteRead (s : State) (slot key : Nat) (tagged : Bool) (ps : List Piece) : State × Option RemoteRead :=
  match (s.slot slot).remoteFetch.find? (fun e => e.key == key) with
  | some e => (s, if e.answer.isSome then some e else none)
  | none =>
    let (s, g) := s.gather slot (keySeg key) tagged ps 0
    (s.updSlot slot (fun p => { p with
      remoteFetch := p.remoteFetch ++ g.waits.map (fun k => (⟨key, k.id, none, false, true, none⟩ : RemoteRead)) }), none)

/-- Bytes of another package as code or as a record. Uncorrectable bytes are told of once, and read again the next time. -/
def State.remoteCode (s : State) (slot key : Nat) (ps : List Piece) : State × Option (Nat × Bool) :=
  match s.remoteRead slot key false ps with
  | (s, some e) =>
    (if e.bad then s.updSlot slot (fun p => { p with remoteFetch := p.remoteFetch.filter (fun e => e.key != key) }) else s,
      e.answer.map (fun w => (w.toNat, e.bad)))
  | (s, none) => (s, none)

/-- Bytes read as code through sg0. -/
inductive Code where
  | bytes (w : Nat)
  | fault (cause : Nat)
  | page (reason va : Nat)
  | wait
  deriving DecidableEq, Repr

/-- The access of code at an sg0 offset: the X right and the limit of sg0 (R41, R88). -/
def codeAccess (o : Word) (size : Nat) : Access := ⟨0, o, size, size, 0x04, 2, false, false⟩

/-- Name of a read of code among the slot's remote reads. -/
def codeKey (o : Word) (size : Nat) : Nat := o.toNat * 2 + (if size = 8 then 1 else 0)

/-- Reads code of a slot (R41, R88): uncorrectable bytes are the fault of the fetch itself (R107).
DESIGN CHOICE (log 93): a fetch from this package gives the newest word, before ISYNC too (R170). -/
def State.readCode (s : State) (slot : Nat) (o : Word) (size : Nat) : State × Code :=
  match s.resolve slot (codeAccess o size) with
  | (s, .fault c) => (s, .fault c)
  | (s, .page r va) => (s, .page r va)
  | (s, .ok ps) =>
    if anyRemote ps then
      match s.remoteCode slot (codeKey o size) ps with
      | (s, some (w, bad)) => (s, if bad then .fault Cause.eccunc else .bytes w)
      | (s, none) => (s, .wait)
    else
      let (s, g) := s.gather slot 0 false ps 0
      if g.bad then (s, .fault Cause.eccunc) else (s, .bytes (leNat g.buf))

/-- Fetches the word at an sg0 offset of a slot (R41, R58). -/
def State.fetch (s : State) (slot : Nat) (pc : Word) : State × Fetched :=
  match s.readCode slot pc 4 with
  | (s, .fault c) => (s, .fault ⟨c, pc, pc, (codeAccess pc 4).einfo⟩)
  | (s, .page r va) => (s, .page r va)
  | (s, .wait) => (s, .wait)
  | (s, .bytes w) => (s, overlaid (s.slot slot) pc w)

/-- A release toward a package whose covered writes cannot all be applied is never applied: its slot takes REMOTE (R168). -/
def State.uncovered (s : State) (slot : Nat) (l : Loc) (pc : Nat) : State :=
  s.updSlot slot (fun p => p.defer Cause.remote (s.globalOf l) (deferInfo pc 0))

end Sys2Proof.Machine
end

