-- ==== Sys2Proof/Machine/Flags.lean ====
section
/-! DEFINITION. EVERY FLAG COMPUTATION: the condition codes of 03_encoding R44, and the sticky registers FPST and FLTST of
02_machine R38, which hardware only ever sets. -/
namespace Sys2Proof.Machine

/-- Whether a condition holds for two 64-bit operands (R44). -/
def condHolds (c : Cond) (a b : Word) : Bool :=
  match c with
  | .eq => a == b
  | .ne => a != b
  | .lt => a.slt b
  | .ge => !a.slt b
  | .ltn => a.ult b
  | .gen => !a.ult b
  | .le => !b.slt a
  | .gt => b.slt a
  | .len => !b.ult a
  | .gtn => b.ult a
  | .al => true

/-- Sticky bits an operation raises: NV, DZ, OF, UF, NX of FPST and SAT, KILNFMT, SCALEBAD of FLTST (R38). -/
structure Sticky where
  fp : BitVec 5
  flt : BitVec 3
  deriving DecidableEq, Repr

def Sticky.clear : Sticky := ⟨0, 0⟩
def Sticky.or (a b : Sticky) : Sticky := ⟨a.fp ||| b.fp, a.flt ||| b.flt⟩
def Sticky.nv : Sticky := ⟨16, 0⟩
def Sticky.dz : Sticky := ⟨8, 0⟩
def Sticky.of_ : Sticky := ⟨4, 0⟩
def Sticky.uf : Sticky := ⟨2, 0⟩
def Sticky.nx : Sticky := ⟨1, 0⟩
def Sticky.sat : Sticky := ⟨0, 4⟩
def Sticky.kilnfmt : Sticky := ⟨0, 2⟩
def Sticky.scalebad : Sticky := ⟨0, 1⟩
/-- The sticky bits of a flag that is set when `b`. -/
def Sticky.when (b : Bool) (f : Sticky) : Sticky := if b then f else .clear

/-- The instruction raises its bits when it completes, in cycle `at_` (R210). -/
def Slot.stick (p : Slot) (f : Sticky) (at_ : Nat) : Slot :=
  { p with sticks := if f = Sticky.clear then p.sticks else p.sticks ++ [(f.fp.setWidth 64, f.flt.setWidth 64, at_)] }

/-- The instruction of the running slot raises its bits `n` cycles from now, when it completes (R210). -/
def State.stick (s : State) (f : Sticky) (n : Nat) : State :=
  s.upd (fun p => p.stick f (s.cycleOf (coreOf s.cur) + n))

/-- The bits of a list of completions, ORed: FPST and FLTST. -/
def stickBits : List (Word × Word × Nat) → Word × Word
  | [] => (0, 0)
  | e :: r => (e.1 ||| (stickBits r).1, e.2.1 ||| (stickBits r).2)

/-- FPST as it reads in a cycle: what is set, and the bits of what has completed by then (R210). -/
def Slot.fpstAt (p : Slot) (now : Nat) : Word := p.ctl.fpst ||| (stickBits (p.sticks.filter (fun e => decide (e.2.2 ≤ now)))).1

/-- FLTST as it reads in a cycle (R210). -/
def Slot.fltstAt (p : Slot) (now : Nat) : Word := p.ctl.fltst ||| (stickBits (p.sticks.filter (fun e => decide (e.2.2 ≤ now)))).2

/-- The bits of what completed before a cycle stand in the registers, so that an MTC of that cycle can clear them; one that
completes in that cycle is set after the MTC (R210). -/
def Slot.settleSticks (p : Slot) (now : Nat) : Slot :=
  let b := stickBits (p.sticks.filter (fun e => decide (e.2.2 < now)))
  { p with
    ctl := { p.ctl with fpst := p.ctl.fpst ||| b.1, fltst := p.ctl.fltst ||| b.2 }
    sticks := p.sticks.filter (fun e => !decide (e.2.2 < now)) }

/-- Every instruction of the slot has completed: its bits stand in FPST and FLTST. -/
def Slot.allStuck (p : Slot) : Slot :=
  let b := stickBits p.sticks
  { p with ctl := { p.ctl with fpst := p.ctl.fpst ||| b.1, fltst := p.ctl.fltst ||| b.2 }, sticks := [] }

end Sys2Proof.Machine
end

