-- ==== Sys2Proof/Machine/Capture.lean ====
section
/-! DEFINITION. What a repeat frame may hold and how it replays: the captured set and the staggering of register fields
(05_flow_and_burns R83, R84). -/
namespace Sys2Proof.Machine

/-- The words REPF captures (R84): KSYNC is not one of them. -/
def capturable : Instr → Bool
  | .vadd _ _ _ _ _ => true
  | .vsub _ _ _ _ _ => true
  | .vmul _ _ _ _ _ => true
  | .vmulh _ _ _ _ _ => true
  | .vadds _ _ _ _ _ => true
  | .vsubs _ _ _ _ _ => true
  | .vmin _ _ _ _ _ => true
  | .vmax _ _ _ _ _ => true
  | .vand _ _ _ _ _ => true
  | .vor _ _ _ _ _ => true
  | .vxor _ _ _ _ _ => true
  | .vshl _ _ _ _ _ => true
  | .vshr _ _ _ _ _ => true
  | .vsra _ _ _ _ _ => true
  | .vabs _ _ _ _ => true
  | .vfadd _ _ _ _ _ => true
  | .vfsub _ _ _ _ _ => true
  | .vfmul _ _ _ _ _ => true
  | .vfmin _ _ _ _ _ => true
  | .vfmax _ _ _ _ _ => true
  | .vfabs _ _ _ _ => true
  | .vfneg _ _ _ _ => true
  | .vfma _ _ _ _ _ => true
  | .vfms _ _ _ _ _ => true
  | .vfnma _ _ _ _ _ => true
  | .vbcast _ _ _ _ => true
  | .vins _ _ _ _ => true
  | .vext _ _ _ _ => true
  | .vaddx _ _ _ _ _ => true
  | .vfmulx _ _ _ _ _ => true
  | .vcmp _ _ _ _ _ _ => true
  | .vsel _ _ _ _ => true
  | .mand _ _ _ => true
  | .mor _ _ _ => true
  | .mnot _ _ => true
  | .mpopc _ _ _ _ => true
  | .vcvt _ _ _ _ _ _ _ _ => true
  | .vcvts _ _ _ _ _ _ _ => true
  | .vexp2 _ _ _ _ => true
  | .vlog2 _ _ _ _ => true
  | .vrcp _ _ _ _ => true
  | .vrsq _ _ _ _ => true
  | .vsqrt _ _ _ _ => true
  | .vtanh _ _ _ _ => true
  | .vsigm _ _ _ _ => true
  | .vradd _ _ _ _ => true
  | .vrmax _ _ _ _ => true
  | .vrmin _ _ _ _ => true
  | .vrmaxi _ _ _ _ => true
  | .vscan _ _ _ _ => true
  | .vperm _ _ _ _ _ => true
  | .vslide _ _ _ _ _ => true
  | .vslideUp _ _ _ _ _ => true
  | .vrot _ _ _ _ _ => true
  | .vdot4 _ _ _ _ _ => true
  | .vdotf8 _ _ _ _ _ => true
  | .kmma _ _ _ _ _ _ => true
  | .kmmas _ _ _ _ _ _ => true
  | .kmmv _ _ _ _ _ => true
  | .kzero _ => true
  | .klda _ _ _ => true
  | .ksta _ _ => true
  | .kcvt _ _ _ => true
  | _ => false

/-- K-format words, which take REPFMT with an odd dx (R83). -/
def kformat : Instr → Bool
  | .kmma _ _ _ _ _ _ => true
  | .kmmas _ _ _ _ _ _ => true
  | .kmmv _ _ _ _ _ => true
  | .kzero _ => true
  | .klda _ _ _ => true
  | .ksta _ _ => true
  | .kcvt _ _ _ => true
  | _ => false

/-- Instructions that enter the vector pipe (R85, R220). -/
def vectorPipe : Instr → Bool
  | .vsortk _ _ _ _ _ => true
  | .vmergek _ _ _ _ => true
  | .vrnd _ _ _ => true
  | i => capturable i && !kformat i

/-- A vector register of replay j (R84). -/
def stepV (j dv : Nat) (v : VReg) : VReg := v + BitVec.ofNat 5 (j * dv)
/-- A tile of replay j. -/
def stepT (j dv : Nat) (t : TReg) : TReg := t + BitVec.ofNat 4 (j * dv)
/-- An x register of replay j. -/
def stepX (j dx : Nat) (r : Reg) : Reg := r + BitVec.ofNat 4 (j * dx)

/-- A captured word as replay j issues it (R84). -/
def stagger (j dv dx : Nat) : Instr → Instr
  | .vadd d a b ty mk => .vadd (stepV j dv d) (stepV j dv a) (stepV j dv b) ty mk
  | .vsub d a b ty mk => .vsub (stepV j dv d) (stepV j dv a) (stepV j dv b) ty mk
  | .vmul d a b ty mk => .vmul (stepV j dv d) (stepV j dv a) (stepV j dv b) ty mk
  | .vmulh d a b ty mk => .vmulh (stepV j dv d) (stepV j dv a) (stepV j dv b) ty mk
  | .vadds d a b ty mk => .vadds (stepV j dv d) (stepV j dv a) (stepV j dv b) ty mk
  | .vsubs d a b ty mk => .vsubs (stepV j dv d) (stepV j dv a) (stepV j dv b) ty mk
  | .vmin d a b ty mk => .vmin (stepV j dv d) (stepV j dv a) (stepV j dv b) ty mk
  | .vmax d a b ty mk => .vmax (stepV j dv d) (stepV j dv a) (stepV j dv b) ty mk
  | .vand d a b ty mk => .vand (stepV j dv d) (stepV j dv a) (stepV j dv b) ty mk
  | .vor d a b ty mk => .vor (stepV j dv d) (stepV j dv a) (stepV j dv b) ty mk
  | .vxor d a b ty mk => .vxor (stepV j dv d) (stepV j dv a) (stepV j dv b) ty mk
  | .vshl d a b ty mk => .vshl (stepV j dv d) (stepV j dv a) (stepV j dv b) ty mk
  | .vshr d a b ty mk => .vshr (stepV j dv d) (stepV j dv a) (stepV j dv b) ty mk
  | .vsra d a b ty mk => .vsra (stepV j dv d) (stepV j dv a) (stepV j dv b) ty mk
  | .vabs d a ty mk => .vabs (stepV j dv d) (stepV j dv a) ty mk
  | .vfadd d a b ty mk => .vfadd (stepV j dv d) (stepV j dv a) (stepV j dv b) ty mk
  | .vfsub d a b ty mk => .vfsub (stepV j dv d) (stepV j dv a) (stepV j dv b) ty mk
  | .vfmul d a b ty mk => .vfmul (stepV j dv d) (stepV j dv a) (stepV j dv b) ty mk
  | .vfmin d a b ty mk => .vfmin (stepV j dv d) (stepV j dv a) (stepV j dv b) ty mk
  | .vfmax d a b ty mk => .vfmax (stepV j dv d) (stepV j dv a) (stepV j dv b) ty mk
  | .vfabs d a ty mk => .vfabs (stepV j dv d) (stepV j dv a) ty mk
  | .vfneg d a ty mk => .vfneg (stepV j dv d) (stepV j dv a) ty mk
  | .vfma d a b ty mk => .vfma (stepV j dv d) (stepV j dv a) (stepV j dv b) ty mk
  | .vfms d a b ty mk => .vfms (stepV j dv d) (stepV j dv a) (stepV j dv b) ty mk
  | .vfnma d a b ty mk => .vfnma (stepV j dv d) (stepV j dv a) (stepV j dv b) ty mk
  | .vbcast d b ty mk => .vbcast (stepV j dv d) (stepX j dx b) ty mk
  | .vins d k b ty => .vins (stepV j dv d) k (stepX j dx b) ty
  | .vext v k b ty => .vext (stepV j dv v) k (stepX j dx b) ty
  | .vaddx d a b ty mk => .vaddx (stepV j dv d) (stepV j dv a) (stepX j dx b) ty mk
  | .vfmulx d a b ty mk => .vfmulx (stepV j dv d) (stepV j dv a) (stepX j dx b) ty mk
  | .vcmp n a b c ty mk => .vcmp n (stepV j dv a) (stepV j dv b) c ty mk
  | .vsel d a b ty => .vsel (stepV j dv d) (stepV j dv a) (stepV j dv b) ty
  | .mand n a b => .mand n a b
  | .mor n a b => .mor n a b
  | .mnot n a => .mnot n a
  | .mpopc x a ty mk => .mpopc (stepX j dx x) a ty mk
  | .vcvt d a nan rm src p dst mk => .vcvt (stepV j dv d) (stepV j dv a) nan rm src p dst mk
  | .vcvts d a k src p dst mk => .vcvts (stepV j dv d) (stepV j dv a) k src p dst mk
  | .vexp2 d a ty mk => .vexp2 (stepV j dv d) (stepV j dv a) ty mk
  | .vlog2 d a ty mk => .vlog2 (stepV j dv d) (stepV j dv a) ty mk
  | .vrcp d a ty mk => .vrcp (stepV j dv d) (stepV j dv a) ty mk
  | .vrsq d a ty mk => .vrsq (stepV j dv d) (stepV j dv a) ty mk
  | .vsqrt d a ty mk => .vsqrt (stepV j dv d) (stepV j dv a) ty mk
  | .vtanh d a ty mk => .vtanh (stepV j dv d) (stepV j dv a) ty mk
  | .vsigm d a ty mk => .vsigm (stepV j dv d) (stepV j dv a) ty mk
  | .vradd d a ty mk => .vradd (stepV j dv d) (stepV j dv a) ty mk
  | .vrmax d a ty mk => .vrmax (stepV j dv d) (stepV j dv a) ty mk
  | .vrmin d a ty mk => .vrmin (stepV j dv d) (stepV j dv a) ty mk
  | .vrmaxi d a ty mk => .vrmaxi (stepV j dv d) (stepV j dv a) ty mk
  | .vscan d a ty mk => .vscan (stepV j dv d) (stepV j dv a) ty mk
  | .vperm d a b ty mk => .vperm (stepV j dv d) (stepV j dv a) (stepV j dv b) ty mk
  | .vslide d a k ty mk => .vslide (stepV j dv d) (stepV j dv a) k ty mk
  | .vslideUp d a k ty mk => .vslideUp (stepV j dv d) (stepV j dv a) k ty mk
  | .vrot d a k ty mk => .vrot (stepV j dv d) (stepV j dv a) k ty mk
  | .vdot4 d a b ty mk => .vdot4 (stepV j dv d) (stepV j dv a) (stepV j dv b) ty mk
  | .vdotf8 d a b ty mk => .vdotf8 (stepV j dv d) (stepV j dv a) (stepV j dv b) ty mk
  | .kmma t a b c as acc => .kmma (stepT j dv t) (stepX j dx a) (stepX j dx b) c as acc
  | .kmmas t a b c as acc => .kmmas (stepT j dv t) (stepX j dx a) (stepX j dx b) c as acc
  | .kmmv t b c as acc => .kmmv (stepT j dv t) (stepX j dx b) c as acc
  | .kzero t => .kzero (stepT j dv t)
  | .klda t a acc => .klda (stepT j dv t) (stepX j dx a) acc
  | .ksta t a => .ksta (stepT j dv t) (stepX j dx a)
  | .kcvt t a c => .kcvt (stepT j dv t) (stepX j dx a) c
  | i => i

end Sys2Proof.Machine
end

