-- ==== Sys2Proof/Machine/Flow.lean ====
section
/-! DEFINITION. Control flow, repeat frames and burns (05_flow_and_burns R80 to R97). -/
namespace Sys2Proof.Machine

/-! ## Branches, calls and loops (R80 to R82) -/

/-- The target of a displacement in words (R81). -/
def target (pc : Word) {n : Nat} (disp : BitVec n) : Word := pc + 4 * disp.signExtend 64

/-- A conditional transfer (R81). -/
def State.branch (s : State) (take : Bool) (to_ : Word) : State := if take then s.jump to_ else s.advance

/-- B (R81). -/
def execB (c : Cond) (a : Reg) (disp : BitVec 18) (s : State) : Out :=
  .next (gate (.b c a disp) s (fun s => s.branch (condHolds c (s.me.getX a) 0) (target s.me.pc disp)))

/-- BC (R81). -/
def execBc (c : Cond) (a b : Reg) (disp : BitVec 14) (s : State) : Out :=
  .next (gate (.bc c a b disp) s (fun s =>
    s.branch (condHolds c (s.me.getX a) (s.me.getX b)) (target s.me.pc disp)))

/-- LOOP (R81). -/
def execLoop (a : Reg) (disp : BitVec 18) (s : State) : Out :=
  .next (gate (.loop a disp) s (fun s =>
    let v := s.me.getX a - 1
    (s.writeX a v 2).branch (v != 0) (target s.me.pc disp)))

/-- CALL (R82). -/
def execCall (disp : BitVec 26) (s : State) : Out :=
  .next (gate (.call disp) s (fun s => (s.writeX 15 (s.me.pc + 4) 2).jump (target s.me.pc disp)))

/-- EINFO of a misaligned target (R108): a fetch of 4 bytes through sg0. -/
def targetInfo : Word := BitVec.ofNat 64 (2 ^ 19 + sizeCode 4 * 2 ^ 21 + 4 * 2 ^ 24)

/-- A jump to a register's value: bits [1:0] take ALIGN (R82, R41). -/
def State.jumpTo (s : State) (t : Word) (k : State → State) : State :=
  if t.toNat % 4 ≠ 0 then s.raise Cause.align t targetInfo else k s

/-- JR (R82). -/
def execJr (a : Reg) (s : State) : Out :=
  .next (gate (.jr a) s (fun s => s.jumpTo (s.me.getX a) (fun s => s.jump (s.me.getX a))))

/-- RET (R82): JR x15. -/
def execRet (s : State) : Out :=
  .next (gate .ret s (fun s => s.jumpTo (s.me.getX 15) (fun s => s.jump (s.me.getX 15))))

/-- CALLR (R82): the old xa is the target. -/
def execCallr (a : Reg) (s : State) : Out :=
  .next (gate (.callr a) s (fun s => s.jumpTo (s.me.getX a) (fun s =>
    (s.writeX 15 (s.me.pc + 4) 2).jump (s.me.getX a))))

/-! ## Repeat frames (R83 to R87) -/

/-- EINFO of a capture check (R108): REPCHK and the word index. -/
def repInfo (i : Nat) : Word := BitVec.ofNat 64 (2 ^ 13 + i)

/-- The word at an index of the frame, as fetched with its overlay: an instruction, or the word when it is illegal. -/
inductive Captured where
  | words (ws : List (Nat × Option Instr))
  | fault (i : Nat) (t : Trap)
  | page (reason va : Nat) (o : Word)
  | wait
  deriving DecidableEq, Repr

/-- Reads a fetched word: none when it is illegal as an encoding (R48, R58). -/
def readWord (w : Nat) : Option Instr :=
  if illegalMark ≤ w then none else (decode w).toOption

/-- Fetches words i to i + n − 1 of a frame (R83); the first fetch fault stops it. -/
def State.capture (s : State) (pc : Word) : Nat → Nat → State × Captured
  | 0, _ => (s, .words [])
  | n + 1, i =>
    match s.fetch s.cur (pc + 4) with
    | (s, .fault t) => (s, .fault i t)
    | (s, .page r va) => (s, .page r va (pc + 4))
    | (s, .wait) => (s, .wait)
    | (s, .word w) =>
      match s.capture (pc + 4) n (i + 1) with
      | (s, .words ws) => (s, .words ((w % 2 ^ 32, readWord w) :: ws))
      | r => r

/-- A captured word is legal in every replay: encoding, registers and tiles under the partition (R83). -/
def State.replayLegal (s : State) (reps dv dx : Nat) (i : Instr) : Bool :=
  (List.range reps).all (fun j =>
    let u := uses (stagger j dv dx i)
    (u.vs ++ u.vd).all (fun v => decide (v.toNat < s.vcount s.cur)) &&
    u.ts.all (fun t => decide (t.toNat < s.tcount (coreOf s.cur))))

/-- Index of the first element that satisfies a test. -/
def firstIndex {α : Type} (p : α → Bool) : List α → Nat → Option Nat
  | [], _ => none
  | x :: xs, i => if p x then some i else firstIndex p xs (i + 1)

/-- The capture checks after the fetch (R83): ILL, then REPFMT. Answers the cause, the index and EINFO's upper half.
DESIGN CHOICE (log 93): a frame refused for more than 32 instructions in a burn names word 0. -/
def State.frameCheck (s : State) (reps dv dx : Nat) (ws : List (Nat × Option Instr)) : Option (Nat × Nat × Word) :=
  match firstIndex (fun e => match e.2 with
      | none => true
      | some i => !s.replayLegal reps dv dx i) ws 0 with
  | some k => some (Cause.ill, k, wordInfo ((ws[k]?.map (·.1)).getD 0))
  | none =>
    match firstIndex (fun e => match e.2 with
        | none => true
        | some i => !capturable i || (kformat i && dx % 2 == 1)) ws 0 with
    | some k => some (Cause.repfmt, k, 0)
    | none => if s.me.burning ∧ 32 < reps * ws.length then some (Cause.repfmt, 0, 0) else none

/-- The sequencer takes the frame (R83, R86), or the slot parks. -/
def State.claim (s : State) (f : Frame) : State :=
  let c := s.myCore
  let go (s : State) (c : Core) : State :=
    let s := s.setCore (coreOf s.cur) { c with frame := some f, repfQueue := c.repfQueue.filter (fun k => k != s.cur) }
    s.jump (s.me.pc + 4 * BitVec.ofNat 64 (f.words.length + 1))
  let park (s : State) : State :=
    (s.updCore (coreOf s.cur) (fun c =>
      { c with repfQueue := if c.repfQueue.contains s.cur then c.repfQueue else c.repfQueue ++ [s.cur] })).parkOn .repf
  match c.frame with
  | none => if c.repfQueue = [] ∨ c.repfQueue.head? = some s.cur then go s c else park s
  | some g =>
    if s.me.burning ∧ !(s.slot g.owner).burning ∧ c.suspended = none then go s { c with suspended := some g }
    else park s

/-- REPF (R83, R86). -/
def execRepf (n : BitVec 5) (len : BitVec 4) (dv : BitVec 5) (dx : BitVec 4) (s : State) : Out :=
  .next (gate (.repf n len dv dx) s (fun s =>
    let reps := n.toNat + 1
    if (s.myCore.frameOf s.cur).isSome then s
    else match s.capture s.me.pc (len.toNat + 1) 0 with
      | (s, .fault i t) => s.raise t.cause t.eaddr (t.einfo ||| repInfo i)
      | (s, .page r va o) => s.pageFault (codeAccess o 4) r va
      | (s, .wait) => s
      | (s, .words ws) =>
        match s.frameCheck reps dv.toNat dx.toNat ws with
        | some (c, i, hi) => s.raise c 0 (hi ||| repInfo i)
        | none => s.claim ⟨s.cur, ws.filterMap (·.2), n.toNat, dv.toNat, dx.toNat, 0, 0, s.me.pc, false, s.cycleOf (coreOf s.cur)⟩))

/-- SEQUENCER_RELEASE (R85, R86): in the cycle after the frame's last instruction issues. -/
def execSequencerRelease (core : Nat) (s : State) : Out :=
  .next (match (s.core core).frame with
    | some f => if f.done && decide (f.at_ < s.cycleOf core) then s.updCore core Core.release else s
    | none => s)

/-! ## Burns (R88 to R97) -/

/-- Frequency of an island in MHz: clamps run at 3,600 nominally (R16, R360). -/
def islandNominal (i : Nat) : Nat := if i < 128 then 3600 else Config.islandMHz i
def State.islandFreq (s : State) (i : Nat) : Nat := (Table.find s.pkg.islfreq i).getD (islandNominal i)

/-- Islands a burn of a clamp holds at nominal (R97): the clamp, the L2 of its hearth, the 16 grate islands. -/
def burnIslands (clamp : Nat) : List Nat := clamp :: (128 + clamp / 16) :: (List.range 16).map (· + 136)

/-- The islands rise to the floor of a burn (R97). -/
def State.raiseIslands (s : State) (clamp : Nat) : State :=
  { s with pkg := { s.pkg with islfreq := s.pkg.islfreq.filter (fun e => !(burnIslands clamp).contains e.1) } }

/-- The issue of a burn once its bounds are known (R88). -/
def State.startBurn (s : State) (i : Instr) (h : Word) (bounds : Nat → Nat × Nat) : State :=
  let clamp := clampOf s.cur
  if s.me.sb ≠ [] then s
  else if s.islandFreq clamp ≠ 3600 then s.raiseIslands clamp
  else if h.toNat % 8 ≠ 0 then s.raise Cause.align h (codeAccess h 8).einfo
  else match s.readCode s.cur h 8 with
    | (s, .fault c) => s.raise c h (codeAccess h 8).einfo
    | (s, .page r va) => s.pageFault (codeAccess h 8) r va
    | (s, .wait) => s
    | (s, .bytes w) =>
      if fld w 32 32 ≠ 0 then s.raise Cause.ill (h + 4) (wordInfo (wordOf i))
      else
        let now := s.dtime
        let s := (s.raiseIslands clamp).upd (fun p => { p with ctl := { p.ctl with
          bstart := BitVec.ofNat 64 now
          bmin := BitVec.ofNat 64 (bounds now).1
          bmax := BitVec.ofNat 64 (bounds now).2
          bhnd := h
          burnst := BitVec.ofNat 64 (fld w 0 32 * 2 ^ 32 + 1)
          status := setBit p.ctl.status 2 true } })
        s.advance

/-- Unit of a burn's bounds (R88). -/
def burnUnit (un : BitVec 2) : Nat := if un = 0 then 1 else if un = 1 then 16 else if un = 2 then 256 else 4096

/-- BURN (R88). -/
def execBurn (h : Reg) (un : BitVec 2) (mn : BitVec 9) (mx : BitVec 11) (s : State) : Out :=
  .next (gate (.burn h un mn mx) s (fun s =>
    if s.me.burning then s.raise Cause.burnnest 0 0
    else s.startBurn (.burn h un mn mx) (s.me.getX h)
      (fun now => (now + mn.toNat * burnUnit un, now + mx.toNat * burnUnit un))))

/-- BURNR (R89): bounds in ns from registers, saturating. -/
def execBurnr (h a b : Reg) (s : State) : Out :=
  .next (gate (.burnr h a b) s (fun s =>
    if s.me.burning then s.raise Cause.burnnest 0 0
    else if (s.me.getX b).toNat < (s.me.getX a).toNat then s.ill (.burnr h a b)
    else
      let lo := (s.me.getX a).toNat
      let hi := (s.me.getX b).toNat
      s.startBurn (.burnr h a b) (s.me.getX h)
        (fun now => (min (now + lo) (2 ^ 64 - 1), min (now + hi) (2 ^ 64 - 1)))))

/-- BURNQ (R90). -/
def execBurnq (d : Reg) (s : State) : Out :=
  .next (gate (.burnq d) s (fun s =>
    (s.writeX d (if s.me.burning then BitVec.ofNat 64 (s.me.ctl.bmax.toNat - s.dtime) else BitVec.allOnes 64) 2).advance))

/-- Completion of a BURNE (R91, R165): the held entries are released and the burn is over. Where one of them is an acquire, the
slot's later accesses wait until it has been performed (R162). -/
def Slot.finishBurn (p : Slot) : Slot :=
  let q := { p with
    sb := p.sb.map (fun (e : SbEntry) => { e with held := false })
    barrier := if p.sb.any (fun e => e.held && e.acq) then some .performed else p.barrier }
  ((q.setStatus 2 false).setBurnst 0 2 0).setBurnst 9 6 0

/-- BURNE (R91): completes at issue when DTIME ≥ BMIN, else parks. -/
def execBurne (s : State) : Out :=
  .next (gate .burne s (fun s =>
    if !s.me.burning then s.raise Cause.burnnest 0 0
    else if s.me.ctl.bmin.toNat ≤ s.dtime then (s.upd Slot.finishBurn).advance
    else s.parkOn .burne))

/-- The slot is parked on an issued BURNE. -/
def Slot.padding (p : Slot) : Bool :=
  match p.park with
  | some k => k.reason == .burne
  | none => false

/-- BURNE_COMPLETE (R91, R14): the parked BURNE of a running slot completes once DTIME ≥ BMIN. -/
def execBurneComplete (slot : Nat) (s : State) : Out :=
  .next (let p := s.slot slot
    if decide (p.mode = .running) && p.padding && p.burning && decide (p.ctl.bmin.toNat ≤ s.dtime) then
      s.updSlot slot (fun p => let q := p.finishBurn; { q with pc := p.pc + 4, park := none })
    else s)

/-- The check of R94: an active burn or handler whose BURNE has not issued has reached BMAX. -/
def Slot.overdue (p : Slot) (dtime state : Nat) : Bool :=
  decide (p.mode = .running) && p.burning && decide (p.burnState = state) && !p.padding &&
  decide (p.ctl.bmax.toNat ≤ dtime)

/-- An ember waits in its slot for an entry of the arrival queue it goes to: it stays parked there (R25). -/
def State.roomless (s : State) (slot : Nat) : Bool :=
  match (s.slot slot).barrier with
  | some (.departing pkg clamp _ _) => decide (pkg = s.pkg.number ∧ 64 ≤ (s.clamp clamp).embers.length)
  | some (.sent _ _ _ refused) => refused
  | _ => false

/-- The slot counts as parked (R17, R22, R25, R94). -/
def State.isParked (s : State) (slot : Nat) : Bool := (s.slot slot).park.isSome || s.roomless slot

/-- BURN_HANDLER_ENTRY (R94): not a trap. -/
def State.handlerEntry (s : State) (slot : Nat) : State :=
  let f := (s.core (coreOf slot)).frameOf slot
  (s.dropFrame slot).updSlot slot (fun p => p.enterHandler s.dtime (s.isParked slot) f)

def execBurnHandlerEntry (slot : Nat) (s : State) : Out :=
  .next (if (s.slot slot).overdue s.dtime 1 then s.handlerEntry slot else s)

/-- HANDLER_OVERRUN (R95, R102, R103): the slot is stopped, with a BURNHMAX record and a spark. -/
def State.handlerOverrun (s : State) (slot : Nat) : State :=
  let s := (s.dropFrame slot).updSlot slot (fun p => p.overrun (s.isParked slot))
  s.stopSlot slot 0x07 false (s.slot slot).ctl.bepc (s.slot slot).ctl.burnst

def execHandlerOverrun (slot : Nat) (s : State) : Out :=
  .next (if (s.slot slot).overdue s.dtime 2 then s.handlerOverrun slot else s)

end Sys2Proof.Machine
end

