-- ==== Sys2Proof/Machine/Scalar.lean ====
section
/-! DEFINITION. The integer and address instructions (04_scalar R60 to R78). -/
namespace Sys2Proof.Machine

/-- Width in bits (R45). -/
def widthBits : Width → Nat
  | .w64 => 64
  | .w32 => 32
  | .w16 => 16
  | .w8 => 8

/-- A two-source ALU form (R63): the low w bits of xa and xb, the result sign-extended. -/
def alu2 (i : Instr) (d a b : Reg) (sz : Width) (n : Nat) (f : Nat → Nat → Nat → Nat) (s : State) : State :=
  gate i s (fun s =>
    let w := widthBits sz
    (s.writeX d (sext w (f w ((s.me.getX a).toNat % 2 ^ w) ((s.me.getX b).toNat % 2 ^ w))) n).advance)

/-- A one-source ALU form (R63). -/
def alu1 (i : Instr) (d a : Reg) (sz : Width) (n : Nat) (f : Nat → Nat → Nat) (s : State) : State :=
  gate i s (fun s =>
    let w := widthBits sz
    (s.writeX d (sext w (f w ((s.me.getX a).toNat % 2 ^ w))) n).advance)

/-- A form that writes a function of xa at 64 bits (R73, R74). -/
def imm1 (i : Instr) (d a : Reg) (n : Nat) (f : Word → Word) (s : State) : State :=
  gate i s (fun s => (s.writeX d (f (s.me.getX a)) n).advance)

/-! ## Results of w bits (R64 to R69) -/

def aluAdd (_ a b : Nat) : Nat := a + b
def aluSub (w a b : Nat) : Nat := a + 2 ^ w - b
def aluMul (_ a b : Nat) : Nat := a * b
def aluMulh (w a b : Nat) : Nat := wrap w (sgn w a * sgn w b / (2 ^ w : Nat))
def aluMulhn (w a b : Nat) : Nat := a * b / 2 ^ w
/-- Quotient truncated toward zero; all ones for a zero divisor; the dividend for the one overflow (R66). -/
def aluDiv (w a b : Nat) : Nat := if b = 0 then 2 ^ w - 1 else wrap w ((sgn w a).tdiv (sgn w b))
def aluDivn (w a b : Nat) : Nat := if b = 0 then 2 ^ w - 1 else a / b
def aluRem (w a b : Nat) : Nat := if b = 0 then a else wrap w ((sgn w a).tmod (sgn w b))
def aluRemn (_ a b : Nat) : Nat := if b = 0 then a else a % b
def aluAnd (_ a b : Nat) : Nat := a &&& b
def aluAndn (w a b : Nat) : Nat := a &&& (2 ^ w - 1 - b)
def aluOr (_ a b : Nat) : Nat := a ||| b
def aluXor (_ a b : Nat) : Nat := a ^^^ b
/-- Shift amounts are taken modulo the width (R67). -/
def aluShl (w a b : Nat) : Nat := a * 2 ^ (b % w)
def aluShr (w a b : Nat) : Nat := a / 2 ^ (b % w)
def aluSra (w a b : Nat) : Nat := wrap w (sgn w a / (2 ^ (b % w) : Nat))
def aluRol (w a b : Nat) : Nat := a * 2 ^ (b % w) % 2 ^ w + a * 2 ^ (b % w) / 2 ^ w
def aluRor (w a b : Nat) : Nat := aluRol w a (w - b % w)
def aluMin (w a b : Nat) : Nat := if sgn w a ≤ sgn w b then a else b
def aluMax (w a b : Nat) : Nat := if sgn w b ≤ sgn w a then a else b
def aluMinn (_ a b : Nat) : Nat := if a ≤ b then a else b
def aluMaxn (_ a b : Nat) : Nat := if b ≤ a then a else b
def boolNat (b : Bool) : Nat := if b then 1 else 0
def aluCmpeq (_ a b : Nat) : Nat := boolNat (a == b)
def aluCmpne (_ a b : Nat) : Nat := boolNat (a != b)
def aluCmplt (w a b : Nat) : Nat := boolNat (decide (sgn w a < sgn w b))
def aluCmpltn (_ a b : Nat) : Nat := boolNat (decide (a < b))
def aluCmple (w a b : Nat) : Nat := boolNat (decide (sgn w a ≤ sgn w b))
def aluCmplen (_ a b : Nat) : Nat := boolNat (decide (a ≤ b))
def aluAbs (w a : Nat) : Nat := wrap w ((sgn w a).natAbs : Int)
def aluNeg (w a : Nat) : Nat := 2 ^ w - a
/-- Zero bits above the highest one bit of the low `n` bits. -/
def clzOf (a : Nat) : Nat → Nat
  | 0 => 0
  | n + 1 => if bitOf a n then 0 else 1 + clzOf a n
def aluClz (w a : Nat) : Nat := clzOf a w
/-- Zero bits below the lowest one bit among `n` bits. -/
def ctzOf (a : Nat) : Nat → Nat
  | 0 => 0
  | n + 1 => if a % 2 = 1 then 0 else 1 + ctzOf (a / 2) n
def aluCtz (w a : Nat) : Nat := ctzOf a w
/-- One bits among the low `n` bits. -/
def popOf (a : Nat) : Nat → Nat
  | 0 => 0
  | n + 1 => a % 2 + popOf (a / 2) n
def aluPopc (w a : Nat) : Nat := popOf a w
/-- The low `n` bits in reverse order. -/
def revOf (a : Nat) : Nat → Nat
  | 0 => 0
  | n + 1 => a % 2 * 2 ^ n + revOf (a / 2) n
def aluBrev (w a : Nat) : Nat := revOf a w

/-- ADD (R64). -/
def execAdd (d a b : Reg) (sz : Width) (s : State) : Out := .next (alu2 (.add d a b sz) d a b sz 2 aluAdd s)
/-- SUB (R64). -/
def execSub (d a b : Reg) (sz : Width) (s : State) : Out := .next (alu2 (.sub d a b sz) d a b sz 2 aluSub s)
/-- MUL (R65). -/
def execMul (d a b : Reg) (sz : Width) (s : State) : Out := .next (alu2 (.mul d a b sz) d a b sz 5 aluMul s)
/-- MULH (R65). -/
def execMulh (d a b : Reg) (sz : Width) (s : State) : Out := .next (alu2 (.mulh d a b sz) d a b sz 5 aluMulh s)
/-- MULHN (R65). -/
def execMulhn (d a b : Reg) (sz : Width) (s : State) : Out := .next (alu2 (.mulhn d a b sz) d a b sz 5 aluMulhn s)
/-- DIV (R66). -/
def execDiv (d a b : Reg) (sz : Width) (s : State) : Out := .next (alu2 (.div d a b sz) d a b sz 15 aluDiv s)
/-- DIVN (R66). -/
def execDivn (d a b : Reg) (sz : Width) (s : State) : Out := .next (alu2 (.divn d a b sz) d a b sz 15 aluDivn s)
/-- REM (R66). -/
def execRem (d a b : Reg) (sz : Width) (s : State) : Out := .next (alu2 (.rem d a b sz) d a b sz 15 aluRem s)
/-- REMN (R66). -/
def execRemn (d a b : Reg) (sz : Width) (s : State) : Out := .next (alu2 (.remn d a b sz) d a b sz 15 aluRemn s)
/-- AND (R64). -/
def execAnd (d a b : Reg) (sz : Width) (s : State) : Out := .next (alu2 (.and d a b sz) d a b sz 2 aluAnd s)
/-- ANDN (R64). -/
def execAndn (d a b : Reg) (sz : Width) (s : State) : Out := .next (alu2 (.andn d a b sz) d a b sz 2 aluAndn s)
/-- OR (R64). -/
def execOr (d a b : Reg) (sz : Width) (s : State) : Out := .next (alu2 (.or d a b sz) d a b sz 2 aluOr s)
/-- XOR (R64). -/
def execXor (d a b : Reg) (sz : Width) (s : State) : Out := .next (alu2 (.xor d a b sz) d a b sz 2 aluXor s)
/-- SHL (R67). -/
def execShl (d a b : Reg) (sz : Width) (s : State) : Out := .next (alu2 (.shl d a b sz) d a b sz 2 aluShl s)
/-- SHR (R67). -/
def execShr (d a b : Reg) (sz : Width) (s : State) : Out := .next (alu2 (.shr d a b sz) d a b sz 2 aluShr s)
/-- SRA (R67). -/
def execSra (d a b : Reg) (sz : Width) (s : State) : Out := .next (alu2 (.sra d a b sz) d a b sz 2 aluSra s)
/-- ROL (R67). -/
def execRol (d a b : Reg) (sz : Width) (s : State) : Out := .next (alu2 (.rol d a b sz) d a b sz 2 aluRol s)
/-- ROR (R67). -/
def execRor (d a b : Reg) (sz : Width) (s : State) : Out := .next (alu2 (.ror d a b sz) d a b sz 2 aluRor s)
/-- MIN (R64). -/
def execMin (d a b : Reg) (sz : Width) (s : State) : Out := .next (alu2 (.min d a b sz) d a b sz 2 aluMin s)
/-- MAX (R64). -/
def execMax (d a b : Reg) (sz : Width) (s : State) : Out := .next (alu2 (.max d a b sz) d a b sz 2 aluMax s)
/-- MINN (R64). -/
def execMinn (d a b : Reg) (sz : Width) (s : State) : Out := .next (alu2 (.minn d a b sz) d a b sz 2 aluMinn s)
/-- MAXN (R64). -/
def execMaxn (d a b : Reg) (sz : Width) (s : State) : Out := .next (alu2 (.maxn d a b sz) d a b sz 2 aluMaxn s)
/-- CMPEQ (R68). -/
def execCmpeq (d a b : Reg) (sz : Width) (s : State) : Out := .next (alu2 (.cmpeq d a b sz) d a b sz 2 aluCmpeq s)
/-- CMPNE (R68). -/
def execCmpne (d a b : Reg) (sz : Width) (s : State) : Out := .next (alu2 (.cmpne d a b sz) d a b sz 2 aluCmpne s)
/-- CMPLT (R68). -/
def execCmplt (d a b : Reg) (sz : Width) (s : State) : Out := .next (alu2 (.cmplt d a b sz) d a b sz 2 aluCmplt s)
/-- CMPLTN (R68). -/
def execCmpltn (d a b : Reg) (sz : Width) (s : State) : Out := .next (alu2 (.cmpltn d a b sz) d a b sz 2 aluCmpltn s)
/-- CMPLE (R68). -/
def execCmple (d a b : Reg) (sz : Width) (s : State) : Out := .next (alu2 (.cmple d a b sz) d a b sz 2 aluCmple s)
/-- CMPLEN (R68). -/
def execCmplen (d a b : Reg) (sz : Width) (s : State) : Out := .next (alu2 (.cmplen d a b sz) d a b sz 2 aluCmplen s)
/-- ABS (R69). -/
def execAbs (d a : Reg) (sz : Width) (s : State) : Out := .next (alu1 (.abs d a sz) d a sz 2 aluAbs s)
/-- NEG (R64). -/
def execNeg (d a : Reg) (sz : Width) (s : State) : Out := .next (alu1 (.neg d a sz) d a sz 2 aluNeg s)
/-- CLZ (R69). -/
def execClz (d a : Reg) (sz : Width) (s : State) : Out := .next (alu1 (.clz d a sz) d a sz 3 aluClz s)
/-- CTZ (R69). -/
def execCtz (d a : Reg) (sz : Width) (s : State) : Out := .next (alu1 (.ctz d a sz) d a sz 3 aluCtz s)
/-- POPC (R69). -/
def execPopc (d a : Reg) (sz : Width) (s : State) : Out := .next (alu1 (.popc d a sz) d a sz 3 aluPopc s)
/-- BREV (R69). -/
def execBrev (d a : Reg) (sz : Width) (s : State) : Out := .next (alu1 (.brev d a sz) d a sz 3 aluBrev s)

/-- SEL (R68): xd selects. -/
def execSel (d a b : Reg) (s : State) : Out :=
  .next (gate (.sel d a b) s (fun s =>
    (s.writeX d (if s.me.getX d ≠ 0 then s.me.getX a else s.me.getX b) 2).advance))

/-- Position and length of the field that xb describes, cut at bit 63 (R70). -/
def fieldPos (b : Word) : Nat := getField b 0 6
def fieldLen (b : Word) : Nat := min (getField b 8 6 + 1) (64 - fieldPos b)

/-- BFX (R70). -/
def execBfx (d a b : Reg) (s : State) : Out :=
  .next (gate (.bfx d a b) s (fun s =>
    let k := s.me.getX b
    (s.writeX d (BitVec.ofNat 64 (getField (s.me.getX a) (fieldPos k) (fieldLen k))) 3).advance))

/-- BFXS (R70). -/
def execBfxs (d a b : Reg) (s : State) : Out :=
  .next (gate (.bfxs d a b) s (fun s =>
    let k := s.me.getX b
    (s.writeX d (sext (fieldLen k) (getField (s.me.getX a) (fieldPos k) (fieldLen k))) 3).advance))

/-- BFI (R70): xd is read. -/
def execBfi (d a b : Reg) (s : State) : Out :=
  .next (gate (.bfi d a b) s (fun s =>
    let k := s.me.getX b
    (s.writeX d (putField (s.me.getX d) (fieldPos k) (fieldLen k) (s.me.getX a).toNat) 3).advance))

/-- SEXT (R71). -/
def execSext (d a : Reg) (sz : Width) (s : State) : Out := .next (alu1 (.sext d a sz) d a sz 2 (fun _ a => a) s)

/-- ZEXT (R71): the one function whose result is zero-extended (R63). -/
def execZext (d a : Reg) (sz : Width) (s : State) : Out :=
  .next (gate (.zext d a sz) s (fun s => (s.writeX d (zext (widthBits sz) (s.me.getX a).toNat) 2).advance))

/-- MOV (R71). -/
def execMov (d a : Reg) (s : State) : Out := .next (imm1 (.mov d a) d a 2 (fun x => x) s)

/-- ADDI (R73). -/
def execAddi (d a : Reg) (imm : BitVec 18) (s : State) : Out :=
  .next (imm1 (.addi d a imm) d a 2 (fun x => x + imm.signExtend 64) s)

/-- ANDI (R73). -/
def execAndi (d a : Reg) (imm : BitVec 18) (s : State) : Out :=
  .next (imm1 (.andi d a imm) d a 2 (fun x => x &&& imm.signExtend 64) s)

/-- ORI (R73). -/
def execOri (d a : Reg) (imm : BitVec 18) (s : State) : Out :=
  .next (imm1 (.ori d a imm) d a 2 (fun x => x ||| imm.signExtend 64) s)

/-- XORI (R73). -/
def execXori (d a : Reg) (imm : BitVec 18) (s : State) : Out :=
  .next (imm1 (.xori d a imm) d a 2 (fun x => x ^^^ imm.signExtend 64) s)

/-- MULI (R73). -/
def execMuli (d a : Reg) (imm : BitVec 18) (s : State) : Out :=
  .next (imm1 (.muli d a imm) d a 5 (fun x => x * imm.signExtend 64) s)

/-- SHLI (R74). -/
def execShli (d a : Reg) (k : BitVec 6) (s : State) : Out :=
  .next (imm1 (.shli d a k) d a 2 (fun x => x <<< k.toNat) s)

/-- SHRI (R74). -/
def execShri (d a : Reg) (k : BitVec 6) (s : State) : Out :=
  .next (imm1 (.shri d a k) d a 2 (fun x => x >>> k.toNat) s)

/-- SRAI (R74). -/
def execSrai (d a : Reg) (k : BitVec 6) (s : State) : Out :=
  .next (imm1 (.srai d a k) d a 2 (fun x => x.sshiftRight k.toNat) s)

/-- CMPI (R75). -/
def execCmpi (d a : Reg) (c : Cond) (m : BitVec 14) (s : State) : Out :=
  .next (imm1 (.cmpi d a c m) d a 2 (fun x => if condHolds c x (m.signExtend 64) then 1 else 0) s)

/-- MOVW (R77): with k = 1 the other bits of xd stay. -/
def execMovw (d : Reg) (hw : BitVec 2) (keep : Bool) (imm : BitVec 16) (s : State) : Out :=
  .next (gate (.movw d hw keep imm) s (fun s =>
    (s.writeX d (putField (if keep then s.me.getX d else 0) (16 * hw.toNat) 16 imm.toNat) 2).advance))

/-- Bytes of a scalar access (R45). -/
def msizeBytes : MSize → Nat
  | .b8 => 1
  | .b16 => 2
  | .b32 => 4
  | .b64 => 8

/-- LEA (R78): no access, no rights, no translation; SEGLIM beyond the limit. -/
def execLea (t a : Reg) (g : SegNo) (sz : MSize) (off : BitVec 10) (s : State) : Out :=
  .next (gate (.lea t a g sz off) s (fun s =>
    let size := msizeBytes sz
    let o := s.me.getX a + off.signExtend 64 * BitVec.ofNat 64 size
    let sg := s.me.seg g.toNat
    if segEmpty sg || decide (sg.limit.toNat < o.toNat + size - 1) then
      s.raise Cause.seglim o (Access.einfo ⟨g.toNat, o, size, 1, 0, 0, false, false⟩)
    else (s.writeX t (BitVec.ofNat 64 ((sg.base + o).toNat % 2 ^ 57)) 3).advance))

end Sys2Proof.Machine
end

