-- ==== Sys2Proof/Machine/Memory.lean ====
section
/-! DEFINITION. Loads, stores, vector accesses, tagged words and fills (09_memory R128 to R136, 08_wavefront R124, 02_machine R27,
R28). -/
namespace Sys2Proof.Machine

/-! ## Loads and stores (R132, R134) -/

/-- Bytes of the sz codes (R45). -/
def vsizeBytes : VSize → Nat
  | .v64 => 64
  | .v32 => 32

/-- An access of the M format: offset xa + SignExtend(off) × size (R128). -/
def Slot.formM (p : Slot) (g : SegNo) (a : Reg) (off : Word) (size : Nat) (need : BitVec 8) (kind : Nat) : Access :=
  ⟨g.toNat, p.getX a + off * BitVec.ofNat 64 size, size, size, need, kind, false, true⟩

/-- An access of the T format: offset xa (R128). -/
def Slot.formT (p : Slot) (g : SegNo) (a : Reg) (size : Nat) (need : BitVec 8) (kind : Nat) (tagged : Bool) : Access :=
  ⟨g.toNat, p.getX a, size, size, need, kind, tagged, true⟩

/-- An atomic of the slot on the run lies in an open window: a COUNTREL closes it, so that its acknowledgement can come
(R158, R325). -/
def State.closeAhead (s : State) (l : Loc) (n : Nat) : State :=
  (s.flue.store.filter (fun e => decide (e.slot = s.cur) && e.pendingOn s.me l n)).foldl
    (fun s e => s.countrel e.flit.sid e.flit.dst) s

/-- What the slot's next instruction waits for after an acquire whose answer comes from another package (R160). -/
def State.acquire (s : State) (acq : Bool) (g : Gathered) (sc : Scope) : State :=
  if acq && !g.waits.isEmpty then s.upd (fun p => { p with barrier := some (.fence .acq sc) }) else s

/-- A load into a register (R132, R134); an acquire has its value before the slot's next access. -/
def State.load (s : State) (acc : Access) (vec : Bool) (reg : Nat) (signed acq : Bool) : State :=
  s.access acc (fun s ps =>
    if ps.any (fun p => s.atomicAhead s.cur p.loc p.len) then ps.foldl (fun s p => s.closeAhead p.loc p.len) s
    else
      let (s, g) := s.gather s.cur acc.seg false ps 0
      (s.startFill acc vec reg signed g).advance.acquire acq g .sys)

/-- Bytes of a register or vector, lowest first. -/
def bytesOf {n : Nat} (w : BitVec n) (k : Nat) : List Byte := bytesOfNat k w.toNat

def execLd (t a : Reg) (g : SegNo) (sz : MSize) (acq : Bool) (off : BitVec 10) (s : State) : Out :=
  .next (gate (.ld t a g sz acq off) s (fun s =>
    s.load (s.me.formM g a (off.signExtend 64) (msizeBytes sz) 0x01 0) false t.toNat true acq))

def execLdn (t a : Reg) (g : SegNo) (sz : MSize) (acq : Bool) (off : BitVec 10) (s : State) : Out :=
  .next (gate (.ldn t a g sz acq off) s (fun s =>
    s.load (s.me.formM g a (off.signExtend 64) (msizeBytes sz) 0x01 0) false t.toNat false acq))

/-- ST (R132): ST.rel takes ILL in a burn (R130). -/
def execSt (t a : Reg) (g : SegNo) (sz : MSize) (rel : Bool) (off : BitVec 10) (s : State) : Out :=
  .next (gate (.st t a g sz rel off) s (fun s =>
    if rel && s.me.burning then s.ill (.st t a g sz rel off)
    else s.store (s.me.formM g a (off.signExtend 64) (msizeBytes sz) 0x02 1) (bytesOf (s.me.getX t) (msizeBytes sz))
      (if rel then some .sys else none)))

def execLdv (v : VReg) (a : Reg) (g : SegNo) (sz : VSize) (acq : Bool) (off : BitVec 9) (s : State) : Out :=
  .next (gate (.ldv v a g sz acq off) s (fun s =>
    s.load (s.me.formM g a (off.signExtend 64) (vsizeBytes sz) 0x01 0) true v.toNat false acq))

def execStv (v : VReg) (a : Reg) (g : SegNo) (sz : VSize) (rel : Bool) (off : BitVec 9) (s : State) : Out :=
  .next (gate (.stv v a g sz rel off) s (fun s =>
    if rel && s.me.burning then s.ill (.stv v a g sz rel off)
    else s.store (s.me.formM g a (off.signExtend 64) (vsizeBytes sz) 0x02 1) (bytesOf (s.me.getV v) (vsizeBytes sz))
      (if rel then some .sys else none)))

/-! ## Indexed accesses (R134) -/

/-- Lane i of 32 bits. -/
def lane32 (w : VWord) (i : Nat) : Nat := fld w.toNat (32 * i) 32

/-- Lanes of 32 bits that m0 lets through (R222). -/
def Slot.active32 (p : Slot) (mk : Bool) : List Nat := (List.range 16).filter (fun i => !mk || bitW (p.getM 0) i)

/-- The access of a lane: xb + 4 × index. -/
def Slot.laneAccess (p : Slot) (g : SegNo) (b : Reg) (index : VWord) (need : BitVec 8) (kind i : Nat) : Access :=
  ⟨g.toNat, p.getX b + BitVec.ofNat 64 (4 * lane32 index i), 4, 4, need, kind, false, false⟩

/-- The accesses of every active lane, all checked before any is translated: lanes with their pieces, or the first failure
with its access. -/
def State.resolveLanes (s : State) : List (Nat × Access) → State × Access × Resolved × List (Nat × List Piece)
  | [] => (s, ⟨0, 0, 0, 1, 0, 0, false, false⟩, .ok [], [])
  | (i, acc) :: rest =>
    match s.resolve s.cur acc with
    | (s, .ok ps) =>
      match s.resolveLanes rest with
      | (s, a, r, l) => (s, a, r, (i, ps) :: l)
    | (s, r) => (s, acc, r, [])

/-- Checks every active lane under R128 in ascending order, then translates every one; a failure faults or parks, and nothing is
accessed. -/
def State.lanes (s : State) (ls : List (Nat × Access)) (k : State → List (Nat × List Piece) → State) : State :=
  match ls.find? (fun e => (segCheck (s.me.seg e.2.seg) e.2).isSome) with
  | some (_, acc) => s.raise ((segCheck (s.me.seg acc.seg) acc).getD 0) acc.o acc.einfo
  | none =>
    match s.resolveLanes ls with
    | (s, acc, .fault c, _) => s.raise c acc.o acc.einfo
    | (s, acc, .page r va, _) => s.pageFault acc r va
    | (s, _, .ok _, l) => k s l

/-- Gathers lanes at their places in the register; `o` is the offset of a lane, for EADDR. -/
def State.gatherLanes (s : State) (seg : Nat) (o : Nat → Word) :
    List (Nat × List Piece) → State × List (Nat × Byte) × List FillWait × List (Nat × Byte) × Option Nat
  | [] => (s, [], [], [], none)
  | (i, ps) :: rest =>
    let (s, g) := s.gather s.cur seg false ps (4 * i)
    let (s, bs, ws, own, bad) := s.gatherLanes seg o rest
    (s, (List.range 4).map (fun k => (4 * i + k, (g.buf[k]?).getD 0)) ++ bs,
      g.waits.map (fun w => { w with ea := some (o i) }) ++ ws, g.own ++ own, if g.bad then some i else bad)

/-- LDVG (R134). -/
def execLdvg (v i : VReg) (b : Reg) (g : SegNo) (ty : Ty) (mk : Bool) (s : State) : Out :=
  .next (gate (.ldvg v i b g ty mk) s (fun s =>
    let index := s.me.getV i
    let ls := (s.me.active32 mk).map (fun k => (k, s.me.laneAccess g b index 0x01 0 k))
    s.lanes ls (fun s l =>
      if l.any (fun e => e.2.any (fun p => s.atomicAhead s.cur p.loc p.len)) then
        l.foldl (fun s e => e.2.foldl (fun s p => s.closeAhead p.loc p.len) s) s
      else
        let (s, bs, ws, own, bad) := s.gatherLanes g.toNat (fun k => (s.me.laneAccess g b index 0x01 0 k).o) l
        let acc := s.me.laneAccess g b index 0x01 0 (bad.getD ((l.head?.map (·.1)).getD 0))
        let old := bytesOf (s.me.getV v) 64
        (s.startFill acc true v.toNat false ⟨putBytes old bs, ws, own, bad.isSome⟩).advance)))

/-- STVS (R134): one entry; a later lane wins a shared word. -/
def execStvs (v i : VReg) (b : Reg) (g : SegNo) (ty : Ty) (mk : Bool) (s : State) : Out :=
  .next (gate (.stvs v i b g ty mk) s (fun s =>
    let index := s.me.getV i
    let data := s.me.getV v
    let ls := (s.me.active32 mk).map (fun k => (k, s.me.laneAccess g b index 0x02 1 k))
    s.lanes ls (fun s l =>
      match ls with
      | [] => s.advance
      | (_, acc) :: _ =>
        let parts := l.flatMap (fun e => splitParts e.2 (bytesOfNat 4 (lane32 data e.1)) none)
        s.enter acc (l.any (fun e => anyRemote e.2)) (s.entry (.write parts) none g.toNat) State.advance)))

/-! ## Fills (R27, R28) -/

/-- The value a fill delivers to an x register. -/
def Fill.xValue (f : Fill) : Word :=
  let w := leNat (f.buf.take f.size)
  if f.signed then sext (8 * f.size) w else BitVec.ofNat 64 w

/-- A fill lands (R27, R28, R107): its register turns full or present, or, when the fill failed, stays empty and the slot takes the
deferred trap. -/
def Slot.land (p : Slot) (k : Nat) (f : Fill) : Slot :=
  let q := { p with fills := p.fills.eraseIdx k }
  match f.failed with
  | some t =>
    { q with
      deferred := q.deferred ++ [t]
      xdead := if f.vec then q.xdead else setMask q.xdead f.reg true }
  | none =>
    if f.vec then q.setV (BitVec.ofNat 5 f.reg) (BitVec.ofNat 512 (leNat f.buf))
    else q.setX (BitVec.ofNat 4 f.reg) f.xValue

/-- Fill `k` of the slot lands once nothing of it is awaited. -/
def State.landFill (s : State) (slot k : Nat) (vec : Bool) : State :=
  match (s.slot slot).fills[k]? with
  | some f => if f.vec = vec ∧ f.waits = [] then s.updSlot slot (fun p => p.land k f) else s
  | none => s

def execLoadFill (slot k : Nat) (s : State) : Out := .next (s.landFill slot k false)
def execVectorLoadFill (slot k : Nat) (s : State) : Out := .next (s.landFill slot k true)

/-- Bytes arrive for the fills of a slot that wait for an answer, under the slot's own bytes (R133, R317). -/
def Fill.answer (f : Fill) (id : Nat) (bs : List Byte) (tag : Bool) : Fill :=
  let bs := if f.ofTag then bytesOfNat 8 (if tag then 1 else 0) else bs
  let put := (f.waits.filter (fun w => w.id == id)).flatMap (fun w =>
    (List.range w.len).filterMap (fun i => (bs[i]?).map (fun b => (w.pos + i, b))))
  if f.waits.any (fun w => w.id == id) then
    { f with buf := putBytes (putBytes f.buf put) f.own, waits := f.waits.filter (fun w => w.id != id) }
  else f

/-- The answer fails: the fill will deliver a deferred trap (R107). -/
def Fill.refuse (f : Fill) (id cause : Nat) (ea einfo : Word) : Fill :=
  if f.waits.any (fun w => w.id == id) then
    { f with waits := f.waits.filter (fun w => w.id != id), failed := some ⟨cause, ea, deferInfo f.pc einfo⟩ }
  else f

/-! ## Tagged words (R124, R135, R136) -/

/-- The word of 8 bytes that holds a place, whose tag a tagged access means (R36; log 35). -/
def wordLoc : Loc → Loc
  | .here a => .here (a / 8 * 8)
  | .there p a => .there p (a / 8 * 8)

/-- A word of the T format for the tagged forms. -/
def Slot.tagAccess (p : Slot) (g : SegNo) (a : Reg) (need : BitVec 8) (kind : Nat) : Access := p.formT g a 8 need kind true

/-- Tag changes of the slot to a word of another package that have not been acknowledged. -/
def State.tagAhead (s : State) (slot : Nat) (l : Loc) : Bool :=
  (bufferParts (s.slot slot).sb).any (fun w => w.tag.isSome && overlaps l 8 w.loc 8) ||
  s.flue.releases.any (fun r => r.slot == slot && match r.flit.body with
    | .write a _ (some _) => overlaps l 8 (.there r.dst a) 8
    | _ => false)

/-- The access completes without a value: its register, if it has one, stays empty, and the slot takes the deferred trap (R107,
R332). -/
def State.tagRefused (s : State) (t : RemoteTag) (cause : Nat) (ea : Word) : State :=
  let pc := s.me.pc.toNat % 2 ^ 32
  let s := s.upd (fun p =>
    let q := p.defer cause ea (deferInfo pc (if cause = Cause.remote then 0 else t.einfo))
    if t.kind = 2 then q else { q.emptyX t.reg with xdead := setMask q.xdead t.reg.toNat true })
  (s.advance).upd (fun p => { p with remoteTag := none })

/-- Package of a place, of this package's number where it lies here. -/
def State.pkgOf (s : State) : Loc → Nat
  | .here _ => s.pkg.number
  | .there d _ => d

/-- The slot looks at the tag again (R124). -/
def State.pollTag (s : State) (t : RemoteTag) : State :=
  match t.loc with
  | .here _ => s
  | .there d a =>
    let id := s.fresh
    ({ s with fresh := s.fresh + 1 }.emit (.read ⟨s.sidOf s.cur (getField t.einfo 16 3), d, id, a, 8, true, none⟩)).upd (fun p =>
      { p with remoteTag := some { t with id := id, poll := true, answer := none } })

/-- The slot parks on the tag. -/
def State.parkTag (s : State) (t : RemoteTag) (full : Bool) : State :=
  ((s.upd (fun p => { p with remoteTag := none })).parkOn (.tag t.loc full t.ea)).pollTag t

/-- The instruction completes with a value. -/
def State.tagValue (s : State) (t : RemoteTag) (w : Word) : State :=
  (s.upd (fun p => { p.setX t.reg w with remoteTag := none })).advance

/-- The instruction's write was refused where it would have been performed: counted, and covered by no later release (R128, R148,
R168). -/
def State.tagUnwritten (s : State) (t : RemoteTag) (bit_ : Nat) : State :=
  s.upd (fun p => (p.failWrites 1 bit_).loses (s.pkgOf t.loc))

/-- The answer to a tagged access or a returning AFADD acts on an own turn (R105, R124, R136, R137). -/
def State.tagAnswer (s : State) (t : RemoteTag) (r : TagReply) : State :=
  let clear (s : State) : State := s.upd (fun p => { p with remoteTag := none })
  match r with
  | .lost ea => s.tagRefused t Cause.remote ea
  | .got bytes tag x =>
    let w : Word := BitVec.ofNat 64 (leNat bytes)
    match x with
    | .refused => (if t.kind = 0 then s else s.tagUnwritten t Fence.refused).tagRefused t Cause.pagefail t.ea
    | .ecc =>
      if t.kind = 0 then (clear s).raise Cause.eccunc t.ea t.einfo
      else if t.kind = 2 then ((clear s).tagUnwritten t Fence.eccloss).advance
      else ((clear s).tagUnwritten t Fence.eccloss).raise Cause.eccunc t.ea t.einfo
    | .redconf => (clear s).raise Cause.redconf t.ea t.einfo
    | .tag => s.parkTag t (t.kind != 2)
    | .ok | .handler =>
      if t.kind = 0 then (if tag then s.tagValue t w else s.parkTag t true)
      else if t.kind = 2 then (clear s).advance
      else s.tagValue t w

/-- LDF of a word of another package: a READ, whose answer completes the instruction or parks the slot (R124, R317). -/
def State.askTag (s : State) (reg : Reg) (acc : Access) (dst a : Nat) : State :=
  let l := Loc.there dst a
  if s.tagAhead s.cur l || s.atomicAhead s.cur l 8 then s.closeAhead l 8
  else
    let id := s.fresh
    ({ s with fresh := s.fresh + 1 }.emit (.read ⟨s.sidOf s.cur acc.seg, dst, id, a, 8, true, none⟩)).upd (fun p =>
      { p with park := none, remoteTag := some ⟨id, 0, reg, l, acc.o, acc.einfo, false, none⟩ })

/-- TAGRD of a word of another package: a load whose answer's tag is the value (R129, R136). It never parks; it goes on and its fill
lands whatever becomes of a burn (R93). -/
def State.readTag (s : State) (t : Reg) (acc : Access) (dst a : Nat) : State :=
  let l := Loc.there dst a
  if s.tagAhead s.cur l || s.atomicAhead s.cur l 8 then s.closeAhead l 8
  else
    let id := s.fresh
    let g : Gathered := ⟨bytesOfNat 8 0, [⟨id, 0, 8, s.globalOf l, none⟩], [], false⟩
    let s := { s with fresh := s.fresh + 1 }.emit (.read ⟨s.sidOf s.cur acc.seg, dst, id, a, 8, true, none⟩)
    ((s.startFill acc false t.toNat false g).upd (fun p => { p with fills := p.fills.map (fun (f : Fill) =>
      if f.waits.any (fun w => w.id == id) then { f with ofTag := true } else f) })).advance.acquire true g .sys

/-- A request of a slot that acts on a word of another package: as a RELEASE (R329), or with a SEQ in a window (R326). None while it must
wait for room, or for earlier windows when it is a release. -/
def State.sendRequest (s : State) (slot seg dst a : Nat) (rel : Bool) (r : AtomicReq) : Option State :=
  if rel then
    if s.releaseReady slot dst && decide (s.storeUsed slot < sendStoreSize) then
      some ((s.releaseHome slot).sendRelease slot seg dst (.atomic r) false (s.globalOf (.there dst a)) r.pc)
    else none
  else if s.canSend slot seg dst [wordMask a r.size] then some (s.sendAtomic slot seg dst a r) else none

/-- An instruction that acts on a word of another package and waits there for the answer: LDFE, STEF, a returning AFADD (R136, R145). It
is performed after everything older of the slot there, parks on a full send store (R21, R133), and never leaves when a write it covers
has been lost (R168). -/
def State.askAtomic (s : State) (kind : Nat) (reg : Reg) (acc : Access) (dst a : Nat) (rel : Bool) (r : AtomicReq) : State :=
  let l := Loc.there dst a
  let t : RemoteTag := ⟨s.fresh, kind, reg, l, acc.o, acc.einfo, false, none⟩
  if s.tagAhead s.cur l || s.atomicAhead s.cur l r.size then s.closeAhead l r.size
  else if !s.me.sb.isEmpty || s.passing s.cur || (rel && !s.settled s.cur) then s
  else if rel && s.me.lost.contains dst then s.tagRefused t Cause.remote (s.globalOf l)
  else if sendStoreSize ≤ s.storeUsed s.cur then s.parkOn .sendStore
  else match { s with fresh := s.fresh + 1 }.sendRequest s.cur acc.seg dst a rel { r with ret := some s.fresh } with
    | some s => s.upd (fun p => { p with park := none, remoteTag := some t })
    | none => if rel then s.closeToward s.cur dst else s

/-- A write of the slot to a package acts as a release there: it is one, or an earlier fence makes it one while earlier writes are not
acknowledged or are lost (R160, R168). -/
def State.releasesNow (s : State) (dst : Nat) (own : Bool) : Bool :=
  own || (s.me.fenceRel.isSome && (s.outstandingTo s.cur dst || s.me.lost.contains dst))

/-- LDFE or STEF of a word of another package (R136): STEF is a release (R160, R329), and what the slot's hearth holds of its writes goes
home first at `.pkg` and `.sys` (R161). -/
def State.askStep (s : State) (kind : Nat) (reg : Reg) (acc : Access) (sc : Scope) (dst a : Nat) (op : AtomicOp) (b : Word) : State :=
  let r : AtomicReq := ⟨op, .there dst a, 8, b, 0, none, s.cur, s.me.pc.toNat % 2 ^ 32, s.me.det, acc.o, none, acc.seg⟩
  (if scopeRank .pkg ≤ scopeRank sc ∧ s.me.sb = [] then s.releaseHome s.cur else s).askAtomic kind reg acc dst a
    (s.releasesNow dst (op == .stef)) r

/-- Where a tagged access lands: the instruction acts here, or asks another package. -/
def State.tagWord (s : State) (acc : Access) (here : State → Nat → State) (there : State → Nat → Nat → State) : State :=
  s.access acc (fun s ps =>
    match ps with
    | [] => s
    | p :: _ =>
      match wordLoc p.loc with
      | .here a => here s a
      | .there d a => there s d a)

/-- LDF (R124): parks on an empty tag; it is an acquire.
DESIGN CHOICE (log 93): an uncorrectable word is LDF's own ECCUNC, since LDF waits for the word's tag; in another package it comes with
the answer. -/
def execLdf (t a : Reg) (g : SegNo) (sc : Scope) (s : State) : Out :=
  .next (gate (.ldf t a g sc) s (fun s =>
    let acc := s.me.tagAccess g a 0x09 0
    s.tagWord acc
      (fun s w =>
        if s.atomicAhead s.cur (.here w) 8 then s
        else if !s.slotTag s.cur w then s.parkOn (.tag (.here w) true acc.o)
        else if s.loadBad s.cur w 8 then s.raise Cause.eccunc acc.o acc.einfo
        else (s.startFill acc false t.toNat false ⟨s.loadHere s.cur w 8, [], [], false⟩).advance)
      (fun s d w => s.askTag t acc d w)))

/-- TAGRD (R136): never parks. -/
def execTagrd (t a : Reg) (g : SegNo) (sc : Scope) (s : State) : Out :=
  .next (gate (.tagrd t a g sc) s (fun s =>
    let acc := s.me.tagAccess g a 0x09 0
    s.tagWord acc
      (fun s w =>
        if s.atomicAhead s.cur (.here w) 8 then s
        else (s.startFill acc false t.toNat false
          ⟨bytesOfNat 8 (if s.slotTag s.cur w then 1 else 0), [], [], s.loadBad s.cur w 8⟩).advance)
      (fun s d w => s.readTag t acc d w)))

/-- The indivisible tag steps at the word (R136, R139), after everything the slot's release covers (R160). -/
def State.tagStep (s : State) (sc : Scope) (w : Nat) (k : State → State) : State :=
  if !s.me.sb.isEmpty || !s.settled s.cur then s
  else
    let s := if scopeRank .pkg ≤ scopeRank sc then s.releaseHome s.cur else s
    k (s.mergeWord w)

/-- LDFE (R136): ILL in a burn (R130). -/
def execLdfe (t a : Reg) (g : SegNo) (sc : Scope) (s : State) : Out :=
  .next (gate (.ldfe t a g sc) s (fun s =>
    if s.me.burning then s.ill (.ldfe t a g sc)
    else
      let acc := s.me.tagAccess g a 0x0B 3
      s.tagWord acc
        (fun s w => s.tagStep sc w (fun s =>
          if !s.homeTag w then s.parkOn (.tag (.here w) true acc.o)
          else if s.badAt w 8 then s.raise Cause.eccunc acc.o acc.einfo
          else ((s.startFill acc false t.toNat false ⟨s.homeBytes w 8, [], [], false⟩).setHomeTag w false).advance))
        (fun s d w => s.askStep 1 t acc sc d w .ldfe 0)))

/-- STEF (R136): ILL in a burn (R130). -/
def execStef (t a : Reg) (g : SegNo) (sc : Scope) (s : State) : Out :=
  .next (gate (.stef t a g sc) s (fun s =>
    if s.me.burning then s.ill (.stef t a g sc)
    else
      let acc := s.me.tagAccess g a 0x0A 3
      s.tagWord acc
        (fun s w => s.tagStep sc w (fun s =>
          if s.homeTag w then s.parkOn (.tag (.here w) false acc.o)
          else if s.writeRefused w 8 then (s.upd (fun p => p.failWrites 1 Fence.eccloss)).advance
          else ((s.writeHome w (bytesOf (s.me.getX t) 8)).setHomeTag w true).advance))
        (fun s d w => s.askStep 2 t acc sc d w .stef (s.me.getX t))))

/-- The part of a tagged store: its word, whatever the run's cut. -/
def wordPart (ps : List Piece) (bs : List Byte) (full : Bool) : List WritePart :=
  (ps.take 1).map (fun p => ⟨wordLoc p.loc, bs, some full, p.va.map (fun v => v / 8 * 8)⟩)

/-- A held or buffered tag change (R124): never waits on the tag; a release at its scope. -/
def State.tagStore (s : State) (acc : Access) (sc : Scope) (bs : List Byte) (full : Bool) : State :=
  s.access acc (fun s ps =>
    s.enter acc (anyRemote ps) (s.entry (.write (wordPart ps bs full)) (some sc) acc.seg) State.advance)

/-- STF (R124). -/
def execStf (t a : Reg) (g : SegNo) (sc : Scope) (s : State) : Out :=
  .next (gate (.stf t a g sc) s (fun s =>
    if s.me.burning && decide (scopeRank .hearth < scopeRank sc) then s.ill (.stf t a g sc)
    else s.tagStore (s.me.tagAccess g a 0x0A 1) sc (bytesOf (s.me.getX t) 8) true))

/-- TAGSET (R124). -/
def execTagset (v a : Reg) (g : SegNo) (sc : Scope) (s : State) : Out :=
  .next (gate (.tagset v a g sc) s (fun s =>
    if s.me.burning && decide (scopeRank .hearth < scopeRank sc) then s.ill (.tagset v a g sc)
    else s.tagStore (s.me.tagAccess g a 0x0A 1) sc [] (v == 1)))

end Sys2Proof.Machine
end

