-- ==== Sys2Proof/Machine/Handlers.lean ====
section
/-! DEFINITION. Atomic handlers that the supervisor loads (21_flue R333, R334): the words they may hold, and how they run. -/
namespace Sys2Proof.Machine

/-- The integer words a handler may hold, with their meaning (R334). -/
def handlerAlu : Instr → Option (State → Out)
  | .add d a b sz => some (execAdd d a b sz)
  | .sub d a b sz => some (execSub d a b sz)
  | .mul d a b sz => some (execMul d a b sz)
  | .mulh d a b sz => some (execMulh d a b sz)
  | .mulhn d a b sz => some (execMulhn d a b sz)
  | .and d a b sz => some (execAnd d a b sz)
  | .andn d a b sz => some (execAndn d a b sz)
  | .or d a b sz => some (execOr d a b sz)
  | .xor d a b sz => some (execXor d a b sz)
  | .shl d a b sz => some (execShl d a b sz)
  | .shr d a b sz => some (execShr d a b sz)
  | .sra d a b sz => some (execSra d a b sz)
  | .rol d a b sz => some (execRol d a b sz)
  | .ror d a b sz => some (execRor d a b sz)
  | .min d a b sz => some (execMin d a b sz)
  | .max d a b sz => some (execMax d a b sz)
  | .minn d a b sz => some (execMinn d a b sz)
  | .maxn d a b sz => some (execMaxn d a b sz)
  | .sel d a b => some (execSel d a b)
  | .cmpeq d a b sz => some (execCmpeq d a b sz)
  | .cmpne d a b sz => some (execCmpne d a b sz)
  | .cmplt d a b sz => some (execCmplt d a b sz)
  | .cmpltn d a b sz => some (execCmpltn d a b sz)
  | .cmple d a b sz => some (execCmple d a b sz)
  | .cmplen d a b sz => some (execCmplen d a b sz)
  | .abs d a sz => some (execAbs d a sz)
  | .neg d a sz => some (execNeg d a sz)
  | .clz d a sz => some (execClz d a sz)
  | .ctz d a sz => some (execCtz d a sz)
  | .popc d a sz => some (execPopc d a sz)
  | .brev d a sz => some (execBrev d a sz)
  | .bfx d a b => some (execBfx d a b)
  | .bfxs d a b => some (execBfxs d a b)
  | .bfi d a b => some (execBfi d a b)
  | .sext d a sz => some (execSext d a sz)
  | .zext d a sz => some (execZext d a sz)
  | .mov d a => some (execMov d a)
  | .addi d a imm => some (execAddi d a imm)
  | .andi d a imm => some (execAndi d a imm)
  | .ori d a imm => some (execOri d a imm)
  | .xori d a imm => some (execXori d a imm)
  | .muli d a imm => some (execMuli d a imm)
  | .shli d a k => some (execShli d a k)
  | .shri d a k => some (execShri d a k)
  | .srai d a k => some (execSrai d a k)
  | .cmpi d a c m => some (execCmpi d a c m)
  | _ => none

/-- The word that ends a handler. -/
def handlerEnd : Nat := 2

/-- A word a handler may hold (R334). -/
def handlerWord (w : Nat) : Bool :=
  match decode w with
  | .error _ => false
  | .ok i =>
    match i with
    | .ld _ _ g _ acq _ => g == 0 && !acq
    | .ldn _ _ g _ acq _ => g == 0 && !acq
    | .st _ _ g _ rel _ => g == 0 && !rel
    | i => (handlerAlu i).isSome

/-- The words of an entry before its end word. -/
def handlerBody : List Nat → List Nat
  | [] => []
  | w :: ws => if w = handlerEnd then [] else w :: handlerBody ws

/-- Registers of a handler and the 128-byte line it works on. -/
structure HandlerState where
  x : Vector Word 16
  line : List Byte
  deriving DecidableEq, Repr

/-- An integer word of a handler: the meaning of the instruction on a slot with the handler's registers (R334). -/
def HandlerState.alu (h : HandlerState) (f : State → Out) : HandlerState :=
  match f (State.reset.setSlot 1 { Slot.free with x := h.x } |> fun s => { s with cur := 1 }) with
  | .next s => { h with x := (s.slot 1).x }
  | _ => h

/-- Byte of the line an access reaches, with its size; none when it is misaligned. -/
def HandlerState.at (h : HandlerState) (a : Reg) (off : BitVec 10) (size : Nat) : Option Nat :=
  let o := (h.x[a.toNat] + off.signExtend 64 * BitVec.ofNat 64 size).toNat % 128
  if o % size = 0 then some o else none

/-- One word of a handler; none when it ends misaligned. -/
def HandlerState.word (h : HandlerState) (w : Nat) : Option HandlerState :=
  match decode w with
  | .error _ => some h
  | .ok i =>
    match i with
    | .ld t a _ sz _ off => (h.at a off (msizeBytes sz)).map (fun o =>
        { h with x := h.x.set t.toNat (sext (8 * msizeBytes sz) (leNat ((h.line.drop o).take (msizeBytes sz)))) })
    | .ldn t a _ sz _ off => (h.at a off (msizeBytes sz)).map (fun o =>
        { h with x := h.x.set t.toNat (BitVec.ofNat 64 (leNat ((h.line.drop o).take (msizeBytes sz)))) })
    | .st t a _ sz _ off => (h.at a off (msizeBytes sz)).map (fun o =>
        { h with line := putBytes h.line ((List.range (msizeBytes sz)).map (fun k => (o + k, ((bytesOf h.x[t.toNat] 8)[k]?).getD 0))) })
    | i => some (match handlerAlu i with
      | some f => h.alu f
      | none => h)

/-- Runs a handler's words in order. -/
def HandlerState.run (h : HandlerState) : List Nat → Option HandlerState
  | [] => some h
  | w :: ws =>
    match h.word w with
    | some h => h.run ws
    | none => none

/-- A handler on the word at byte `o` of its line: the new word, the result and the new line; none when an access is misaligned. -/
def runHandler (ws : List Nat) (old b : Word) (o : Nat) (line : List Byte) : Option (Word × Word × List Byte) :=
  let x := ((Vector.replicate 16 (0 : Word)).set 0 old |>.set 1 b |>.set 2 (BitVec.ofNat 64 o))
  match HandlerState.run ⟨x, line⟩ ws with
  | some h => some (h.x[0], h.x[1], h.line)
  | none => none

end Sys2Proof.Machine
end

