-- ==== Sys2Proof/Machine/Numbers.lean ====
section
/-! DEFINITION. Number formats (13_numbers R203 to R210): decoding, exact arithmetic on dyadic numbers, Round, and the conversions
with their sticky bits. -/
namespace Sys2Proof.Machine

/-- A floating-point format (R204): exponent and mantissa widths, bias, whether it has infinities, and its largest finite
encoding without the sign. -/
structure FloatFmt where
  ew : Nat
  mw : Nat
  bias : Nat
  hasInf : Bool
  top : Nat
  deriving DecidableEq, Repr

def fmtF64 : FloatFmt := ⟨11, 52, 1023, true, 0x7FEFFFFFFFFFFFFF⟩
def fmtF32 : FloatFmt := ⟨8, 23, 127, true, 0x7F7FFFFF⟩
def fmtF16 : FloatFmt := ⟨5, 10, 15, true, 0x7BFF⟩
def fmtBf16 : FloatFmt := ⟨8, 7, 127, true, 0x7F7F⟩
def fmtE4m3 : FloatFmt := ⟨4, 3, 7, false, 0x7E⟩
def fmtE5m2 : FloatFmt := ⟨5, 2, 15, true, 0x7B⟩
def fmtE2m1 : FloatFmt := ⟨2, 1, 1, false, 0x7⟩

/-- Position of the sign bit. -/
def FloatFmt.sign (f : FloatFmt) : Nat := f.ew + f.mw

/-- Infinity without its sign (R204). -/
def FloatFmt.infBits (f : FloatFmt) : Nat := (2 ^ f.ew - 1) * 2 ^ f.mw

/-- The default NaN (R205). -/
def FloatFmt.nanBits (f : FloatFmt) : Nat :=
  if f.hasInf then f.infBits + 2 ^ (f.mw - 1) else 2 ^ f.sign - 1

/-- The value of an encoding: a NaN, an infinity, or ± mag × 2^exp (R205). -/
inductive Num where
  | nan (signaling : Bool)
  | inf (neg : Bool)
  | fin (neg : Bool) (mag : Nat) (exp : Int)
  deriving DecidableEq, Repr

/-- Decodes an encoding (R205). Only the formats of 16 bits and more have signaling NaNs; e2m1 has no NaN. -/
def FloatFmt.read (f : FloatFmt) (bits : Nat) : Num :=
  let neg := bitOf bits f.sign
  let e := fld bits f.mw f.ew
  let m := fld bits 0 f.mw
  if f.hasInf ∧ e = 2 ^ f.ew - 1 then
    if m = 0 then .inf neg else .nan (decide (7 ≤ f.mw) && !bitOf m (f.mw - 1))
  else if f = fmtE4m3 ∧ bits % 128 = 127 then .nan false
  else if e = 0 then .fin neg m (1 - f.bias - f.mw)
  else .fin neg (2 ^ f.mw + m) ((e : Int) - f.bias - f.mw)

/-! ## Exact arithmetic on dyadic numbers m × 2^e -/

structure Dyadic where
  m : Int
  e : Int
  deriving DecidableEq, Repr

def Dyadic.zero : Dyadic := ⟨0, 0⟩
def Dyadic.add (a b : Dyadic) : Dyadic :=
  let e := min a.e b.e
  ⟨a.m * 2 ^ (a.e - e).toNat + b.m * 2 ^ (b.e - e).toNat, e⟩
def Dyadic.mul (a b : Dyadic) : Dyadic := ⟨a.m * b.m, a.e + b.e⟩
def Dyadic.neg (a : Dyadic) : Dyadic := ⟨-a.m, a.e⟩
/-- −1, 0 or 1 as a is below, equal to or above b. -/
def Dyadic.cmp (a b : Dyadic) : Int := (a.add b.neg).m.sign

/-- A finite value as a dyadic number. -/
def finDyadic (neg : Bool) (mag : Nat) (exp : Int) : Dyadic := ⟨if neg then -(mag : Int) else mag, exp⟩

/-! ## Round (R207) -/

/-- The result of Round: bits, whether the IEEE result overflows, to an infinity, and the flags raised. -/
structure Rounded where
  bits : Nat
  overflow : Bool
  toInf : Bool
  flags : Sticky
  deriving DecidableEq, Repr

/-- Whether a magnitude q + r / 2^sh rounds away from zero in a mode. -/
def roundsUp (mode : Round) (neg : Bool) (q r sh : Nat) : Bool :=
  match mode with
  | .rne => decide (2 ^ sh < 2 * r) || (decide (2 * r = 2 ^ sh) && decide (q % 2 = 1))
  | .rtz => false
  | .rup => !neg && decide (r ≠ 0)
  | .rdn => neg && decide (r ≠ 0)

/-- A magnitude in units of 2^sh, rounded to an integer; answers whether it was exact. -/
def roundShift (mode : Round) (neg : Bool) (mag : Nat) (sh : Int) : Nat × Bool :=
  if sh ≤ 0 then (mag * 2 ^ (-sh).toNat, true)
  else
    let k := sh.toNat
    let q := mag / 2 ^ k
    let r := mag % 2 ^ k
    (if roundsUp mode neg q r k then q + 1 else q, r == 0)

/-- Largest finite exponent and significand of a format. -/
def FloatFmt.topExp (f : FloatFmt) : Int := (f.top / 2 ^ f.mw : Nat) - (f.bias : Int)
def FloatFmt.topSig (f : FloatFmt) : Nat := 2 ^ f.mw + f.top % 2 ^ f.mw

/-- The overflowed result of a mode (R207): an infinity or the largest finite value. -/
def overflowsToInf (mode : Round) (neg : Bool) : Bool :=
  match mode with
  | .rne => true
  | .rtz => false
  | .rup => !neg
  | .rdn => neg

/-- Round of ± mag × 2^exp, mag > 0. -/
def FloatFmt.roundMag (f : FloatFmt) (mode : Round) (neg : Bool) (mag : Nat) (exp : Int) : Rounded :=
  let s := if neg then 2 ^ f.sign else 0
  let lead := exp + (Nat.log2 mag : Int)
  let (u, ux) := roundShift mode neg mag (lead - f.mw - exp)
  let (e, sig) := if u = 2 ^ (f.mw + 1) then (lead + 1, 2 ^ f.mw) else (lead, u)
  if f.topExp < e ∨ (f.topExp = e ∧ f.topSig < sig) then
    let inf := overflowsToInf mode neg
    ⟨s + (if inf && f.hasInf then f.infBits else f.top), true, inf, Sticky.of_.or .nx⟩
  else if e < 1 - (f.bias : Int) then
    let (t, tx) := roundShift mode neg mag (1 - f.bias - f.mw - exp)
    ⟨s + t, false, false, Sticky.when (!tx) (Sticky.uf.or .nx)⟩
  else ⟨s + (e + f.bias).toNat * 2 ^ f.mw + (sig - 2 ^ f.mw), false, false, Sticky.when (!ux) .nx⟩

/-- Round of a dyadic number; an exact zero takes the sign given. -/
def FloatFmt.round (f : FloatFmt) (mode : Round) (d : Dyadic) (zeroNeg : Bool) : Rounded :=
  if d.m = 0 then ⟨if zeroNeg then 2 ^ f.sign else 0, false, false, .clear⟩
  else f.roundMag mode (decide (d.m < 0)) d.m.natAbs d.e

/-- Bits of an infinity. -/
def FloatFmt.inf (f : FloatFmt) (neg : Bool) : Nat := (if neg then 2 ^ f.sign else 0) + f.infBits

/-! ## Arithmetic (R205, R225, R226) -/

/-- A result and the sticky bits it raises. -/
abbrev Res := Nat × Sticky

def Num.isNan : Num → Bool
  | .nan _ => true
  | _ => false
def Num.isSnan : Num → Bool
  | .nan s => s
  | _ => false
/-- NV when an operand is a signaling NaN (R205). -/
def snanFlag (xs : List Num) : Sticky := Sticky.when (xs.any Num.isSnan) .nv
def FloatFmt.invalid (f : FloatFmt) : Res := (f.nanBits, .nv)
def FloatFmt.quiet (f : FloatFmt) (xs : List Num) : Res := (f.nanBits, snanFlag xs)
def Rounded.res (r : Rounded) : Res := (r.bits, r.flags)

/-- Round(a + b). -/
def FloatFmt.addNum (f : FloatFmt) (a b : Num) : Res :=
  match a, b with
  | .nan s, y => f.quiet [.nan s, y]
  | x, .nan s => f.quiet [x, .nan s]
  | .inf p, .inf q => if p = q then (f.inf p, .clear) else f.invalid
  | .inf p, _ => (f.inf p, .clear)
  | _, .inf q => (f.inf q, .clear)
  | .fin p x d, .fin q y e => (f.round .rne ((finDyadic p x d).add (finDyadic q y e)) (p && q)).res

def Num.negate : Num → Num
  | .nan s => .nan s
  | .inf p => .inf (!p)
  | .fin p x d => .fin (!p) x d

def FloatFmt.add (f : FloatFmt) (a b : Nat) : Res := f.addNum (f.read a) (f.read b)
def FloatFmt.sub (f : FloatFmt) (a b : Nat) : Res := f.addNum (f.read a) (f.read b).negate

/-- A product that is exact: NaN, infinity, or a finite value; none for 0 × ∞. -/
def mulNum (a b : Num) : Option Num :=
  match a, b with
  | .nan s, y => some (.nan (s || y.isSnan))
  | x, .nan s => some (.nan (s || x.isSnan))
  | .inf p, .inf q => some (.inf (p != q))
  | .inf p, .fin q y _ => if y = 0 then none else some (.inf (p != q))
  | .fin p x _, .inf q => if x = 0 then none else some (.inf (p != q))
  | .fin p x d, .fin q y e => some (.fin (p != q) (x * y) (d + e))

/-- Round(a × b). -/
def FloatFmt.mul (f : FloatFmt) (a b : Nat) : Res :=
  match mulNum (f.read a) (f.read b) with
  | none => f.invalid
  | some (.nan s) => f.quiet [.nan s]
  | some (.inf p) => (f.inf p, .clear)
  | some (.fin p x d) => (f.round .rne (finDyadic p x d) p).res

/-- Round(± a × b ± d): one rounding (R226). -/
def FloatFmt.fma (f : FloatFmt) (negP negD : Bool) (a b d : Nat) : Res :=
  let p := mulNum (f.read a) (f.read b)
  let d := if negD then (f.read d).negate else f.read d
  match p with
  | none => f.invalid
  | some p => f.addNum (if negP then p.negate else p) d

/-- a < b of numbers, with −0 below +0. -/
def numBelow (a b : Num) : Bool :=
  match a, b with
  | .inf p, .inf q => p && !q
  | .inf p, .fin _ _ _ => p
  | .fin _ _ _, .inf q => !q
  | .fin p x d, .fin q y e =>
    if x = 0 ∧ y = 0 then p && !q else decide ((finDyadic p x d).cmp (finDyadic q y e) < 0)
  | _, _ => false

/-- minimumNumber and maximumNumber of IEEE 754-2019 (R225). -/
def FloatFmt.minMax (f : FloatFmt) (max : Bool) (a b : Nat) : Res :=
  let x := f.read a
  let y := f.read b
  let nv := snanFlag [x, y]
  if x.isNan then (if y.isNan then (f.nanBits, nv) else (b, nv))
  else if y.isNan then (a, nv)
  else if max then (if numBelow x y then b else a, nv)
  else (if numBelow y x then b else a, nv)

/-- Round(a + b) of binary32 or binary64 without flags (R138). -/
def floatSum (w a b : Nat) : Nat := if w = 32 then (fmtF32.add a b).1 else (fmtF64.add a b).1

/-- A comparison of R229: NaN makes every condition but NE false. -/
def FloatFmt.compare (f : FloatFmt) (c : Cond) (a b : Nat) : Bool × Sticky :=
  let x := f.read a
  let y := f.read b
  let nv := snanFlag [x, y]
  if x.isNan || y.isNan then (c == .ne, nv)
  else
    let zero : Bool := match x, y with
      | .fin _ m _, .fin _ n _ => m == 0 && n == 0
      | _, _ => false
    let lt := !zero && numBelow x y
    let gt := !zero && numBelow y x
    ((match c with
      | .eq => !lt && !gt
      | .ne => lt || gt
      | .lt | .ltn => lt
      | .ge | .gen => !lt
      | .le | .len => !gt
      | .gt | .gtn => gt
      | .al => true), nv)

/-! ## Types as formats (R46, R203, R204) -/

/-- Width of an element in bits. -/
def tyBits : Ty → Nat
  | .s8 | .n8 | .e4m3 | .e5m2 => 8
  | .s16 | .n16 | .f16 | .bf16 => 16
  | .s32 | .n32 | .f32 => 32
  | .s64 | .n64 | .f64 => 64
  | .e2m1 => 4

def tySigned : Ty → Bool
  | .s8 | .s16 | .s32 | .s64 => true
  | _ => false

def tyInt : Ty → Bool
  | .s8 | .n8 | .s16 | .n16 | .s32 | .n32 | .s64 | .n64 => true
  | _ => false

def tyFmt : Ty → FloatFmt
  | .f16 => fmtF16
  | .bf16 => fmtBf16
  | .f64 => fmtF64
  | .e4m3 => fmtE4m3
  | .e5m2 => fmtE5m2
  | .e2m1 => fmtE2m1
  | _ => fmtF32

/-- An element of an integer type as an integer. -/
def intValue (ty : Ty) (b : Nat) : Int := if tySigned ty then sgn (tyBits ty) b else (b % 2 ^ tyBits ty : Nat)

def intMin (ty : Ty) : Int := if tySigned ty then -(2 ^ (tyBits ty - 1) : Nat) else 0
def intMax (ty : Ty) : Int := if tySigned ty then (2 ^ (tyBits ty - 1) : Nat) - 1 else (2 ^ tyBits ty : Nat) - 1

/-- An integer clamped to a type's range, with its bits; answers whether it was clamped. -/
def clampInt (ty : Ty) (v : Int) : Nat × Bool :=
  if v < intMin ty then (wrap (tyBits ty) (intMin ty), true)
  else if intMax ty < v then (wrap (tyBits ty) (intMax ty), true)
  else (wrap (tyBits ty) v, false)

/-! ## Conversions (R208, R209, R231) -/

/-- A narrow format resolves an overflow to an infinity (R208). -/
def narrowOverflow (ty : Ty) (neg nanMode : Bool) (flags : Sticky) : Res :=
  let s (w : Nat) : Nat := if neg then 2 ^ (w - 1) else 0
  match ty with
  | .e4m3 => if nanMode then (0x7F, flags) else (s 8 + 0x7E, flags.or .sat)
  | .e5m2 => if nanMode then (s 8 + 0x7C, flags) else (s 8 + 0x7B, flags.or .sat)
  | .e2m1 => (s 4 + 0x7, flags.or .sat)
  | _ => ((tyFmt ty).inf neg, flags)

/-- The destination is e4m3, e5m2 or e2m1. -/
def narrowTy : Ty → Bool
  | .e4m3 | .e5m2 | .e2m1 => true
  | _ => false

/-- A dyadic number as a floating-point element (R207, R208). -/
def roundTo (ty : Ty) (mode : Round) (nanMode : Bool) (d : Dyadic) (zeroNeg : Bool) : Res :=
  let r := (tyFmt ty).round mode d zeroNeg
  if narrowTy ty && r.overflow && r.toInf then narrowOverflow ty (decide (d.m < 0)) nanMode r.flags
  else r.res

/-- A floating-point value as a floating-point element. -/
def numTo (ty : Ty) (mode : Round) (nanMode : Bool) (x : Num) : Res :=
  match x with
  | .nan s => if ty = .e2m1 then (0, .nv) else ((tyFmt ty).nanBits, Sticky.when s .nv)
  | .inf p =>
    match ty with
    | .e4m3 => if nanMode then (0x7F, .clear) else narrowOverflow ty p nanMode .clear
    | .e2m1 => narrowOverflow ty p nanMode .clear
    | _ => ((tyFmt ty).inf p, .clear)
  | .fin p m e => roundTo ty mode nanMode (finDyadic p m e) p

/-- A dyadic number rounded to an integer; answers whether it was exact. -/
def roundInt (mode : Round) (d : Dyadic) : Int × Bool :=
  let neg := decide (d.m < 0)
  let (q, x) := roundShift mode neg d.m.natAbs (-d.e)
  (if neg then -(q : Int) else q, x)

/-- A floating-point value as an integer element (R209). -/
def numToInt (ty : Ty) (mode : Round) (k : Int) (x : Num) : Res :=
  match x with
  | .nan _ => (0, .nv)
  | .inf p => ((clampInt ty (if p then intMin ty - 1 else intMax ty + 1)).1, Sticky.nv.or .sat)
  | .fin p m e =>
    let (v, exact) := roundInt mode (finDyadic p m (e + k))
    let (b, clamped) := clampInt ty v
    if clamped then (b, Sticky.nv.or .sat) else (b, Sticky.when (!exact) .nx)

/-- A floating-point value scaled by 2^k. -/
def Num.scale (x : Num) (k : Int) : Num :=
  match x with
  | .fin p m e => .fin p m (e + k)
  | x => x

/-- One element converted from `src` to `dst`, multiplied by 2^k before (R230, R231). -/
def convert (src dst : Ty) (mode : Round) (nanMode : Bool) (k : Int) (b : Nat) : Res :=
  if tyInt src then
    if tyInt dst then
      if tyBits src < tyBits dst then (wrap (tyBits dst) (intValue src b), Sticky.clear)
      else
        let (r, clamped) := clampInt dst (intValue src b)
        (r, Sticky.when clamped .sat)
    else roundTo dst mode nanMode ⟨intValue src b, k⟩ false
  else
    let x := (tyFmt src).read b
    if tyInt dst then numToInt dst mode k x else numTo dst mode nanMode (x.scale k)

end Sys2Proof.Machine
end

