-- ==== Sys2Proof/Machine/Atomics.lean ====
section
/-! DEFINITION. Atomics, atomic handlers and ordered reductions (09_memory R137 to R145). -/
namespace Sys2Proof.Machine

/-! ## What the engine of a word's home computes (R137, R138, R140) -/

/-- New word and result of fixed handler h (R140). -/
def fixedHandler (h : Nat) (old b : Word) : Word × Word :=
  let o := old.toNat
  let n := b.toNat
  match h with
  | 0 => (BitVec.ofInt 64 (min (2 ^ 63 - 1) (max (-(2 ^ 63)) (old.toInt + b.toInt))), old)
  | 1 => (BitVec.ofNat 64 (min (2 ^ 64 - 1) (o + n)), old)
  | 2 => (if o = 0 then 0 else old - 1, old)
  | 3 => (if n ≤ o + 1 then 0 else old + 1, old)
  | 4 => (old ||| BitVec.ofNat 64 (2 ^ (n % 64)), BitVec.ofNat 64 (o / 2 ^ (n % 64) % 2))
  | 5 => (old &&& ~~~BitVec.ofNat 64 (2 ^ (n % 64)), BitVec.ofNat 64 (o / 2 ^ (n % 64) % 2))
  | 6 =>
    match (List.range 64).find? (fun i => !bitOf o i) with
    | some i => (old ||| BitVec.ofNat 64 (2 ^ i), BitVec.ofNat 64 i)
    | none => (old, 64)
  | 7 => (BitVec.ofNat 64 ((o % 2 ^ 32 + n % 2 ^ 32) % 2 ^ 32 + (o / 2 ^ 32 + n / 2 ^ 32) % 2 ^ 32 * 2 ^ 32), old)
  | 8 => (BitVec.ofNat 64 (floatSum 32 (o % 2 ^ 32) (n % 2 ^ 32) + floatSum 32 (o / 2 ^ 32) (n / 2 ^ 32) * 2 ^ 32), old)
  | 9 => (BitVec.ofNat 64 (fmtF64.minMax true o n).1, old)
  | 10 => (BitVec.ofNat 64 (fmtF64.minMax false o n).1, old)
  | 11 => (if sgn 32 (o / 2 ^ 32) < sgn 32 (n / 2 ^ 32) ∨ (o / 2 ^ 32 = n / 2 ^ 32 ∧ n % 2 ^ 32 < o % 2 ^ 32) then b else old, old)
  | 12 => (if sgn 32 (n / 2 ^ 32) < sgn 32 (o / 2 ^ 32) ∨ (o / 2 ^ 32 = n / 2 ^ 32 ∧ n % 2 ^ 32 < o % 2 ^ 32) then b else old, old)
  | 13 => (if o = 0 then b else old, old)
  | 14 => if o + n % 2 ^ 32 ≤ n / 2 ^ 32 then (BitVec.ofNat 64 (o + n % 2 ^ 32), old) else (old, BitVec.allOnes 64)
  | _ => (old, old)

/-- New value of an integer kind, or AFADD, at w bits (R137). -/
def atomicNew (op : AtomicOp) (w old b c : Nat) : Nat :=
  match op with
  | .add => (old + b) % 2 ^ w
  | .and => old &&& b
  | .or => old ||| b
  | .xor => old ^^^ b
  | .min => if sgn w old ≤ sgn w b then old else b
  | .max => if sgn w b ≤ sgn w old then old else b
  | .minn => if old ≤ b then old else b
  | .maxn => if b ≤ old then old else b
  | .xch => b
  | .cas => if old = c then b else old
  | .fadd => floatSum w old b
  | _ => old

/-- What came of an atomic at its place: the result, a refused floating-point atomic (R145), uncorrectable data (R128), or a tag that
was not in the state awaited (R136). -/
inductive Performed where
  | done (result : Word) (refused : Bool)
  | redconf
  | ecc
  | tag
  deriving DecidableEq, Repr

/-- An open reduction covers a byte of the word (R144). -/
def State.openAt (s : State) (a n : Nat) : Bool :=
  s.grates.any (fun g => g.2.open_.any (fun r => decide (r.addr < a + n) && decide (a < r.addr + r.size)))

/-- The dirty bytes and tags of every word of an 128-byte line are merged at home. -/
def State.mergeLine (s : State) (a : Nat) : State :=
  (List.range 16).foldl (fun s k => s.mergeWord (lineOf a * 128 + 8 * k)) s

/-- A loaded handler at the word's engine (R334): its line stores and the word are one step. -/
def State.performLoaded (s : State) (ws : List Nat) (a : Nat) (b : Word) : State × Performed :=
  let s := s.mergeLine a
  let base := lineOf a * 128
  match runHandler ws (s.homeWord a) b (a % 128) (s.homeBytes base 128) with
  | none => (s, .done (BitVec.allOnes 64) true)
  | some (new, result, line) => ((s.writeHome base line).writeHome a (bytesOf new 8), .done result false)

/-- The engine that performs the atomics of a word: the pool port of its core, or the engine of its grate (R139, R334). -/
def engineOf (a : Nat) : Nat := if isPool a then 4 + poolCore a else grateOf a
/-- Engines of a package: one a grate, one a pool port. -/
def engineCount : Nat := 4 + 2048

/-- The engine has switched to a version of a handler (R334). -/
def State.switched (s : State) (engine : Nat) (v : HandlerVersion) : Bool := decide (v.since + Config.engineSwitch v.key engine ≤ s.cycle)

/-- The words of handler n at an engine: those of the latest version to which it has switched (R334). -/
def State.handlerAt (s : State) (engine n : Nat) : Option (List Nat) :=
  ((Table.get [] s.pkg.handlers n).find? (s.switched engine)).bind (·.words)

/-- An atomic, a handler or a tag step on a word at its place, as one indivisible step after the merge of R139. -/
def State.performAt (s : State) (r : AtomicReq) (a : Nat) : State × Performed :=
  if r.op = .fadd ∧ !r.det ∧ s.openAt a r.size then (s, .redconf)
  else
    let s := s.mergeWord a
    if s.badAt a r.size then (s, .ecc)
    else match r.op with
      | .ldfe => if s.homeTag a then (s.setHomeTag a false, .done (s.homeWord a) false) else (s, .tag)
      | .stef => if s.homeTag a then (s, .tag) else ((s.writeHome a (bytesOf r.b 8)).setHomeTag a true, .done 0 false)
      | .ahx =>
        let h := r.c.toNat % 32
        if h < 16 then
          let (new, result) := fixedHandler h (BitVec.ofNat 64 (s.homeNat a r.size)) r.b
          (s.writeHome a (bytesOf new r.size), .done result false)
        else match s.handlerAt (engineOf a) h with
          | some ws => s.performLoaded ws a r.b
          | none => (s, .done (s.homeWord a) true)
      | op =>
        let w := 8 * r.size
        let old := s.homeNat a r.size
        (s.writeHome a (bytesOfNat r.size (atomicNew op w old (r.b.toNat % 2 ^ w) (r.c.toNat % 2 ^ w))),
          .done (BitVec.ofNat 64 old) false)

/-- EINFO of an access by an atomic (R108). -/
def atomicNeed (ret : Bool) : BitVec 8 := if ret then 0x13 else 0x12
def atomicInfo (r : AtomicReq) : Word := (⟨r.seg, 0, r.size, 1, atomicNeed r.ret.isSome, 3, false, false⟩ : Access).einfo

/-- Bytes, and the tag of their word, arrive at a slot under a name (R27). -/
def State.answer (s : State) (slot id : Nat) (bs : List Byte) (tag : Bool) : State :=
  s.updSlot slot (fun p => { p with fills := p.fills.map (fun f => f.answer id bs tag) })

/-- An answer fails: its fill delivers a deferred trap (R107). -/
def State.refuse (s : State) (slot id cause : Nat) (ea einfo : Word) : State :=
  s.updSlot slot (fun p => { p with fills := p.fills.map (fun f => f.refuse id cause ea einfo) })

/-- The issuer of an atomic learns what came of it (R107, R141, R145, R148). -/
def State.report (s : State) (r : AtomicReq) (x : Performed) : State :=
  let info := atomicInfo r
  let s := match x with
    | .done _ true => s.tellSlot r.slot (fun p => p.fenceBit Fence.refused)
    | _ => s
  match r.ret with
  | some id =>
    match x with
    | .done w _ => s.answer r.slot id (bytesOf w r.size) true
    | .redconf => s.refuse r.slot id Cause.redconf r.ea info
    | .ecc => (s.tellSlot r.slot (fun p => p.failWrites 1 Fence.eccloss)).refuse r.slot id Cause.eccunc r.ea info
    | .tag => s
  | none =>
    match x with
    | .redconf => s.tellSlot r.slot (fun p => p.defer Cause.redconf r.ea (deferInfo r.pc info))
    | .ecc => s.tellSlot r.slot (fun p => p.failWrites 1 Fence.eccloss)
    | _ => s

/-- The k-th atomic on its way may be performed: no earlier one of its slot touches its word (R158). -/
def State.atomicTurn (s : State) (k : Nat) : Bool :=
  match s.atomics[k]? with
  | some r => !(s.atomics.take k).any (fun q => q.slot == r.slot && overlaps r.loc r.size q.loc q.size)
  | none => false

/-- ATOMIC_PERFORM (R139). -/
def execAtomicPerform (k : Nat) (s : State) : Out :=
  .next (match s.atomics[k]? with
    | some r =>
      if s.atomicTurn k then
        match r.loc with
        | .here a =>
          let (s, x) := { s with atomics := s.atomics.eraseIdx k }.performAt r a
          s.report r x
        | .there _ _ => s
      else s
    | none => s)

/-! ## Ordered reductions (R143 to R145) -/

/-- Contributions in a row from `next` on are folded (R144). -/
def foldReady (w : Nat) : Nat → Reduction → Reduction
  | 0, r => r
  | n + 1, r =>
    match r.buffered.find? (fun e => e.1 == r.next) with
    | some (l, c) => foldReady w n { r with
        v := BitVec.ofNat 64 (floatSum w r.v.toNat c.toNat)
        next := r.next + 1
        buffered := r.buffered.filter (fun e => e.1 != l) }
    | none => r

/-- Every buffered contribution is folded in ascending LID (R144). -/
def foldAll (r : Reduction) : Word :=
  (sortBy id (r.buffered.map (·.1))).foldl (fun v l =>
    match r.buffered.find? (fun e => e.1 == l) with
    | some (_, c) => BitVec.ofNat 64 (floatSum (8 * r.size) v.toNat c.toNat)
    | none => v) r.v

/-- EINFO of a contribution or a close (R108). -/
def reductionInfo (r : RedReq) : Word := (⟨r.seg, 0, r.size, 1, 0x12, 1, false, false⟩ : Access).einfo

/-- A contribution or a close is refused: its slot takes a deferred REDCONF, or counts a write refused by uncorrectable data (R128,
R145); a slot of another package is told by a report. -/
def State.refuseRed (s : State) (r : RedReq) (x : RespStatus) : State :=
  match r.origin with
  | some w => s.emit (.report w x r.ea (deferInfo r.pc (reductionInfo r)))
  | none => s.tellSlot r.slot (fun p =>
      if x = .redconf then p.defer Cause.redconf r.ea (deferInfo r.pc (reductionInfo r)) else p.failWrites 1 Fence.eccloss)

/-- The close of a reduction (R144): the sum overwrites the word, and its tag turns full. A write that an uncorrectable block refuses
is counted at the slot whose request closed it. -/
def State.closeReduction (s : State) (g : Nat) (r : Reduction) (by_ : RedReq) : State :=
  let s := s.updGrate g (fun x => { x with open_ := x.open_.filter (fun o => o.addr != r.addr) })
  let s := s.mergeWord r.addr
  if s.writeRefused r.addr r.size then s.refuseRed by_ .ecc
  else
    let s := s.writeHome r.addr (bytesOf (foldAll r) r.size)
    if r.tagged then s.setHomeTag r.addr true else s

/-- Slots of a grate, and contributions a slot buffers out of order (R144). -/
def reductionSlots : Nat := 4096

/-- A contribution at its grate: none when it must be held (R144, R145). -/
def State.contribute (s : State) (g a : Nat) (r : RedReq) : Option State :=
  let gr := s.grate g
  let c := r.value.getD 0
  match gr.open_.find? (fun o => decide (o.addr < a + r.size) && decide (a < o.addr + o.size)) with
  | some o =>
    if o.addr ≠ a ∨ o.size ≠ r.size then
      some (s.refuseRed r .redconf)
    else if o.after r then none
    else if reductionSlots ≤ o.buffered.length ∧ r.lid ≠ o.next then none
    else
      let o := foldReady (8 * o.size) (o.buffered.length + 1) { o with buffered := o.buffered ++ [(r.lid, c)] }
      if o.extent ≤ o.next then some (s.closeReduction g o r)
      else some (s.updGrate g (fun x => { x with open_ := x.open_.map (fun q => if q.addr = a then o else q) }))
  | none =>
    if reductionSlots ≤ gr.open_.length then none
    else
      let s := s.mergeWord a
      if s.badAt a r.size then some (s.refuseRed r .ecc)
      else
        let o : Reduction := foldReady (8 * r.size) 1
          ⟨a, r.size, r.rcba, r.extent, BitVec.ofNat 64 (s.homeNat a r.size), 0, [(r.lid, c)], r.tagged⟩
        let s := if r.tagged then s.setHomeTag a false else s
        if o.extent ≤ o.next then some (s.closeReduction g o r)
        else some (s.updGrate g (fun x => { x with open_ := x.open_ ++ [o] }))

/-- The request of another package has been taken: its write counts as applied in its window (R328). -/
def State.tookForeign (s : State) (r : RedReq) : State :=
  match r.origin with
  | some w => if r.slot < foreign then s else match s.entryOf w.sid with
    | some e => s.setEntry (e.mark w.win (r.slot - foreign))
    | none => s
  | none => s

/-- A held contribution is admitted if it need not be held any more. -/
def State.admitOne (s : State) (g : Nat) (r : RedReq) : State :=
  match r.loc with
  | .here a =>
    match s.contribute g a r with
    | some t => (t.updGrate g (fun x => { x with held := x.held.erase r })).tookForeign r
    | none => s
  | .there _ _ => s

/-- Contributions held at a grate go before whatever arrives after them (R144): as many rounds as there are held ones, since each may close
a reduction and so let another in. -/
def State.admitHeld (s : State) (g : Nat) : State :=
  (List.range (s.grate g).held.length).foldl (fun s _ => (s.grate g).held.foldl (fun s r => s.admitOne g r) s) s

/-- A contribution arrives; one that must be held stays at the grate's input (R144). -/
def State.admitRed (s : State) (g a : Nat) (r : RedReq) : State :=
  let s := s.admitHeld g
  match s.contribute g a r with
  | some s => s.tookForeign r
  | none =>
    let s := s.updGrate g (fun x => { x with held := x.held ++ [r] })
    if (s.grate g).later r then s.tookForeign r else s

/-- The k-th reduction request on its way may arrive: no earlier one of its slot is still on its way (R144). -/
def State.reductionTurn (s : State) (k : Nat) : Bool :=
  match s.reductions[k]? with
  | some r => !(s.reductions.take k).any (fun q => q.slot == r.slot)
  | none => false

/-- REDUCTION_CONTRIBUTION (R144). -/
def execReductionContribution (k : Nat) (s : State) : Out :=
  .next (match s.reductions[k]? with
    | some r =>
      match r.loc with
      | .here a =>
        if r.value.isSome && s.reductionTurn k then { s with reductions := s.reductions.eraseIdx k }.admitRed (grateOf a) a r else s
      | .there _ _ => s
    | none => s)

/-- REDUCTION_ADMIT (R144): a held contribution is admitted if it need not be held any more. -/
def execReductionAdmit (grate k : Nat) (s : State) : Out :=
  .next (match (s.grate grate).held[k]? with
    | some r =>
      s.admitOne grate r
    | none => s)

/-- A DCLOSE at its word (R144), which its address and its width name: without an open reduction it changes nothing. What is held from
before goes first. -/
def State.closeAt (s : State) (a : Nat) (r : RedReq) : State :=
  let s := s.admitHeld (grateOf a)
  match (s.grate (grateOf a)).open_.find? (fun o => o.addr == a && o.size == r.size) with
  | some o => s.closeReduction (grateOf a) o r
  | none => s

/-- REDUCTION_CLOSE (R144). -/
def execReductionClose (k : Nat) (s : State) : Out :=
  .next (match s.reductions[k]? with
    | some r =>
      match r.loc with
      | .here a =>
        if r.value.isNone && s.reductionTurn k then { s with reductions := s.reductions.eraseIdx k }.closeAt a r else s
      | .there _ _ => s
    | none => s)

/-! ## Issue -/

/-- The word at a place is a tagged word (R36): a pool word, DRAM of a page with TG = 1, or DRAM through a global segment. -/
def State.taggedPiece (s : State) (slot : Nat) (p : Piece) : Bool :=
  match p.loc, p.va with
  | .here a, none => carriesTag a
  | .here a, some v => isPool a || (isDram a && (s.clamp (clampOf slot)).tlb.any (fun e =>
      e.root == (s.core (coreOf slot)).ptroot && decide (e.va ≤ v) && decide (v < e.va + e.span) && bitOf e.w0 6))
  | .there _ a, _ => carriesTag a

/-- Scope of the DREDF that a non-returning AFADD becomes in a deterministic region (R142). -/
def ordAcq (o : MemOrd) : Bool := o == .acq || o == .ar
def ordRel (o : MemOrd) : Bool := o == .rel || o == .ar

/-- The release scope of an entry with an order. -/
def relScope (o : MemOrd) (sc : Scope) : Option Scope := if ordRel o then some sc else none

/-- The entry is an acquire. -/
def SbEntry.acquiring (e : SbEntry) (o : MemOrd) : SbEntry := { e with acq := ordAcq o }

/-- After an atomic with an acquire, the slot's later accesses wait until it has been performed (R162). Nothing held is performed
before its burn ends: the wait then follows the BURNE. -/
def State.awaitAtomic (s : State) (acq : Bool) : State :=
  if acq && !s.me.burning then s.upd (fun p => { p with barrier := some .performed }) else s

/-- A contribution of the issuing thread (R143). -/
def State.contribution (s : State) (acc : Access) (p : Piece) (v : Option Word) : RedReq :=
  ⟨p.loc, acc.size, v, s.me.ctl.lid.toNat % 2 ^ 32, s.me.ctl.rcba, s.me.extent, s.cur, s.me.pc.toNat % 2 ^ 32, acc.o,
    s.taggedPiece s.cur p, p.va, acc.seg, none⟩

/-- A returning AFADD: an open reduction refuses it where it stands (R107, R145), so it is performed before the next instruction issues,
after every older write of the slot (R133, R159); an earlier fence makes it a release (R160). -/
def State.floatReturning (s : State) (acc : Access) (t : Reg) (r : AtomicReq) (o : MemOrd) (sc : Scope) : State :=
  match r.loc with
  | .there d a => s.askAtomic (if acc.size = 4 then 4 else 5) t acc d a (s.releasesNow d (ordRel o)) r
  | .here a =>
    if !s.me.sb.isEmpty || s.passing s.cur || (ordRel o && !s.settled s.cur) || s.atomicAhead s.cur r.loc r.size then s
    else
      match (s.releaseAt s.cur (widerScope (relScope o sc) s.me.fenceRel)).performAt r a with
      | (s, .done w _) => (s.startFill acc false t.toNat false ⟨bytesOf w r.size, [], [], false⟩).advance
      | (s, .ecc) => ((s.upd (fun p => p.failWrites 1 Fence.eccloss)).startFill acc false t.toNat false
          ⟨bytesOfNat r.size 0, [], [], true⟩).advance
      | (s, _) => s.raise Cause.redconf acc.o acc.einfo

/-- An atomic enters the store buffer (R133, R138). -/
def State.enterAtomic (s : State) (acc : Access) (t : Reg) (r : AtomicReq) (ret signed : Bool) (o : MemOrd) (sc : Scope) : State :=
  let id := s.fresh
  let r := { r with ret := if ret then some id else none }
  s.enter acc (locRemote r.loc) ((s.entry (.atomic r) (relScope o sc) acc.seg).acquiring o) (fun s =>
    let s := { s with fresh := s.fresh + 1 }
    let s := if ret then s.startFill acc false t.toNat signed ⟨bytesOfNat r.size 0, [⟨id, 0, r.size, s.globalOf r.loc, none⟩], [], false⟩ else s
    s.advance.awaitAtomic (ordAcq o))

/-- The AMO forms (R130, R137, R138, R142). -/
def State.amo (s : State) (i : Instr) (op : AtomicOp) (t a : Reg) (g : SegNo) (b : Reg) (size : Nat) (ret : Bool) (o : MemOrd)
    (sc : Scope) : State :=
  gate i s (fun s =>
    let acc := s.me.formT g a size (atomicNeed ret) 3 false
    if s.me.burning && ret then s.ill i
    else if s.me.det && (ret || op == .xch || op == .ahx) then s.raise Cause.detatom acc.o acc.einfo
    else s.access acc (fun s ps =>
      match ps with
      | [] => s
      | p :: _ =>
        if op = .fadd ∧ s.me.det then
          s.enter acc (locRemote p.loc)
            ((s.entry (.reduce (s.contribution acc p (some (s.me.getX b)))) (relScope o sc) acc.seg).acquiring o)
            (fun s => s.advance.awaitAtomic (ordAcq o))
        else
          let r : AtomicReq := ⟨op, p.loc, size, s.me.getX b, s.me.getX t, none, s.cur, s.me.pc.toNat % 2 ^ 32, s.me.det,
            acc.o, p.va, acc.seg⟩
          if op = .fadd ∧ ret then s.floatReturning acc t r o sc
          else s.enterAtomic acc t r ret (op != .ahx) o sc))

/-- Bytes of a width code w of AMO (R137). -/
def amoSize (w : Bool) : Nat := if w then 4 else 8

def execAadd (t a : Reg) (g : SegNo) (b : Reg) (w ret : Bool) (o : MemOrd) (sc : Scope) (s : State) : Out :=
  .next (s.amo (.aadd t a g b w ret o sc) .add t a g b (amoSize w) ret o sc)
def execAand (t a : Reg) (g : SegNo) (b : Reg) (w ret : Bool) (o : MemOrd) (sc : Scope) (s : State) : Out :=
  .next (s.amo (.aand t a g b w ret o sc) .and t a g b (amoSize w) ret o sc)
def execAor (t a : Reg) (g : SegNo) (b : Reg) (w ret : Bool) (o : MemOrd) (sc : Scope) (s : State) : Out :=
  .next (s.amo (.aor t a g b w ret o sc) .or t a g b (amoSize w) ret o sc)
def execAxor (t a : Reg) (g : SegNo) (b : Reg) (w ret : Bool) (o : MemOrd) (sc : Scope) (s : State) : Out :=
  .next (s.amo (.axor t a g b w ret o sc) .xor t a g b (amoSize w) ret o sc)
def execAmin (t a : Reg) (g : SegNo) (b : Reg) (w ret : Bool) (o : MemOrd) (sc : Scope) (s : State) : Out :=
  .next (s.amo (.amin t a g b w ret o sc) .min t a g b (amoSize w) ret o sc)
def execAmax (t a : Reg) (g : SegNo) (b : Reg) (w ret : Bool) (o : MemOrd) (sc : Scope) (s : State) : Out :=
  .next (s.amo (.amax t a g b w ret o sc) .max t a g b (amoSize w) ret o sc)
def execAminn (t a : Reg) (g : SegNo) (b : Reg) (w ret : Bool) (o : MemOrd) (sc : Scope) (s : State) : Out :=
  .next (s.amo (.aminn t a g b w ret o sc) .minn t a g b (amoSize w) ret o sc)
def execAmaxn (t a : Reg) (g : SegNo) (b : Reg) (w ret : Bool) (o : MemOrd) (sc : Scope) (s : State) : Out :=
  .next (s.amo (.amaxn t a g b w ret o sc) .maxn t a g b (amoSize w) ret o sc)
def execAxch (t a : Reg) (g : SegNo) (b : Reg) (w ret : Bool) (o : MemOrd) (sc : Scope) (s : State) : Out :=
  .next (s.amo (.axch t a g b w ret o sc) .xch t a g b (amoSize w) ret o sc)
def execAfadd (t a : Reg) (g : SegNo) (b : Reg) (w ret : Bool) (o : MemOrd) (sc : Scope) (s : State) : Out :=
  .next (s.amo (.afadd t a g b w ret o sc) .fadd t a g b (amoSize w) ret o sc)
def execAcas (t a : Reg) (g : SegNo) (b : Reg) (w : Bool) (o : MemOrd) (sc : Scope) (s : State) : Out :=
  .next (s.amo (.acas t a g b w o sc) .cas t a g b (amoSize w) true o sc)
def execAhx (t a : Reg) (g : SegNo) (b : Reg) (ret : Bool) (o : MemOrd) (sc : Scope) (s : State) : Out :=
  .next (s.amo (.ahx t a g b ret o sc) .ahx t a g b 8 ret o sc)

/-- DREDF (R143, R144). -/
def State.dredf (s : State) (i : Instr) (a : Reg) (g : SegNo) (b : Reg) (size : Nat) : State :=
  gate i s (fun s =>
    let acc := s.me.formT g a size 0x12 1 false
    s.access acc (fun s ps =>
      match ps with
      | [] => s
      | p :: _ => s.enter acc (locRemote p.loc) (s.entry (.reduce (s.contribution acc p (some (s.me.getX b)))) none acc.seg)
          State.advance))

def execDredfF64 (a : Reg) (g : SegNo) (b : Reg) (sc : Scope) (s : State) : Out := .next (s.dredf (.dredfF64 a g b sc) a g b 8)
def execDredfF32 (a : Reg) (g : SegNo) (b : Reg) (sc : Scope) (s : State) : Out := .next (s.dredf (.dredfF32 a g b sc) a g b 4)

/-- DCLOSE (R143): ILL in a burn (R130). -/
def State.dclose (s : State) (i : Instr) (a : Reg) (g : SegNo) (sc : Scope) (size : Nat) : State :=
  gate i s (fun s =>
    let acc := s.me.formT g a size 0x12 1 false
    if s.me.burning then s.ill i
    else s.access acc (fun s ps =>
      match ps with
      | [] => s
      | p :: _ => s.enter acc (locRemote p.loc) (s.entry (.reduce (s.contribution acc p none)) (some sc) acc.seg) State.advance))

def execDcloseF64 (a : Reg) (g : SegNo) (sc : Scope) (s : State) : Out := .next (s.dclose (.dcloseF64 a g sc) a g sc 8)
def execDcloseF32 (a : Reg) (g : SegNo) (sc : Scope) (s : State) : Out := .next (s.dclose (.dcloseF32 a g sc) a g sc 4)

end Sys2Proof.Machine
end

