-- ==== Sys2Proof/Machine/Fences.lean ====
section
/-! DEFINITION. Fences, FENCES with its status and probes, write-back and prefetch (09_memory R146 to R149, 10_ordering R160). -/
namespace Sys2Proof.Machine

/-- FENCE (R147): ILL in a burn; the next instruction waits. -/
def execFence (o : MemOrd) (sc : Scope) (s : State) : Out :=
  .next (gate (.fence o sc) s (fun s =>
    if s.me.burning then s.ill (.fence o sc)
    else s.advance.upd (fun p => { p with barrier := some (.fence o sc) })))

/-- FENCES (R148): ILL in a burn; it waits where it stands. -/
def execFences (t : Reg) (sc : Scope) (s : State) : Out :=
  .next (gate (.fences t sc) s (fun s =>
    if s.me.burning then s.ill (.fences t sc)
    else s.upd (fun p => { p with park := none, barrier := some (.fences t sc) })))

/-- The flit carries a message of the slot. -/
def messageOf (pkg slot : Nat) : FlitBody → Bool
  | .msg _ _ src i _ _ => src == pkg && i == slot
  | _ => false

/-- Messages of the slot that have not left this package for another: no link's far end has acknowledged them. -/
def State.leaving (s : State) (slot : Nat) : Nat :=
  (s.flue.waiting.filter (fun x => messageOf s.pkg.number slot x.body)).length +
  (s.flue.links.map (fun e => ((e.2.held ++ e.2.again ++ e.2.replay.map (·.2)).filter (fun x => messageOf s.pkg.number slot x.body)).length)).foldl
    (· + ·) 0

/-- Messages of the slot on their way (R152): those inside the package until they are in a queue, others until a switch has them. -/
def State.inFlight (s : State) (slot : Nat) : Nat := (s.flights.filter (fun f => f.src == slot)).length + s.leaving slot

/-- The slot's writes inside its package have been performed for its hearth: store buffer empty, atomics, contributions and messages
arrived. -/
def State.written (s : State) (slot : Nat) : Bool :=
  (s.slot slot).sb.isEmpty && !s.atomics.any (fun r => r.slot == slot) && !s.contributing slot &&
  s.inFlight slot == 0

/-- The earlier accesses a fence names have been performed (R147). -/
def State.fenced (s : State) (slot : Nat) (o : MemOrd) : Bool :=
  (s.slot slot).fills.isEmpty && (o == .acq || s.written slot)

/-- Every later write of the slot is a release at the scope (R160). -/
def Slot.releasing (p : Slot) (o : MemOrd) (sc : Scope) : Slot :=
  if o == .acq then p else { p with fenceRel := widerScope p.fenceRel (some sc) }

/-- What a fence performs at a scope wider than the hearth (R161). -/
def State.performAtScope (s : State) (slot : Nat) (o : MemOrd) (sc : Scope) : State :=
  let s := if o != .acq && decide (scopeRank .pkg ≤ scopeRank sc) then s.releaseHome slot else s
  s.updSlot slot (fun p => p.releasing o sc)

/-- Everything of the slot sent to another package is acknowledged, or lies in a frozen stream (R148). -/
def State.remoteDone (s : State) (slot : Nat) : Bool :=
  s.flue.streams.all (fun t => sidSlot t.sid != slot || t.frozen || t.wins.all (fun w => w.n == 0)) &&
  s.flue.releases.all (fun r => r.slot != slot || (!r.flit.probe && s.flue.streams.any (fun t =>
    t.frozen && r.sids.contains t.sid && t.dst == r.dst)))

/-- Probes of every package written since the last FENCES (R331). -/
def State.probeAll (s : State) (slot : Nat) : State :=
  (s.slot slot).written.foldl (fun s d => s.sendRelease slot 0 d .none true 0 0) s

/-- The status word of FENCES (R148). -/
def Slot.fenceStatus (p : Slot) : Word := p.fstat &&& 0xFFFF001F#64

/-- FENCES completes: the status is written and the counts restart (R148). Below `.sys` it probes nothing: a package stays among those
that the next FENCES `.sys` probes. -/
def Slot.endFences (p : Slot) (t : Reg) : Slot :=
  let q := p.setX t p.fenceStatus
  { q with fstat := 0, pc := p.pc + 4, park := none, barrier := none }

/-- Every package written so far has been probed, and what was lost has been told (R148, R168). -/
def Slot.probedAll (p : Slot) : Slot := { p with written := [], lost := [] }

/-- The waits of fences — at `.sys` a FENCE that names writes waits for those bound for other packages too (R147) —, of acquiring atomics and of FENCES, on the turn before the next issue. -/
def State.settleFence (s : State) (b : Barrier) : State :=
  match b with
  | .fence o sc =>
    if o != .acq && sc == .sys && s.fenced s.cur o && s.outstanding s.cur then s.closeAll s.cur
    else if s.fenced s.cur o then (s.performAtScope s.cur o sc).upd (fun p => { p with barrier := none }) else s
  | .performed =>
    if s.me.sb.all (fun e => match e.kind with
        | .atomic _ | .reduce _ => false
        | _ => true) && !s.atomics.any (fun r => r.slot == s.cur) && !s.contributing s.cur &&
      !s.flue.store.any (fun e => decide (e.slot = s.cur) && !writePlain e.flit) &&
      !s.flue.releases.any (fun r => r.slot == s.cur) then s.upd (fun p => { p with barrier := none })
    else (s.flue.store.filter (fun e => decide (e.slot = s.cur) && !writePlain e.flit)).foldl
      (fun s e => s.countrel e.flit.sid e.flit.dst) s
  | .fences t sc =>
    if s.fenced s.cur .none then
      let s := s.performAtScope s.cur .none sc
      if sc == .sys then (s.probeAll s.cur).upd (fun p => { p with barrier := some (.probed t) })
      else s.upd (fun p => p.endFences t)
    else s
  | .probed t => if s.remoteDone s.cur then s.upd (fun p => (p.endFences t).probedAll) else s
  | _ => s

/-- The line of a place (R161, R286): 128 bytes, or the 4 KiB tile line of a tile-region leaf. -/
def State.lineRange (s : State) (slot : Nat) (p : Piece) (a : Nat) : Nat × Nat :=
  match p.va with
  | some v =>
    if (s.clamp (clampOf slot)).tlb.any (fun e => e.root == (s.core (coreOf slot)).ptroot && decide (e.va ≤ v) &&
        decide (v < e.va + e.span) && decide (fld e.w0 1 2 = 2)) then (a / 4096 * 4096, 4096)
    else (lineOf a * 128, 128)
  | none => (lineOf a * 128, 128)

/-- Writes of a hearth's slots to a line of another package that its home has not acknowledged. -/
def State.lineUnmerged (s : State) (hearth d line : Nat) : List SendEntry :=
  s.flue.store.filter (fun e => hearthOf e.slot == hearth && e.flit.dst == d && writePlain e.flit && lineOf e.flit.block == line)

/-- So do those that releases of the hearth's slots carry: STF, TAGSET, ST.rel. -/
def State.lineReleasing (s : State) (hearth d line : Nat) : Bool :=
  s.flue.releases.any (fun r => hearthOf r.slot == hearth && (match r.flit.body with
    | .write _ _ _ => (bodyAt r.dst r.flit.body).any (fun b => overlaps b.1 b.2 (.there d (128 * line)) 128)
    | _ => false))

/-- DCWB (R149): ILL in a burn; the line's dirty bytes and tags are merged at home once the slot's own writes have reached the L2. At `.sys`, for a line of another package, it waits until the home there has merged them. -/
def execDcwb (a : Reg) (g : SegNo) (sc : Scope) (s : State) : Out :=
  .next (gate (.dcwb a g sc) s (fun s =>
    if s.me.burning then s.ill (.dcwb a g sc)
    else s.access { s.me.formT g a 1 0x02 1 false with moves := false } (fun s ps =>
      if !s.me.sb.isEmpty then s
      else match ps with
        | [] => s.advance
        | p :: _ =>
          match p.loc with
          | .here x =>
            let (b, n) := s.lineRange s.cur p x
            (s.sendHome (hearthOf s.cur) (fun y _ => decide (b ≤ y) && decide (y < b + n))
              (fun w _ => decide (b ≤ 8 * w) && decide (8 * w < b + n))).advance
          | .there d x =>
            let es := s.lineUnmerged (hearthOf s.cur) d (x / 128)
            if sc ≠ .sys ∨ (es = [] ∧ s.lineReleasing (hearthOf s.cur) d (x / 128) = false) then s.advance
            else es.foldl (fun s e => s.countrel e.flit.sid e.flit.dst) s)))

/-- PF (R149): no cache of clean lines is part of the state, and a PF changes nothing else. It never parks, so that not even an empty
register holds it up. -/
def execPf (a : Reg) (g : SegNo) (sc : Scope) (s : State) : Out := .next (gate (.pf a g sc) s State.advance)

end Sys2Proof.Machine
end

