-- ==== Sys2Proof/Machine/System.lean ====
section
/-! DEFINITION. Exceptions, parks, user interrupts, debugger halting and the system instructions (02_machine R21 to R23, 07_traps
R105 to R123), and the shoot-downs of 18_translation R292, R293. The control registers are in Registers.lean. -/
namespace Sys2Proof.Machine

/-! ## Parks and wakes (R21 to R23) -/

/-- A queued message matches a RECV (R153). -/
def msgMatches (sender seq : Word) (m : Message) : Bool :=
  (sender == BitVec.allOnes 64 || m.sender == sender.toNat % 2 ^ 32) &&
  (seq == BitVec.allOnes 64 || m.seq == seq.toNat % 2 ^ 32)

/-- A spark as RECV takes it (R18, R153; log 79). -/
def Spark.message (k : Spark) : Message :=
  let ws := match k with
    | .words a b c d => [a, b, c, d]
    | .place rcba lseq threads => Config.placeSpark rcba lseq threads
  ⟨(Config.sparkHeader ws).1 % 2 ^ 32, (Config.sparkHeader ws).2 % 2 ^ 32, ws⟩

/-- The queue RECV takes from: the stoker's holds sparks (R18), any other slot's messages. -/
def State.inbox (s : State) (slot : Nat) : List Message :=
  if slotNo slot = 0 then (s.core (coreOf slot)).sparks.map Spark.message else (s.slot slot).msgs

/-- The event that ends a park has occurred (R22). The wake of a page fault, the change of a
tag in another package and the events that end WFI are recorded when they arrive. -/
def State.parkOver (s : State) (slot : Nat) (r : ParkReason) : Bool :=
  let p := s.slot slot
  let now := s.cycleOf (coreOf slot)
  match r with
  | .reg n => p.fullAt now (BitVec.ofNat 4 n)
  | .vreg n => p.presentAt now (BitVec.ofNat 5 n)
  | .tag (.here a) full _ => s.slotTag slot a == full
  | .tag (.there _ _) _ _ => false
  | .msg sender seq => (s.inbox slot).any (msgMatches sender seq)
  | .page _ _ _ => false
  | .burne => false
  | .repf =>
    let c := s.core (coreOf slot)
    match c.frame with
    | none => c.repfQueue.head? == some slot
    | some f => p.burning && !(s.slot f.owner).burning && c.suspended.isNone
  | .sendStore => decide (s.storeUsed slot < sendStoreSize)
  | .wfi => false

/-- SLOT_WAKE (R22). -/
def State.mayWake (s : State) (slot : Nat) : Bool :=
  match (s.slot slot).park with
  | some k => !k.occurred && s.parkOver slot k.reason
  | none => false

def execSlotWake (slot : Nat) (s : State) : Out := .next (if s.mayWake slot then s.wake slot false else s)

/-- PAGE_FAULT_WAKE (R288): a wake whose token matches a slot parked on that fault; any other changes nothing here. Answers
whether it was consumed. -/
def State.pageWake (s : State) (slot token : Nat) (decline : Bool) : State × Bool :=
  match (s.slot slot).park with
  | some ⟨.page t _ _, _, false, _, _, _⟩ => if t = token then (s.wake slot decline, true) else (s, false)
  | _ => (s, false)

def execPageFaultWake (slot token : Nat) (decline : Bool) (s : State) : Out := .next (s.pageWake slot token decline).1

/-- EADDR and EINFO of a TAGWAIT (R107). -/
def tagwaitInfo : ParkReason → Word × Word
  | .reg r => (0, BitVec.ofNat 64 (r * 2 ^ 32))
  | .vreg v => (0, BitVec.ofNat 64 (v * 2 ^ 32 + 2 ^ 37))
  | .tag _ _ ea => (ea, BitVec.ofNat 64 (2 ^ 38))
  | _ => (0, 0)

/-! ## Deferred traps (R107, R109) -/

/-- The oldest pending deferred trap of the issuing slot is taken: EPC is its next unissued instruction. -/
def State.takeDeferred (s : State) : State :=
  match s.me.deferred with
  | [] => s
  | t :: rest =>
    if s.me.topQuiet then (s.upd (fun p => { p with deferred := rest })).trap ⟨t.cause, s.me.pc, t.eaddr, t.einfo⟩ else s

def execDeferredTrap (slot : Nat) (s : State) : Out :=
  .next (if (s.slot slot).mode = .running then { s with cur := slot }.takeDeferred else s)

/-- ILLEGAL_WORD (R48): a precise ILL in the slot that issues; the word is EINFO's upper half. -/
def execIllegalWord (w : Word32) (s : State) : Out := .next (s.raise Cause.ill 0 (wordInfo w.toNat))

/-! ## User interrupts (R113 to R116) -/

/-- A park that a user interrupt may abandon (R114). -/
def Slot.interruptible (p : Slot) : Bool :=
  match p.park with
  | none => true
  | some k =>
    match k.reason with
    | .reg _ | .vreg _ | .tag _ _ _ | .msg _ _ | .wfi => true
    | _ => false

/-- A pending user interrupt may be taken (R114). -/
def Slot.userPending (p : Slot) : Bool :=
  decide (p.mode = .running) && !p.uih && !p.burning && !p.traph && p.interruptible && p.barrier.all Barrier.isCpyx &&
  (p.tagwait.isSome || (p.uie && !p.completions.isEmpty))

/-- The PC a user interrupt returns to: past a WFI, else the instruction that has not issued (R114). -/
def Slot.userReturn (p : Slot) : Word :=
  match p.park with
  | some k => if k.reason = .wfi then p.pc + 4 else p.pc
  | none => p.pc

/-- Takes the pending user interrupt: a TAGWAIT before copy completions (R113, R114). -/
def Slot.takeUser (p : Slot) : Slot :=
  if !p.topQuiet then p
  else match p.tagwait with
    | some (ea, _) => let q := p.enterUser 0x08 ea p.pc p.ctl.uivec none; { q with tagwait := none }
    | none =>
      match p.completions with
      | [] => p
      | (xid, h) :: rest =>
        let q := p.enterUser 0x01 xid p.userReturn (if h ≠ 0 then h else p.ctl.uivec) (some xid)
        { q with completions := rest }

def execUserInterruptEntry (slot : Nat) (s : State) : Out :=
  .next (if (s.slot slot).userPending then s.updSlot slot Slot.takeUser else s)

/-- TAGWAIT (R23, R116): a user interrupt, pending while a fill into x12 to x15 is outstanding (R114), or a trap to EVEC. -/
def State.tagwait (s : State) : State :=
  match s.me.park with
  | none => s
  | some k =>
    let (ea, info) := tagwaitInfo k.reason
    if s.me.utw && !s.me.uih then
      s.upd (fun p => Slot.takeUser { p with tagwait := some (ea, (info >>> 32).setWidth 32) })
    else s.trap ⟨Cause.tagwait, s.me.pc, ea, info⟩

def execTagwait (slot : Nat) (s : State) : Out :=
  .next (if (s.slot slot).expired s.dtime && (s.slot slot).tagwait.isNone then { s with cur := slot }.tagwait else s)

/-! ## Debugger halting (R117, R118, R96) -/

/-- HALT_REQUEST: taken at the slot's next own turn. The debug port does not reach a package that has not booted (R361). -/
def execHaltRequest (slot : Nat) (s : State) : Out :=
  .next (if (s.slot slot).mode = .running ∧ s.recovering = false then s.updSlot slot (fun p => { p with haltRequest := true }) else s)

/-- The slot leaves the rotation. -/
def Slot.haltAt (p : Slot) (clock : Nat) : Slot :=
  { p with mode := .halted, haltRequest := false, haltedAt := some clock }

/-- RESUME_REQUEST: the slot resumes at its next own turn. -/
def execResumeRequest (slot : Nat) (s : State) : Out :=
  .next (if (s.slot slot).mode = .halted ∧ s.recovering = false then s.updSlot slot (fun p => { p with resumeRequest := true }) else s)

/-- The slot resumes: the halted time is added to BMIN and BMAX of a burn, and no wait measures it. -/
def Slot.resumeAt (p : Slot) (clock : Nat) : Slot :=
  let d := (clock - p.haltedAt.getD clock) / nsUnits
  let q : Slot := { p with
    mode := .running
    resumeRequest := false
    haltedAt := none
    park := p.park.map (fun k => { k with since := k.since + d }) }
  if p.burning then { q with ctl := { q.ctl with
      bmin := q.ctl.bmin + BitVec.ofNat 64 d
      bmax := q.ctl.bmax + BitVec.ofNat 64 d } }
  else q

/-! ## SYS0 (R119 to R122) -/

/-- NOP (R119). -/
def execNop (s : State) : Out := .next (gate .nop s State.advance)

/-- HALT (R119). -/
def execHalt (s : State) : Out :=
  .next (gate .halt s (fun s =>
    if !s.me.priv then s.privFault .halt else s.advance.upd (fun p => p.haltAt s.clock)))

/-- WFI (R119): parks until its event; reissued after it, it completes. -/
def execWfi (s : State) : Out :=
  .next (gate .wfi s (fun s =>
    match s.me.park with
    | some k => if k.reason = .wfi ∧ k.occurred then s.advance else s.parkOn .wfi
    | none => s.parkOn .wfi))

/-- YIELD (R119): the slot's next own turn is lent. -/
def execYield (s : State) : Out :=
  .next (gate .yield s (fun s => s.advance.upd (fun p => { p with yielded := true })))

/-- What the overlay reads give (R58). -/
inductive OverlayRead where
  | ok (os : List Overlay)
  | fault (cause : Nat) (a : Access)
  | page (a : Access) (reason va : Nat)
  | wait
  deriving DecidableEq, Repr

/-- The access of an overlay read: PSIZE bytes at sg6 offset POFF. -/
def overlayAccess (o : Overlay) : Access :=
  ⟨6, BitVec.ofNat 64 o.poff, if o.psize = 0 then 4 else 8, 1, 0x01, 0, false, false⟩

/-- Name of an overlay's read among the slot's remote reads. -/
def overlayKey (o : Overlay) : Nat := 2 ^ 70 + o.poff * 2 + o.psize

/-- Reads the parameter values of overlays (R58): uncorrectable data marks an overlay bad. -/
def State.readOverlays (s : State) (slot : Nat) : List Overlay → State × OverlayRead
  | [] => (s, .ok [])
  | o :: rest =>
    let acc := overlayAccess o
    match s.resolve slot acc with
    | (s, .fault c) => (s, .fault c acc)
    | (s, .page r va) => (s, .page acc r va)
    | (s, .ok ps) =>
      let (s, v) := if anyRemote ps then
          s.remoteCode slot (overlayKey o) ps
        else (let (s, g) := s.gather slot 6 false ps 0; (s, some (leNat g.buf, g.bad)))
      match v with
      | none =>
        match s.readOverlays slot rest with
        | (s, .fault c a) => (s, .fault c a)
        | (s, .page a r va) => (s, .page a r va)
        | (s, _) => (s, .wait)
      | some (w, bad) =>
        match s.readOverlays slot rest with
        | (s, .ok os) => (s, .ok ({ o with value := if bad then o.value else BitVec.ofNat 64 w, bad := bad } :: os))
        | r => r

/-- ISYNC (R120, R58): after the slot's own frame and its earlier accesses, the overlays are reread and fetched code is forgotten.
Stores that a burn holds are not performed before it ends; the reads take their bytes from the store buffer. -/
def execIsync (s : State) : Out :=
  .next (gate .isync s (fun s =>
    if s.myCore.replays s.cur || !s.me.fills.isEmpty || s.me.sb.any (fun e => !e.held) || !s.settled s.cur then s
    else match s.readOverlays s.cur s.me.overlays with
      | (s, .fault c a) => s.raise c a.o a.einfo
      | (s, .page a r va) => s.pageFault a r va
      | (s, .wait) => s
      | (s, .ok os) => (s.upd (fun p => { p with overlays := os, remoteFetch := [] })).advance))

/-- A frozen frame of the slot resumes (R87). -/
def Core.thaw (c : Core) (slot : Nat) : Core :=
  let f := fun (g : Frame) => if g.owner = slot then { g with frozen := false } else g
  { c with frame := c.frame.map f, suspended := c.suspended.map f }

/-- ERET (R122). -/
def execEret (s : State) : Out :=
  .next (gate .eret s (fun s =>
    if !s.me.priv then s.privFault .eret
    else if !s.me.traph then s.ill .eret
    else if s.me.ctl.epc.toNat % 4 ≠ 0 then s.raise Cause.align s.me.ctl.epc targetInfo
    else if !s.me.topQuiet then s
    else (s.upd Slot.leaveTrap).updCore (coreOf s.cur) (fun c => c.thaw s.cur)))

/-- UIRET (R122). -/
def execUiret (s : State) : Out :=
  .next (gate .uiret s (fun s =>
    if !s.me.uih then s.ill .uiret
    else if s.me.ctl.uipc.toNat % 4 ≠ 0 then s.raise Cause.align s.me.ctl.uipc targetInfo
    else if !s.me.topQuiet then s
    else s.upd Slot.leaveUser))

/-- EINFO of TRAPI and BRKPT: the code in bits 43:32 (R107). -/
def codeInfo (code : BitVec 12) : Word := BitVec.ofNat 64 (code.toNat * 2 ^ 32)

/-- TRAP (R119): EPC is the next instruction. -/
def execTrap (code : BitVec 12) (s : State) : Out :=
  .next (gate (.trap code) s (fun s => s.trap ⟨Cause.trapi, s.me.pc + 4, 0, codeInfo code⟩))

/-- BRK (R117): halts the slot at the BRK when a debugger has enabled that, else traps. -/
def execBrk (code : BitVec 12) (s : State) : Out :=
  .next (gate (.brk code) s (fun s =>
    if s.me.debugHalt then s.upd (fun p => p.haltAt s.clock)
    else s.raise Cause.brkpt 0 (codeInfo code)))

/-! ## Segment registers (R121) -/

/-- The new segment lies inside the old one (R121): the empty segment lies inside every segment. -/
def segInside (new old : Seg) : Bool :=
  segEmpty new ||
  (decide (old.base.toNat ≤ new.base.toNat) &&
    decide (new.base.toNat + new.limit.toNat ≤ old.base.toNat + old.limit.toNat) &&
    (new.rights &&& old.rights == new.rights) && segGlobal new == segGlobal old)

/-- The segment two registers describe. -/
def segOf (xa xb : Word) : Seg := ⟨xa, xb.setWidth 48, (xb >>> 48).setWidth 8⟩

/-- A segment register is replaced: what was read through sg0 or sg6 from another package is read afresh. -/
def Slot.setSeg (p : Slot) (n : SegNo) (g : Seg) : Slot :=
  { p with
    sg := p.sg.set n.toNat g
    remoteFetch := if n = 0 ∨ n = 6 then [] else p.remoteFetch }

/-- SEGLD (R121): at user privilege a widening takes PRIV. -/
def execSegld (b a : Reg) (n : SegNo) (s : State) : Out :=
  .next (gate (.segld b a n) s (fun s =>
    let g := segOf (s.me.getX a) (s.me.getX b)
    if !s.me.priv && !segInside g (s.me.seg n.toNat) then s.privFault (.segld b a n)
    else (s.upd (fun p => (p.setSeg n g))).advance))

/-- SEGRD (R121). -/
def execSegrd (d : Reg) (p : Bool) (n : SegNo) (s : State) : Out :=
  .next (gate (.segrd d p n) s (fun s =>
    let g := s.me.seg n.toNat
    (s.writeX d (if p then BitVec.ofNat 64 (g.rights.toNat * 2 ^ 48 + g.limit.toNat) else g.base) 2).advance))

/-! ## Shoot-downs (R123, R292, R293) -/

/-- Clamps within a scope of a clamp (R123): `.sys` reaches this package's ports. -/
def inScope (sc : Scope) (mine other : Nat) : Bool :=
  match sc with
  | .core | .clamp => mine == other
  | .hearth => mine / 16 == other / 16
  | .pkg | .sys => true

/-- A cached leaf or table entry that a TLBI invalidates (R123, R292). -/
def tlbiHits (k : Nat) (xa root : Word) (e : TlbEntry) : Bool :=
  if k = 0 then e.root == root && decide (e.va ≤ xa.toNat % 2 ^ 57) && decide (xa.toNat % 2 ^ 57 < e.va + e.span)
  else if k = 1 then getField e.root 18 33 == getField xa 18 33
  else true

/-- A translated place of a store-buffer entry. -/
def entryVas (e : SbEntry) : List Nat :=
  match e.kind with
  | .write ws => ws.filterMap (·.va)
  | .atomic r => r.va.toList
  | .reduce r => r.va.toList
  | _ => []

/-- The ports in scope drop the matching leaves; entries of their slots' store buffers whose translation is gone are translated
again as they drain (R292). -/
def State.shootDown (s : State) (clamp k : Nat) (xa root : Word) (sc : Scope) : State :=
  let s := { s with clamps := s.clamps.map (fun ((c, x) : Nat × Clamp) =>
    if inScope sc clamp c then (c, { x with tlb := x.tlb.filter (fun e => !tlbiHits k xa root e) }) else (c, x)) }
  { s with slots := s.slots.map (fun ((i, p) : Nat × Slot) =>
    if inScope sc clamp (clampOf i) then
      (i, { p with sb := p.sb.map (fun (e : SbEntry) =>
        if (entryVas e).all (fun a => (s.clamp (clampOf i)).tlb.any (fun t =>
            !t.isTable && t.root == (s.core (coreOf i)).ptroot && decide (t.va ≤ a) && decide (a < t.va + t.span))) then e
        else { e with stale := true }) })
    else (i, p)) }

/-- TLBI (R123): supervisor only, ILL in a burn; waits until the store buffer is empty. The next instruction waits for the
acknowledgements. -/
def execTlbi (a : Reg) (k : BitVec 2) (sc : Scope) (s : State) : Out :=
  .next (gate (.tlbi a k sc) s (fun s =>
    if s.me.burning then s.ill (.tlbi a k sc)
    else if !s.me.priv then s.privFault (.tlbi a k sc)
    else if s.me.sb ≠ [] then s
    else s.advance.upd (fun p => { p with barrier := some (.tlbi k.toNat (s.me.getX a) s.myCore.ptroot sc) })))

/-- A cached leaf maps some segment address to the local address `a` (R282, R283): a plain leaf covers its span, a tile-region leaf its
whole tiles. -/
def TlbEntry.maps (e : TlbEntry) (a : Nat) : Bool :=
  let pa := fld e.w0 13 38 * 2 ^ 13
  decide (pa ≤ a) && decide (a < pa + leafReach e.w0 e.w1 e.span)

/-- A byte at `a` that the slot wrote may have left its port under a leaf that the shoot-down drops. -/
def State.underOld (s : State) (clamp k : Nat) (xa root : Word) (sc : Scope) (slot a : Nat) : Bool :=
  inScope sc clamp (clampOf slot) &&
    (s.clamp (clampOf slot)).tlb.any (fun e => !e.isTable && tlbiHits k xa root e && e.maps a)

/-- A byte or the tag of the word `w` in a hearth's L2 has a writer, at a place, that satisfies a test. -/
def Hearth.wroteBy (h : Hearth) (f : Nat → Nat → Bool) (w : Nat) : Bool :=
  h.dirty.any (fun e => e.1 / 8 == w && e.2.writers.any (fun i => f i e.1)) ||
  h.dtags.any (fun e => e.1 == w && e.2.writers.any (fun i => f i (8 * w)))

/-- What slots wrote under leaves that a shoot-down drops is performed at its home, whole words of it (R157, R292). -/
def State.oldHome (s : State) (f : Nat → Nat → Bool) : State :=
  (List.range 8).foldl (fun s h =>
    let l2 := s.hearth h
    s.sendHome h (fun a _ => l2.wroteBy f (a / 8)) (fun w _ => l2.wroteBy f w)) s

/-- TLBI_ACK (R292): every port in scope completes the shoot-down once the accesses that left it have been performed. A contribution that
its grate holds back has reached its home, and waits there for other slots: the shoot-down does not (log 96). -/
def execTlbiAck (slot : Nat) (s : State) : Out :=
  .next (match (s.slot slot).barrier with
    | some (.tlbi k xa root sc) =>
      if s.atomics.any (fun r => inScope sc (clampOf slot) (clampOf r.slot)) ||
         s.reductions.any (fun r => inScope sc (clampOf slot) (clampOf r.slot)) then s
      else ((s.oldHome (s.underOld (clampOf slot) k xa root sc)).shootDown (clampOf slot) k xa root sc).updSlot slot
        (fun p => { p with barrier := none })
    | _ => s)

/-- PAGE_WALK (R285): the port walks for an address under a root, as a supervisor's load or write; a fault returns nothing. -/
def execPageWalk (clamp root va : Nat) (write : Bool) (s : State) : Out :=
  .next (s.translate clamp (BitVec.ofNat 64 root) va false (if write then 1 else 0) false).1

end Sys2Proof.Machine
end

