-- ==== Sys2Proof/Machine/Messages.lean ====
section
/-! DEFINITION. Register links and messages (09_memory R150 to R154), and the wake messages of 18_translation R288. -/
namespace Sys2Proof.Machine

/-! ## Register links (R150) -/

/-- XCLR makes a register empty with no fill outstanding: it is open. A register that a failed fill left empty is not. -/
def Slot.isOpen (p : Slot) (r : Reg) : Bool := !p.fullX r && !p.fillX r.toNat && !bitOf p.xdead.toNat r.toNat

def Slot.holds (p : Slot) : Bool := decide (p.mode ≠ .free)

/-- PUTN (R150): a target without a thread of the sender's group sets REFUSED; a value already waiting there makes the PUTN wait. -/
def execPutn (d a : Reg) (core slot : BitVec 4) (s : State) : Out :=
  .next (gate (.putn d a core slot) s (fun s =>
    let to_ := 256 * clampOf s.cur + 16 * core.toNat + slot.toNat
    let p := s.slot to_
    if !p.holds || p.ctl.rcba != s.me.ctl.rcba then (s.upd (fun p => p.fenceBit Fence.refused)).advance
    else if p.putn.isSome then s
    else (s.updSlot to_ (fun p => { p with putn := some (d, s.me.getX a, s.cur) })).advance))

/-- PUTN_DELIVERY (R150): the waiting value fills its register once that is open. -/
def execPutnDelivery (slot : Nat) (s : State) : Out :=
  .next (match (s.slot slot).putn with
    | some (r, w, from_) =>
      if !(s.slot slot).holds then
        (s.updSlot slot (fun p => { p with putn := none })).updSlot from_ (fun p => p.fenceBit Fence.refused)
      else if (s.slot slot).isOpen r then s.updSlot slot (fun p => { p.setX r w with putn := none })
      else s
    | none => s)

/-- XCLR (R150). -/
def execXclr (d : Reg) (s : State) : Out :=
  .next (gate (.xclr d) s (fun s => (s.upd (fun p => p.emptyX d)).advance))

/-- XPRES (R150): never parks on xa; a register whose result latency runs is not full (R61). -/
def execXpres (d a : Reg) (s : State) : Out :=
  .next (gate (.xpres d a) s (fun s => (s.writeX d (if s.me.fullAt (s.cycleOf (coreOf s.cur)) a then 1 else 0) 2).advance))

/-! ## SEND (R151, R152) -/

/-- Where a message goes (R152). -/
inductive Dest where
  | slot (i : Nat)
  | away (pkg slot : Nat)
  /-- a thread of the group, wherever it is placed, with its slot if it is placed now (R151) -/
  | thread (rcba : Word) (lseq lid : Nat) (at_ : Option Nat)
  | refused
  deriving DecidableEq, Repr

/-- A thread that takes messages: a resident thread of a general slot (R151, R152).
DESIGN CHOICE (log 93): slots 0, 14 and 15 have no message queue, so that a message to one of them, no wake, is refused. -/
def Slot.takesMessages (p : Slot) (i : Nat) : Bool :=
  p.holds && !p.ember && decide (1 ≤ slotNo i ∧ slotNo i ≤ 13)

/-- The group's pool entry records that the thread has ended. -/
def State.threadEnded (s : State) (rcba : Word) (lseq lid : Nat) : Bool :=
  s.hearths.any (fun h => h.2.pool.any (fun g => decide (g.rcba = rcba) && g.lseq == lseq &&
    g.threads.any (fun t => t.lid == lid && t.phase == 3)))

/-- The slot a SLOTID names (R38), and its package. -/
def slotOfId (w : Word) : Option (Nat × Nat) :=
  if getField w 29 35 = 0 ∧ getField w 15 1 = 0 then some (getField w 16 13, getField w 0 15) else none

/-- The thread of a group with a LID, in this package. -/
def State.threadOf (s : State) (rcba : Word) (lseq lid : Nat) : Option (Nat × Slot) :=
  s.slots.find? (fun e => e.2.holds && decide (e.2.ctl.rcba = rcba) && e.2.lseq == lseq &&
    e.2.ctl.lid.toNat % 2 ^ 32 == lid && decide (1 ≤ slotNo e.1 ∧ slotNo e.1 ≤ 13))

/-- A message of one kind may go to a slot: a spark to any resident thread, for its core; a wake to any thread that may be parked on
a page fault, and to slot 15 for its collier (R288, R304); another to a thread that takes messages (R152). -/
def State.accepts (s : State) (i : Nat) (spark wake : Bool) : Bool :=
  let p := s.slot i
  if spark then p.holds && !p.ember else p.takesMessages i || (wake && (p.holds || slotNo i == 15))

/-- The message is a wake (R288): two words sent with `phys`. -/
def isWake (phys spark : Bool) (m : Message) : Bool := phys && !spark && m.words.length == 2

/-- The destination of a SEND (R152). -/
def State.destination (s : State) (src : Nat) (phys spark : Bool) (dest : Word) (wake : Bool) : Dest :=
  if phys then
    match slotOfId dest with
    | none => .refused
    | some (k, i) =>
      if k ≠ s.pkg.number then .away k i
      else if !s.clampExists (clampOf i) then .refused
      else if s.accepts i spark wake then .slot i
      else .refused
  else
    let p := s.slot src
    let lid := dest.toNat % 2 ^ 32
    match s.threadOf p.ctl.rcba p.lseq lid with
    | some (i, q) => if q.ember then .refused else .thread p.ctl.rcba p.lseq lid (some i)
    | none => if lid < p.extent ∧ !s.threadEnded p.ctl.rcba p.lseq lid then .thread p.ctl.rcba p.lseq lid none else .refused

/-- The narrowest scope that holds two slots (R152). -/
def narrowest (a b : Nat) : Scope :=
  if coreOf a = coreOf b then .core
  else if clampOf a = clampOf b then .clamp
  else if hearthOf a = hearthOf b then .hearth
  else .pkg

/-- Scope of the release of a SEND. -/
def Dest.scope (d : Dest) (src : Nat) : Scope :=
  match d with
  | .slot i => narrowest src i
  | .away _ _ => .sys
  | .thread _ _ _ (some i) => narrowest src i
  | .thread _ _ _ none => .pkg
  | .refused => .core

/-- A message leaves its slot for the destination (R152). -/
def State.postMessage (s : State) (src : Nat) (d : Dest) (phys spark : Bool) (m : Message) : State :=
  match d with
  | .slot i => { s with flights := s.flights ++ [(⟨src, i, phys, spark, m, none⟩ : Flight)] }
  | .thread rcba lseq lid _ => { s with flights := s.flights ++ [(⟨src, 0, phys, spark, m, some (rcba, lseq, lid)⟩ : Flight)] }
  | .away k i => s.emit (.msg k i s.pkg.number src m spark)
  | .refused => s.updSlot src (fun p => p.fenceBit Fence.refused)

/-- Access of a held SEND for BURNSTO: a write that names no segment. -/
def sendAccess : Access := ⟨0, 0, 8, 8, 0, 1, false, false⟩

/-- SEND (R152): ILL in an ember, PRIV for `phys` at user privilege; a ninth message in flight waits. -/
def execSend (d a b : Reg) (phys spark : Bool) (n : BitVec 3) (s : State) : Out :=
  .next (gate (.send d a b phys spark n) s (fun s =>
    if s.me.ember then s.ill (.send d a b phys spark n)
    else if phys && !s.me.priv then s.privFault (.send d a b phys spark n)
    else if 8 ≤ s.inFlight s.cur + (s.me.sb.filter (fun e => !e.held && e.kind.isSend)).length then s
    else
      let words := (regRange b (n.toNat + 1)).map s.me.getX
      let seq := s.me.sendCount
      let m : Message := ⟨s.me.ctl.lid.toNat % 2 ^ 32, seq, words⟩
      s.enter sendAccess false (s.entry (.send phys spark (s.me.getX a) m) none 0) (fun s =>
        ((s.upd (fun p => { p with sendCount := (seq + 1) % 2 ^ 32 })).writeX d (BitVec.ofNat 64 seq) 2).advance)))

/-! ## Delivery (R151, R154, R288) -/

/-- A wake of the collier (R304): the command of the core that is parked on the token resumes, or completes with PAGEFAIL; one that has
its status was parked on its completion word, and completes without it. -/
def Command.wake (k : Command) (token : Nat) (decline : Bool) : Command :=
  if k.parked = some token then { k with
      parked := none
      status := if decline then some 0x04 else k.status
      noWord := k.noWord || (decline && k.status.isSome) }
  else k

def State.collierWake (s : State) (core token : Nat) (decline : Bool) : State × Bool :=
  (s.updCore core (fun c => { c with commands := c.commands.map (fun k => k.wake token decline) }),
   (s.core core).commands.any (fun k => k.parked == some token))

/-- A wake message (R288): two words sent with `phys`. It is consumed by a park on its token, or discarded with REFUSED at the
sender; it also ends WFI (R22). -/
def State.wakeMessage (s : State) (src : Option Nat) (dst : Nat) (words : List Word) : State :=
  let token := ((words[0]?).getD 0).toNat % 2 ^ 32
  let decline := decide (((words[1]?).getD 0) ≠ 0)
  let (t, taken) := if slotNo dst = 15 then s.collierWake (coreOf dst) token decline else s.pageWake dst token decline
  let t := t.wakeWfi dst
  match src with
  | some i => if taken then t else t.refuseMessage i
  | none => t

/-- A message reaches a slot's queue, or the handler queue of its core; none while that is full (R151). -/
def State.deliver (s : State) (dst : Nat) (f : Flight) : Option State :=
  if f.spark then
    if (s.core (coreOf dst)).handlers.length < 16 then
      some ((s.updCore (coreOf dst) (fun c => { c with handlers := c.handlers ++ [{ f with dst := dst }] })).wakeWfi (16 * coreOf dst + 14))
    else none
  else if (s.slot dst).msgs.length < 16 then
    some ((s.updSlot dst (fun p => { p with msgs := p.msgs ++ [f.m] })).wakeWfi dst)
  else none

/-- The slot that a message is for: of one sent to a LID, that of the thread, if it has one. -/
def State.flightTo (s : State) (f : Flight) : Option Nat :=
  match f.waiting with
  | some (rcba, lseq, lid) => (s.threadOf rcba lseq lid).map (·.1)
  | none => some f.dst

/-- Two messages of one sender for one thread, by its LID or by its slot. -/
def State.sameThread (s : State) (f g : Flight) : Bool :=
  g.src == f.src && g.spark == f.spark &&
    ((g.dst == f.dst && g.waiting == f.waiting) || ((s.flightTo f).isSome && s.flightTo f == s.flightTo g))

/-- The k-th message may arrive: no earlier one of its sender for the same thread (R152). -/
def State.flightTurn (s : State) (k : Nat) : Bool :=
  match s.flights[k]? with
  | some f => !(s.flights.take k).any (s.sameThread f)
  | none => false

/-- MESSAGE_DELIVERY (R151, R152): a message to a thread of the group follows it to where it is placed. -/
def State.arrive (s : State) (k : Nat) (f : Flight) : State :=
  let gone := { s with flights := s.flights.eraseIdx k }
  match f.waiting with
  | some (rcba, lseq, lid) =>
    match s.threadOf rcba lseq lid with
    | some (i, q) => if q.ember then gone.refuseMessage f.src else (gone.deliver i f).getD s
    | none => if s.threadEnded rcba lseq lid then gone.refuseMessage f.src else s
  | none =>
    if isWake f.phys f.spark f.m then gone.wakeMessage (some f.src) f.dst f.m.words
    else if !s.accepts f.dst f.spark false then gone.refuseMessage f.src
    else (gone.deliver f.dst f).getD s

def execMessageDelivery (k : Nat) (s : State) : Out :=
  .next (match s.flights[k]? with
    | some f => if s.flightTurn k then s.arrive k f else s
    | none => s)

/-! ## RECV and handlers (R153, R154) -/

/-- Writes a message's header and words to registers from xd on (R153). -/
def Slot.takeMessage (p : Slot) (d : Reg) (n : Nat) (m : Message) : Slot :=
  let q := p.setX d (BitVec.ofNat 64 (m.sender * 2 ^ 32 + m.seq % 2 ^ 32))
  (List.range n).foldl (fun q i => q.setX (d + BitVec.ofNat 4 (i + 1)) ((m.words[i]?).getD 0)) q

/-- The k-th entry of the issuing slot's queue is taken; a spark that is held for the stoker can enter then (R18). -/
def State.dropMessage (s : State) (k : Nat) : State :=
  if slotNo s.cur = 0 then s.updCore (coreOf s.cur) (fun c => { c with sparks := c.sparks.eraseIdx k })
  else s.upd (fun p => { p with msgs := p.msgs.eraseIdx k })

/-- RECV (R153). -/
def execRecv (d a b : Reg) (n : BitVec 3) (s : State) : Out :=
  .next (gate (.recv d a b n) s (fun s =>
    let x := s.me.getX a
    let y := s.me.getX b
    if s.me.ember then s.ill (.recv d a b n)
    else if s.me.det && (x == BitVec.allOnes 64 || y == BitVec.allOnes 64) then s.ill (.recv d a b n)
    else match (s.inbox s.cur).findIdx? (msgMatches x y) with
      | none => s.parkOn (.msg x y)
      | some k =>
        match (s.inbox s.cur)[k]? with
        | none => s
        | some m => ((s.dropMessage k).upd (fun p => p.takeMessage d (n.toNat + 1) m)).advance))

/-- A PUTN value that waits for the slot is discarded with REFUSED at its sender (R150). -/
def State.dropPutn (s : State) (slot : Nat) : State :=
  match (s.slot slot).putn with
  | some (_, _, from_) => (s.updSlot slot (fun p => { p with putn := none })).updSlot from_ (fun p => p.fenceBit Fence.refused)
  | none => s

/-- SPKRET (R154, R163), a release at `.core`: ILL outside slot 14, in an ember and in a burn; waits until the store buffer is empty, and its atomics are performed, then ends the handler. -/
def execSpkret (s : State) : Out :=
  .next (gate .spkret s (fun s =>
    if slotNo s.cur ≠ 14 ∨ s.me.ember ∨ s.me.burning then s.ill .spkret
    else if !s.me.sb.isEmpty || !s.settled s.cur then s
    else (s.dropPutn s.cur).upd Slot.ended))

/-- Slot 14 as a handler starts (R154).
DESIGN CHOICE (log 93): a handler that runs a thread's code has no overlays, and is no thread of the group: no step, and not hashed. -/
def handlerSlot (dst : Slot) (m : Message) : Slot :=
  let w (i : Nat) : Word := (m.words[i]?).getD 0
  { Slot.free with
    mode := .running
    x := #v[w 0, w 1, w 2, w 3, w 4, w 5, w 6, w 7, BitVec.ofNat 64 (m.sender * 2 ^ 32 + m.seq % 2 ^ 32), 0, 0, 0, 0, 0, 0, 0]
    pc := w 0
    sg := dst.sg
    lseq := dst.lseq
    extent := dst.extent
    ctl := { Ctl.zero with
      rcba := dst.ctl.rcba
      lid := dst.ctl.lid
      fdom := dst.ctl.fdom
      status := dst.ctl.status &&& 2#64 } }

/-- SPARK_HANDLER_START (R154). A message whose destination thread has ended is refused (R152, assumption 16). -/
def execSparkHandlerStart (core : Nat) (s : State) : Out :=
  .next (match (s.core core).handlers with
    | [] => s
    | f :: rest =>
      if (s.slot (16 * core + 14)).mode = .free then
        let s := s.updCore core (fun c => { c with handlers := rest })
        if (s.slot f.dst).holds then s.setSlot (16 * core + 14) (handlerSlot (s.slot f.dst) f.m) else s.refuseMessage f.src
      else s)

end Sys2Proof.Machine
end

