-- ==== Sys2Proof/Machine/Sinks.lean ====
section
/-! DEFINITION. Sinks, the records of a step's window and their retirement (20_counted_release R312, R313; 22_media R339 to R343,
R345). -/
namespace Sys2Proof.Machine

/-! ## The group of a thread -/

/-- FLAGS.CHECKED (R171, R357). -/
def Rcb.checked (g : Rcb) : Bool := g.flags.testBit 6

/-- The pool entry of a launch of hearth h: LSEQ is the hearth's own (R173). -/
def State.pendOf (s : State) (h : Nat) (rcba : Word) (lseq : Nat) : Option Pend :=
  (s.hearth h).pool.find? (fun g => decide (g.rcba = rcba) && g.lseq == lseq)

/-- The pool entry of a slot's thread, with its hearth. -/
def State.groupOf (s : State) (slot : Nat) : Option (Nat × Pend) :=
  match (s.slot slot).launcher with
  | .hearth h => if (s.slot slot).mode = .free then none
      else (s.pendOf h (s.slot slot).ctl.rcba (s.slot slot).lseq).map (fun g => (h, g))
  | .stoker | .away => none

def State.updPend (s : State) (h : Nat) (lseq : Nat) (f : Pend → Pend) : State :=
  s.updHearth h (fun x => { x with pool := x.pool.map (fun (g : Pend) => if g.lseq = lseq then f g else g) })

/-! ## What a checked thread hashes (R357) -/

/-- Address, size and data of one write, as they are hashed. -/
def writeBytes (a : Word) (bs : List Byte) : List Byte := bytesOfNat 8 a.toNat ++ bytesOfNat 8 bs.length ++ bs

/-- What is known of the digest's next part is added to it. -/
def Slot.flushHash (p : Slot) : Slot :=
  let known := p.hashes.takeWhile (fun (e : Nat × Option (List Byte)) => e.1 == 0 && e.2.isSome)
  { p with digest := p.digest ++ known.flatMap (fun e => e.2.getD []), hashes := p.hashes.drop known.length }

/-- A write beside the store buffer: it follows the entries there in program order; its bytes may not be known yet. -/
def Slot.hashLater (p : Slot) (bs : Option (List Byte)) : Slot := { p with hashes := p.hashes ++ [(p.sb.length, bs)] }.flushHash

/-- The oldest entry of the store buffer is performed. -/
def Slot.hashOldest (p : Slot) (bs : List Byte) : Slot :=
  let now := p.hashes.takeWhile (fun (e : Nat × Option (List Byte)) => e.1 == 0)
  let later := (p.hashes.drop now.length).map (fun (e : Nat × Option (List Byte)) => (e.1 - 1, e.2))
  { p with hashes := now ++ (0, some bs) :: later }.flushHash

/-- The oldest write whose bytes were not known is performed. -/
def fillHash (bs : List Byte) : List (Nat × Option (List Byte)) → List (Nat × Option (List Byte))
  | [] => []
  | (n, none) :: r => (n, some bs) :: r
  | e :: r => e :: fillHash bs r

def Slot.hashKnown (p : Slot) (bs : List Byte) : Slot := { p with hashes := fillHash bs p.hashes }.flushHash

/-- The slot's thread belongs to a checked group. -/
def State.checkedSlot (s : State) (slot : Nat) : Bool := (s.groupOf slot).any (fun x => x.2.g.checked)

/-- A write of a thread of a checked group is hashed. -/
def State.hash (s : State) (slot : Nat) (f : Slot → Slot) : State := if s.checkedSlot slot then s.updSlot slot f else s

/-- A window of another package's media unit as its ember here sees it (log 92). -/
def farWindow (rcba : Word) (lseq : Nat) : Option StepWindow :=
  (Config.farWindow rcba lseq).map (fun x => ⟨0, x.1, x.2.map (fun off => ⟨0, 0, off, 0, 0, 0, false⟩)⟩)

/-- The window of the step that a slot's thread belongs to (R312): its launch's, in whichever package that was; a move does not change it
(R264). -/
def State.windowOf (s : State) (slot : Nat) : Option StepWindow :=
  match (s.slot slot).launcher with
  | .away => if (s.slot slot).holds then farWindow (s.slot slot).ctl.rcba (s.slot slot).lseq else none
  | .hearth _ | .stoker => (s.groupOf slot).bind (fun e => e.2.window)

/-! ## Tick descriptors (R341) -/

def State.sink (s : State) (n : Nat) : Sink := Table.get Sink.reset s.pkg.sinks n
def State.updSink (s : State) (n : Nat) (f : Sink → Sink) : State :=
  { s with pkg := { s.pkg with sinks := Table.put s.pkg.sinks n (f (s.sink n)) } }

/-- The tick generator runs, and has a descriptor n. -/
def State.hasTick (s : State) (n : Nat) : Bool := bitW s.pkg.tickctl 0 && decide (n < min (getField s.pkg.tickctl 1 7) 64)

/-- The enabled descriptor n of a running tick generator, as memory holds it.
DESIGN CHOICE (log 93): one that an uncorrectable error hides fires no tick, and a record or a header so hidden makes nothing present. -/
def State.tickDesc (s : State) (n : Nat) : Option TickDesc :=
  let at_ := getField s.pkg.tickctl 12 39 * 4096 + 64 * n
  if s.hasTick n && !s.badAt at_ 64 && fld (s.homeNat (at_ + 0x30) 4) 0 1 == 1 then
    some ⟨at_, s.homeWord at_, s.homeNat (at_ + 8) 8 % 2 ^ 51, s.homeNat (at_ + 0x10) 4, s.homeNat (at_ + 0x14) 4,
      s.homeNat (at_ + 0x18) 4, s.homeNat (at_ + 0x1C) 4, s.homeNat (at_ + 0x30) 4⟩
  else none

/-- The limits of R341; no other field of a descriptor is checked (log 93). -/
def TickDesc.legal (d : TickDesc) : Bool :=
  decide (100000 ≤ d.period) && decide (d.period ≤ 10 ^ 9) && decide (10 ^ 9 % d.period = 0) && decide (d.phase < d.period) &&
  decide (d.guard < d.width) && decide (d.width ≤ d.period + d.guard)

/-- The enabled descriptor n of memory, if it is legal. -/
def State.liveDesc (s : State) (n : Nat) : Option TickDesc := (s.tickDesc n).filter TickDesc.legal

/-- The descriptor n in effect: as it was at the last tick, since a change takes effect at the next (R341); before the first tick, and after
one at which it was disabled, as memory holds it. -/
def State.served (s : State) (n : Nat) : Option TickDesc :=
  if s.hasTick n then (s.sink n).desc.orElse (fun _ => s.liveDesc n) else none

/-- The descriptors whose sinks are watched: that in effect, and that which the next tick puts in effect (R340, R341). -/
def State.watched (s : State) (n : Nat) : List TickDesc := (s.served n).toList ++ (s.liveDesc n).toList

/-- The first tick instant that is not before `x` (R342). -/
def TickDesc.tickFrom (d : TickDesc) (x : Nat) : Nat :=
  if x ≤ d.phase then d.phase else d.phase + (x - d.phase + d.period - 1) / d.period * d.period

/-- The own tick of a stamp: the first T with stamp < T − G (R343). -/
def TickDesc.ownTick (d : TickDesc) (stamp : Nat) : Nat := d.tickFrom (stamp + d.guard + 1)

/-! ## Sink headers (R339) and retirement (R345) -/

/-- A wrapping 32-bit counter of a sink header rises by `k`. -/
def State.countSink (s : State) (sink off k : Nat) : State :=
  s.storeNat (sink + off) 4 ((s.homeNat (sink + off) 4 + k) % 2 ^ 32)

/-- FREE passes every record, in ring order, that has been retired or dropped. -/
def freeFrom (done : List (Nat × Nat)) (sink : Nat) : Nat → Nat → Nat
  | 0, f => f
  | k + 1, f => if done.contains (sink, f) then freeFrom done sink k (f + 1) else f

/-- A record is retired or dropped: FREE advances, and its write is a release at `.sys`, performed at home. -/
def State.freeRecord (s : State) (n sink num : Nat) : State :=
  let done := (sink, num) :: (s.sink n).done
  let old := s.homeNat (sink + 8) 8
  let new := freeFrom done sink done.length old
  let s := s.updSink n (fun k => { k with done := done.filter (fun x => x.1 != sink || decide (new ≤ x.2)) })
  if new = old then s else s.storeNat (sink + 8) 8 new

/-- A dropped record counts in DROPC and is treated as retired (R340). -/
def State.dropRecord (s : State) (n sink num : Nat) : State := (s.countSink sink 0x24 1).freeRecord n sink num

/-- Retires the window's records with an index below k (R312). -/
def State.retireWindow (s : State) (slot k : Nat) : State :=
  match s.groupOf slot with
  | none => s
  | some (h, g) =>
    match g.window with
    | none => s
    | some w =>
      let fresh := (w.recs.take k).filter (fun r => !r.retired)
      let s := s.updPend h g.lseq (fun (g : Pend) => { g with window := some { w with
        recs := (w.recs.take k).map (fun r => { r with retired := true }) ++ w.recs.drop k } })
      fresh.foldl (fun s r => s.freeRecord w.desc r.sink r.n) s

/-- Records that no MACK retired go back to their sink when the group completes or its launch is refused (R344, R345). -/
def State.returnRecords (s : State) (n : Nat) (rs : List WindowRec) : State :=
  s.updSink n (fun k => { k with
    step := none
    recs := k.recs ++ (rs.filter (fun r => !r.retired)).map (fun r => (⟨r, s.dtime, true⟩ : SinkRec)) })

/-! ## Presence and expiry (R340, R343) -/

/-- The record a writer has made present next in the sink of a descriptor, if there is one: n < PROD and n < FREE + NREC. -/
def State.nextIn (s : State) (n : Nat) (d : TickDesc) : Option (TickDesc × Nat) :=
  let free := s.homeNat (d.sink + 8) 8
  let k := max (Table.get 0 (s.sink n).seen d.sink) free
  if s.badAt d.sink 64 ∨ s.badAt (d.sink + 64 * (k % s.homeNat (d.sink + 0x10) 4 + 1)) 64 then none
  else if k < s.homeNat d.sink 8 ∧ k < free + s.homeNat (d.sink + 0x10) 4 then some (d, k) else none

def State.nextRecord (s : State) (n : Nat) : Option (TickDesc × Nat) := (s.watched n).findSome? (s.nextIn n)

/-- Nanoseconds of a stamp (R313, R343). -/
def State.stampAt (s : State) (a : Nat) : Nat := s.homeNat a 6 * 10 ^ 9 + s.homeNat (a + 6) 4

/-- The media unit drops the record at an address (R340, R343). -/
def State.recordBad (s : State) (d : TickDesc) (a : Nat) : Bool :=
  decide (s.homeNat (a + 0x0C) 4 ≠ s.homeNat (d.sink + 0x14) 4) || decide (s.homeNat (a + 0x0A) 2 / 4 ≠ 0) ||
  (s.homeBytes (a + 0x24) 28).any (fun b => b != 0) || decide (10 ^ 9 ≤ s.homeNat (a + 6) 4) ||
  decide (s.stampAt a + d.width < d.ownTick (s.stampAt a))

/-- RECORD_PRESENT (R340). -/
def execRecordPresent (n : Nat) (s : State) : Out :=
  .next (match s.nextRecord n with
    | none => s
    | some (d, k) =>
      let off := 64 * (k % s.homeNat (d.sink + 0x10) 4 + 1)
      let a := d.sink + off
      let s := s.updSink n (fun x => { x with seen := Table.set 0 x.seen d.sink (k + 1) })
      if s.recordBad d a then s.dropRecord n d.sink k
      else s.updSink n (fun x => { x with recs := x.recs ++ [(⟨⟨d.sink, k, off, s.stampAt a, s.homeNat (a + 0x0C) 4,
        s.homeNat (a + 0x10) 8, false⟩, s.dtime, false⟩ : SinkRec)] }))

/-- A forward step has passed over the instant since the last tick that fired (R338). -/
def Sink.passedOver (k : Sink) (t : Nat) : Bool := k.passed.any (fun p => decide (p.1 ≤ t) && decide (t < p.2))

/-- A step has passed over the record's own tick or the one after: the next tick takes it (R343). -/
def SinkRec.skipped (r : SinkRec) (d : TickDesc) (k : Sink) : Bool :=
  k.passedOver (d.ownTick r.item.stamp) || k.passedOver (d.ownTick r.item.stamp + d.period)

/-- The record's last chance, T0 + P, is over (R343). -/
def SinkRec.expired (r : SinkRec) (d : TickDesc) (k : Sink) (dtime : Nat) : Bool :=
  let last := d.ownTick r.item.stamp + d.period
  !r.returned && !r.skipped d k && (decide (last < dtime) || (match k.lastTick with
    | some t => decide (last ≤ t)
    | none => false))

/-- The first record of the sink in effect whose last chance is over. -/
def State.nextExpired (s : State) (n : Nat) : Option SinkRec :=
  match s.served n with
  | none => none
  | some d => (s.sink n).recs.find? (fun r => r.item.sink == d.sink && r.expired d (s.sink n) s.dtime)

/-- RECORD_EXPIRE (R343). -/
def execRecordExpire (n : Nat) (s : State) : Out :=
  .next (match s.nextExpired n with
    | none => s
    | some r => (s.updSink n (fun k => { k with recs := k.recs.filter (fun x => x != r) })).dropRecord n r.item.sink r.item.n)

/-! ## MEDIA forms (R312, R347) -/

/-- A form of a step: ILL in any other thread. -/
def State.media (s : State) (i : Instr) (k : State → StepWindow → State) : State :=
  gate i s (fun s =>
    match s.windowOf s.cur with
    | none => s.ill i
    | some w => k s w)

/-- MWIN count. -/
def execMwinCount (d : Reg) (s : State) : Out :=
  .next (s.media (.mwinCount d) (fun s w => (s.writeX d (BitVec.ofNat 64 w.recs.length) 2).advance))

/-- MWIN: the sink offset of a record, or all ones. -/
def execMwin (d a : Reg) (s : State) : Out :=
  .next (s.media (.mwin d a) (fun s w =>
    (s.writeX d (match w.recs[(s.me.getX a).toNat]? with
      | some r => BitVec.ofNat 64 r.off
      | none => BitVec.allOnes 64) 2).advance))

/-- MTICK. -/
def execMtick (d : Reg) (s : State) : Out :=
  .next (s.media (.mtick d) (fun s w => (s.writeX d (BitVec.ofNat 64 w.tick) 2).advance))

/-- MACK: waits for the slot's earlier loads; held in a burn. -/
def execMack (a : Reg) (s : State) : Out :=
  .next (s.media (.mack a) (fun s _ =>
    let k := (s.me.getX a).toNat
    if s.me.fills ≠ [] then s
    else if s.me.burning then s.enter sendAccess false (s.entry (.mack k) none 0) State.advance
    else (s.retireWindow s.cur k).advance))

end Sys2Proof.Machine
end

