-- ==== Sys2Proof/Machine/Special.lean ====
section
/-! DEFINITION. The special functions of VSPEC (14_vector R232, R233): correctly rounded for binary16 and bf16; for binary32 one of the
results within the stated error, a fixed function of the input bits that the manual does not give (assumption 9). Values are
computed with 320 fractional bits. -/
namespace Sys2Proof.Machine

/-- Function codes of VSPEC. -/
inductive SpecFn where
  | exp2 | log2 | rcp | rsq | sqrt | tanh | sigm
  deriving DecidableEq, Repr

def SpecFn.code : SpecFn → Nat
  | .exp2 => 0
  | .log2 => 1
  | .rcp => 2
  | .rsq => 3
  | .sqrt => 4
  | .tanh => 5
  | .sigm => 6

/-- Error of a binary32 result in units in the last place (R232). -/
def SpecFn.ulps : SpecFn → Nat
  | .exp2 | .rcp | .rsq => 1
  | .sqrt => 0
  | .log2 | .tanh | .sigm => 2

/-! ## Fixed point -/

/-- Fractional bits, and one. -/
def specP : Nat := 320
def specOne : Nat := 2 ^ specP

/-- Σ y^k / k! from a term on, y < 1. -/
def expTerms (y : Nat) : Nat → Nat → Nat → Nat
  | 0, _, _ => 0
  | n + 1, k, term => term + expTerms y n (k + 1) (term * y / specOne / (k + 1))

/-- e^y for 0 ≤ y < 1. -/
def expFrac (y : Nat) : Nat := expTerms y 90 0 specOne

/-- Σ z^(2k+1) / (2k+1) from a power on, z ≤ 1/3. -/
def atanhTerms (zz : Nat) : Nat → Nat → Nat → Nat
  | 0, _, _ => 0
  | n + 1, k, power => power / (2 * k + 1) + atanhTerms zz n (k + 1) (power * zz / specOne)

/-- Natural logarithm of m, 1 ≤ m < 2. -/
def lnFrac (m : Nat) : Nat :=
  let z := (m - specOne) * specOne / (m + specOne)
  2 * atanhTerms (z * z / specOne) 110 0 z

/-- ln 2. -/
def ln2 : Nat := 2 * atanhTerms (specOne / 9) 110 0 (specOne / 3)

/-- e^(−t). -/
def expNeg (t : Nat) : Nat :=
  let u := t * specOne / ln2
  let f := u % specOne
  expFrac ((specOne - f) * ln2 / specOne) / 2 / 2 ^ (u / specOne)

/-- Largest r with r² ≤ x, from bit n − 1 down. -/
def isqrtFrom (x : Nat) : Nat → Nat → Nat
  | 0, r => r
  | n + 1, r => if (r + 2 ^ n) * (r + 2 ^ n) ≤ x then isqrtFrom x n (r + 2 ^ n) else isqrtFrom x n r

def isqrt (x : Nat) : Nat := isqrtFrom x (Nat.log2 x / 2 + 1) 0

/-! ## Exact results of finite inputs -/

/-- A result before rounding: ± mag × 2^exp, and whether that is exact; an inexact magnitude lies strictly above mag. -/
structure Approx where
  neg : Bool
  mag : Nat
  exp : Int
  exact : Bool
  deriving DecidableEq, Repr

/-- The magnitude with a last bit that stands for everything below. -/
def Approx.sticky (a : Approx) : Nat × Int := if a.exact then (a.mag, a.exp) else (2 * a.mag + 1, a.exp - 1)

/-- Just below a magnitude. -/
def justBelow (neg : Bool) (mag : Nat) (exp : Int) : Approx := ⟨neg, mag * 2 ^ 400 - 1, exp - 400, false⟩

/-- A magnitude m × 2^e scaled to `specP` fractional bits. -/
def scaled (m : Nat) (e : Int) : Nat :=
  if e + specP < 0 then m / 2 ^ (-(e + specP)).toNat else m * 2 ^ (e + specP).toNat

/-- 2^a. -/
def approxExp2 (neg : Bool) (m : Nat) (e : Int) : Approx :=
  let big := decide (10 ≤ e + (Nat.log2 m : Int))
  if m = 0 then ⟨false, 1, 0, true⟩
  else if big then ⟨false, 1, if neg then -2000 else 2000, false⟩
  else
    let x : Int := if neg then -(scaled m e : Int) else scaled m e
    let n := x / specOne
    let f := (x % specOne).toNat
    if f = 0 then ⟨false, 1, n, true⟩
    else ⟨false, expFrac (f * ln2 / specOne), n - specP, false⟩

/-- log2 a, a > 0. -/
def approxLog2 (m : Nat) (e : Int) : Approx :=
  let k := Nat.log2 m
  let n := e + (k : Int)
  if m = 2 ^ k then ⟨decide (n < 0), n.natAbs, 0, true⟩
  else
    let v : Int := n * specOne + (lnFrac (scaled m (-(k : Int))) * specOne / ln2 : Nat)
    if v < 0 then ⟨true, v.natAbs - 1, -(specP : Int), false⟩ else ⟨false, v.natAbs, -(specP : Int), false⟩

/-- 1 / a. -/
def approxRcp (neg : Bool) (m : Nat) (e : Int) : Approx :=
  ⟨neg, specOne / m, -e - specP, decide (specOne % m = 0)⟩

/-- A magnitude with an even exponent. -/
def evenExp (m : Nat) (e : Int) : Nat × Int := if e % 2 = 0 then (m, e) else (2 * m, e - 1)

/-- √a. -/
def approxSqrt (m : Nat) (e : Int) : Approx :=
  let (m, e) := evenExp m e
  let x := m * 2 ^ 128
  let r := isqrt x
  ⟨false, r, e / 2 - 64, decide (r * r = x)⟩

/-- 1 / √a. -/
def approxRsq (m : Nat) (e : Int) : Approx :=
  let (m, e) := evenExp m e
  let x := specOne * specOne
  let r := isqrt (x / m)
  ⟨false, r, -(e / 2) - specP, decide (r * r * m = x)⟩

/-- tanh a. -/
def approxTanh (neg : Bool) (m : Nat) (e : Int) : Approx :=
  let top := e + (Nat.log2 m : Int)
  if top < -60 then justBelow neg m e
  else if 6 ≤ top then justBelow neg 1 0
  else
    let x := expNeg (2 * scaled m e)
    ⟨neg, (specOne - x) * specOne / (specOne + x), -(specP : Int), false⟩

/-- 1 / (1 + e^(−a)). -/
def approxSigm (neg : Bool) (m : Nat) (e : Int) : Approx :=
  let top := e + (Nat.log2 m : Int)
  if 7 ≤ top then (if neg then ⟨false, 1, -1000, false⟩ else justBelow false 1 0)
  else
    let x := expNeg (scaled m e)
    if neg then ⟨false, x * specOne / (specOne + x), -(specP : Int), false⟩
    else ⟨false, specOne * specOne / (specOne + x), -(specP : Int), false⟩

/-- The result of a finite input that R233 does not list. -/
def SpecFn.approx (fn : SpecFn) (neg : Bool) (m : Nat) (e : Int) : Approx :=
  match fn with
  | .exp2 => approxExp2 neg m e
  | .log2 => approxLog2 m e
  | .rcp => approxRcp neg m e
  | .rsq => approxRsq m e
  | .sqrt => approxSqrt m e
  | .tanh => approxTanh neg m e
  | .sigm => approxSigm neg m e

/-! ## Rounding -/

/-- The value of a binary32 magnitude's encoding; the encoding of infinity stands for 2^128. -/
def mag32 (bits : Nat) : Dyadic :=
  if bits < 2 ^ 23 then ⟨bits, -149⟩ else ⟨(2 ^ 23 + bits % 2 ^ 23 : Nat), (bits / 2 ^ 23 : Nat) - 150⟩

/-- |v − x| ≤ n ulp of x, for binary32 magnitudes (R232). -/
def within (n : Nat) (x v : Dyadic) : Bool :=
  let e := x.e + (Nat.log2 x.m.natAbs : Int)
  let ulp : Dyadic := ⟨n, max e (-126) - 23⟩
  decide ((x.add v.neg).cmp ulp ≤ 0) && decide ((v.add x.neg).cmp ulp ≤ 0)

/-- The encodings within the error of an inexact binary32 result. -/
def candidates (n : Nat) (x : Dyadic) (floor : Nat) : List Nat :=
  ((List.range 10).map (fun k => floor + k)).filterMap (fun b =>
    if 4 ≤ b ∧ b - 4 ≤ fmtF32.infBits ∧ within n x (mag32 (b - 4)) then some (b - 4) else none)

/-- A binary32 result within its error: the one that `Config.specPick` names (assumption 9). -/
def pick32 (fn : SpecFn) (input : Nat) (a : Approx) : Res :=
  let (m, e) := a.sticky
  let near := fmtF32.roundMag .rne a.neg m e
  if a.exact && near.flags == .clear then near.res
  else if fn.ulps = 0 ∨ 128 ≤ e + (Nat.log2 m : Int) then near.res
  else
    let floor := (fmtF32.roundMag .rtz false m e).bits
    let cs := candidates fn.ulps ⟨m, e⟩ floor
    match cs[Config.specPick fn.code input % cs.length]? with
    | none => near.res
    | some b =>
      ((if a.neg then 2 ^ 31 else 0) + b,
        (Sticky.nx.or (Sticky.when (b == fmtF32.infBits) .of_)).or (Sticky.when (decide (b < 2 ^ 23)) .uf))

/-- A finite result in a type. -/
def SpecFn.finish (fn : SpecFn) (ty : Ty) (input : Nat) (a : Approx) : Res :=
  if a.mag = 0 ∧ a.exact then (if a.neg then 2 ^ (tyFmt ty).sign else 0, .clear)
  else if ty = .f32 then pick32 fn input a
  else (let (m, e) := a.sticky; ((tyFmt ty).roundMag .rne a.neg m e).res)

/-- The encoding of a small power of two. -/
def FloatFmt.pow2 (f : FloatFmt) (k : Int) (neg : Bool) : Nat := (f.roundMag .rne neg 1 k).bits

/-- One lane of VSPEC: the special inputs of R233, then the function. -/
def SpecFn.eval (fn : SpecFn) (ty : Ty) (b : Nat) : Res :=
  let f := tyFmt ty
  let zero (neg : Bool) : Nat := if neg then 2 ^ f.sign else 0
  match f.read b with
  | .nan s => (f.nanBits, Sticky.when s .nv)
  | .inf neg =>
    match fn with
    | .exp2 => (if neg then 0 else f.inf false, .clear)
    | .log2 => if neg then f.invalid else (f.inf false, .clear)
    | .rcp => (zero neg, .clear)
    | .rsq => if neg then f.invalid else (0, .clear)
    | .sqrt => if neg then f.invalid else (f.inf false, .clear)
    | .tanh => (f.pow2 0 neg, .clear)
    | .sigm => (if neg then 0 else f.pow2 0 false, .clear)
  | .fin neg m e =>
    if m = 0 then
      match fn with
      | .exp2 => (f.pow2 0 false, .clear)
      | .log2 => (f.inf true, .dz)
      | .rcp | .rsq => (f.inf neg, .dz)
      | .sqrt | .tanh => (zero neg, .clear)
      | .sigm => (f.pow2 (-1) false, .clear)
    else if neg && (fn == .log2 || fn == .rsq || fn == .sqrt) then f.invalid
    else fn.finish ty b (fn.approx neg m e)

end Sys2Proof.Machine
end

