-- ==== Sys2Proof/Machine/Vector.lean ====
section
/-! DEFINITION. Vector and mask instructions (14_vector R220 to R237). -/
namespace Sys2Proof.Machine

/-! ## Lanes (R220, R222) -/

/-- Lane i of w bits. -/
def lane (w : Nat) (v : VWord) (i : Nat) : Nat := fld v.toNat (w * i) w

/-- Lanes joined, lane 0 lowest. -/
def joinLanes (w : Nat) : List Nat → Nat
  | [] => 0
  | x :: xs => x % 2 ^ w + 2 ^ w * joinLanes w xs

def ofLanes (w : Nat) (xs : List Nat) : VWord := BitVec.ofNat 512 (joinLanes w xs)

/-- Lanes of a type. -/
def laneCount (ty : Ty) : Nat := 512 / tyBits ty

/-- m0 excludes lane i (R222). -/
def Slot.excludes (p : Slot) (mk : Bool) (i : Nat) : Bool := mk && !bitW (p.getM 0) i

/-- Sticky bits of all lanes. -/
def allFlags : List Res → Sticky
  | [] => .clear
  | r :: rs => r.2.or (allFlags rs)

/-- The issuing slot writes a mask register, complete n cycles after issue (R221). -/
def State.writeM (s : State) (r : MReg) (w : Word) (n : Nat) : State :=
  s.upd (fun p => (p.setM r w).late (s.cycleOf (coreOf s.cur)) (48 + r.toNat) n)

/-! ## Vector registers in the pool (R33, R223) -/

/-- The block of 64 bytes of the pool that holds a vector register. -/
def State.vregBlock (s : State) (slot : Nat) (r : VReg) : Nat :=
  let n := s.vcount slot
  poolAddr (coreOf slot) ((32 - (if n = 32 then 2 else 1)) * 16384 + ((slotNo slot - 1) * n + r.toNat) * 64) / 64

/-- A vector register the instruction reads holds uncorrectable data (R223). -/
def State.vregBad (s : State) (i : Instr) : Option VReg :=
  (uses i).vs.find? (fun r => s.badAt (64 * s.vregBlock s.cur r) 64)

/-- The gate of a vector instruction: ECCUNC comes after the checks of every instruction (R223). -/
def vgate (i : Instr) (s : State) (body : State → State) : State :=
  gate i s (fun s =>
    match s.vregBad i with
    | some r => s.raise Cause.eccunc (s.global (64 * s.vregBlock s.cur r)) (BitVec.ofNat 64 (sizeCode 64 * 2 ^ 21))
    | none => body s)

/-- Writes vd and clears an error of its block (R355). -/
def State.putV (s : State) (r : VReg) (v : VWord) (n : Nat) : State :=
  let s := { s with bad := clearBad s.bad (64 * s.vregBlock s.cur r) 64 }
  s.writeV r v n

/-- vd ← the lanes given, a masked lane keeping its old value; the sticky bits of the lanes computed are raised (R222). -/
def State.laneOp (s : State) (d : VReg) (w : Nat) (mk : Bool) (n : Nat) (f : Nat → Res) : State :=
  let p := s.me
  let rs := (List.range (512 / w)).map (fun i => if p.excludes mk i then (lane w (p.getV d) i, Sticky.clear) else f i)
  ((s.stick (allFlags rs) n).putV d (ofLanes w (rs.map (·.1))) n).advance

/-- A lane-wise form of two vector sources. -/
def State.vec2 (s : State) (i : Instr) (d a b : VReg) (ty : Ty) (mk : Bool) (n : Nat) (f : Nat → Nat → Res) : State :=
  vgate i s (fun s =>
    let w := tyBits ty
    s.laneOp d w mk n (fun k => f (lane w (s.me.getV a) k) (lane w (s.me.getV b) k)))

/-- A lane-wise form of one vector source. -/
def State.vec1 (s : State) (i : Instr) (d a : VReg) (ty : Ty) (mk : Bool) (n : Nat) (f : Nat → Res) : State :=
  vgate i s (fun s =>
    let w := tyBits ty
    s.laneOp d w mk n (fun k => f (lane w (s.me.getV a) k)))

/-! ## Integer lanes (R224) -/

/-- An exact integer in w bits. -/
def wrapRes (w : Nat) (v : Int) : Res := (wrap w v, .clear)

def laneAdd (ty : Ty) (a b : Nat) : Res := wrapRes (tyBits ty) (a + b : Nat)
def laneSub (ty : Ty) (a b : Nat) : Res := wrapRes (tyBits ty) ((a : Int) - b)
def laneMul (ty : Ty) (a b : Nat) : Res := wrapRes (tyBits ty) (a * b : Nat)
def laneMulh (ty : Ty) (a b : Nat) : Res := wrapRes (tyBits ty) (intValue ty a * intValue ty b / (2 ^ tyBits ty : Nat))
def laneAdds (ty : Ty) (a b : Nat) : Res := ((clampInt ty (intValue ty a + intValue ty b)).1, .clear)
def laneSubs (ty : Ty) (a b : Nat) : Res := ((clampInt ty (intValue ty a - intValue ty b)).1, .clear)
def laneMin (ty : Ty) (a b : Nat) : Res := (if intValue ty a ≤ intValue ty b then a else b, .clear)
def laneMax (ty : Ty) (a b : Nat) : Res := (if intValue ty b ≤ intValue ty a then a else b, .clear)
def laneAnd (_ : Ty) (a b : Nat) : Res := (a &&& b, .clear)
def laneOr (_ : Ty) (a b : Nat) : Res := (a ||| b, .clear)
def laneXor (_ : Ty) (a b : Nat) : Res := (a ^^^ b, .clear)
def laneShl (ty : Ty) (a b : Nat) : Res := wrapRes (tyBits ty) (a * 2 ^ (b % tyBits ty) : Nat)
def laneShr (ty : Ty) (a b : Nat) : Res := (a / 2 ^ (b % tyBits ty), .clear)
def laneSra (ty : Ty) (a b : Nat) : Res := wrapRes (tyBits ty) (sgn (tyBits ty) a / (2 ^ (b % tyBits ty) : Nat))
def laneAbs (ty : Ty) (a : Nat) : Res := wrapRes (tyBits ty) ((sgn (tyBits ty) a).natAbs)

def execVadd (d a b : VReg) (ty : Ty) (mk : Bool) (s : State) : Out := .next (s.vec2 (.vadd d a b ty mk) d a b ty mk 3 (laneAdd ty))
def execVsub (d a b : VReg) (ty : Ty) (mk : Bool) (s : State) : Out := .next (s.vec2 (.vsub d a b ty mk) d a b ty mk 3 (laneSub ty))
def execVmul (d a b : VReg) (ty : Ty) (mk : Bool) (s : State) : Out := .next (s.vec2 (.vmul d a b ty mk) d a b ty mk 5 (laneMul ty))
def execVmulh (d a b : VReg) (ty : Ty) (mk : Bool) (s : State) : Out := .next (s.vec2 (.vmulh d a b ty mk) d a b ty mk 5 (laneMulh ty))
def execVadds (d a b : VReg) (ty : Ty) (mk : Bool) (s : State) : Out := .next (s.vec2 (.vadds d a b ty mk) d a b ty mk 3 (laneAdds ty))
def execVsubs (d a b : VReg) (ty : Ty) (mk : Bool) (s : State) : Out := .next (s.vec2 (.vsubs d a b ty mk) d a b ty mk 3 (laneSubs ty))
def execVmin (d a b : VReg) (ty : Ty) (mk : Bool) (s : State) : Out := .next (s.vec2 (.vmin d a b ty mk) d a b ty mk 3 (laneMin ty))
def execVmax (d a b : VReg) (ty : Ty) (mk : Bool) (s : State) : Out := .next (s.vec2 (.vmax d a b ty mk) d a b ty mk 3 (laneMax ty))
def execVand (d a b : VReg) (ty : Ty) (mk : Bool) (s : State) : Out := .next (s.vec2 (.vand d a b ty mk) d a b ty mk 3 (laneAnd ty))
def execVor (d a b : VReg) (ty : Ty) (mk : Bool) (s : State) : Out := .next (s.vec2 (.vor d a b ty mk) d a b ty mk 3 (laneOr ty))
def execVxor (d a b : VReg) (ty : Ty) (mk : Bool) (s : State) : Out := .next (s.vec2 (.vxor d a b ty mk) d a b ty mk 3 (laneXor ty))
def execVshl (d a b : VReg) (ty : Ty) (mk : Bool) (s : State) : Out := .next (s.vec2 (.vshl d a b ty mk) d a b ty mk 3 (laneShl ty))
def execVshr (d a b : VReg) (ty : Ty) (mk : Bool) (s : State) : Out := .next (s.vec2 (.vshr d a b ty mk) d a b ty mk 3 (laneShr ty))
def execVsra (d a b : VReg) (ty : Ty) (mk : Bool) (s : State) : Out := .next (s.vec2 (.vsra d a b ty mk) d a b ty mk 3 (laneSra ty))
def execVabs (d a : VReg) (ty : Ty) (mk : Bool) (s : State) : Out := .next (s.vec1 (.vabs d a ty mk) d a ty mk 3 (laneAbs ty))

/-! ## Floating-point lanes (R225, R226) -/

def laneFadd (ty : Ty) (a b : Nat) : Res := (tyFmt ty).add a b
def laneFsub (ty : Ty) (a b : Nat) : Res := (tyFmt ty).sub a b
def laneFmul (ty : Ty) (a b : Nat) : Res := (tyFmt ty).mul a b
def laneFmin (ty : Ty) (a b : Nat) : Res := (tyFmt ty).minMax false a b
def laneFmax (ty : Ty) (a b : Nat) : Res := (tyFmt ty).minMax true a b
def laneFabs (ty : Ty) (a : Nat) : Res :=
  (if ((tyFmt ty).read a).isNan then (tyFmt ty).nanBits else a % 2 ^ (tyFmt ty).sign, .clear)
def laneFneg (ty : Ty) (a : Nat) : Res :=
  (if ((tyFmt ty).read a).isNan then (tyFmt ty).nanBits
   else if bitOf a (tyFmt ty).sign then a - 2 ^ (tyFmt ty).sign else a + 2 ^ (tyFmt ty).sign, .clear)

def execVfadd (d a b : VReg) (ty : Ty) (mk : Bool) (s : State) : Out := .next (s.vec2 (.vfadd d a b ty mk) d a b ty mk 4 (laneFadd ty))
def execVfsub (d a b : VReg) (ty : Ty) (mk : Bool) (s : State) : Out := .next (s.vec2 (.vfsub d a b ty mk) d a b ty mk 4 (laneFsub ty))
def execVfmul (d a b : VReg) (ty : Ty) (mk : Bool) (s : State) : Out := .next (s.vec2 (.vfmul d a b ty mk) d a b ty mk 4 (laneFmul ty))
def execVfmin (d a b : VReg) (ty : Ty) (mk : Bool) (s : State) : Out := .next (s.vec2 (.vfmin d a b ty mk) d a b ty mk 4 (laneFmin ty))
def execVfmax (d a b : VReg) (ty : Ty) (mk : Bool) (s : State) : Out := .next (s.vec2 (.vfmax d a b ty mk) d a b ty mk 4 (laneFmax ty))
def execVfabs (d a : VReg) (ty : Ty) (mk : Bool) (s : State) : Out := .next (s.vec1 (.vfabs d a ty mk) d a ty mk 4 (laneFabs ty))
def execVfneg (d a : VReg) (ty : Ty) (mk : Bool) (s : State) : Out := .next (s.vec1 (.vfneg d a ty mk) d a ty mk 4 (laneFneg ty))

/-- A fused form: vd is the third source (R226). -/
def State.vecFma (s : State) (i : Instr) (d a b : VReg) (ty : Ty) (mk negP negD : Bool) : State :=
  vgate i s (fun s =>
    let w := tyBits ty
    s.laneOp d w mk 5 (fun k =>
      (tyFmt ty).fma negP negD (lane w (s.me.getV a) k) (lane w (s.me.getV b) k) (lane w (s.me.getV d) k)))

def execVfma (d a b : VReg) (ty : Ty) (mk : Bool) (s : State) : Out := .next (s.vecFma (.vfma d a b ty mk) d a b ty mk false false)
def execVfms (d a b : VReg) (ty : Ty) (mk : Bool) (s : State) : Out := .next (s.vecFma (.vfms d a b ty mk) d a b ty mk false true)
def execVfnma (d a b : VReg) (ty : Ty) (mk : Bool) (s : State) : Out := .next (s.vecFma (.vfnma d a b ty mk) d a b ty mk true false)

/-! ## Vector and scalar (R227) -/

/-- The low bits of xb as a lane. -/
def Slot.scalarLane (p : Slot) (b : Reg) (ty : Ty) : Nat := (p.getX b).toNat % 2 ^ tyBits ty

/-- VBCAST. -/
def execVbcast (d : VReg) (b : Reg) (ty : Ty) (mk : Bool) (s : State) : Out :=
  .next (vgate (.vbcast d b ty mk) s (fun s => s.laneOp d (tyBits ty) mk 3 (fun _ => (s.me.scalarLane b ty, .clear))))

/-- VINS. -/
def execVins (d : VReg) (k : BitVec 6) (b : Reg) (ty : Ty) (s : State) : Out :=
  .next (vgate (.vins d k b ty) s (fun s =>
    s.laneOp d (tyBits ty) false 3 (fun i =>
      (if i = k.toNat then s.me.scalarLane b ty else lane (tyBits ty) (s.me.getV d) i, .clear))))

/-- VEXT. -/
def execVext (v : VReg) (k : BitVec 6) (b : Reg) (ty : Ty) (s : State) : Out :=
  .next (vgate (.vext v k b ty) s (fun s =>
    let x := lane (tyBits ty) (s.me.getV v) k.toNat
    (s.writeX b (if tySigned ty then sext (tyBits ty) x else BitVec.ofNat 64 x) 4).advance))

/-- VADDX. -/
def execVaddx (d a : VReg) (b : Reg) (ty : Ty) (mk : Bool) (s : State) : Out :=
  .next (vgate (.vaddx d a b ty mk) s (fun s =>
    let x := s.me.scalarLane b ty
    s.laneOp d (tyBits ty) mk 3 (fun k =>
      let y := lane (tyBits ty) (s.me.getV a) k
      if tyInt ty then laneAdd ty y x else laneFadd ty y x)))

/-- VFMULX. -/
def execVfmulx (d a : VReg) (b : Reg) (ty : Ty) (mk : Bool) (s : State) : Out :=
  .next (vgate (.vfmulx d a b ty mk) s (fun s =>
    let x := s.me.scalarLane b ty
    s.laneOp d (tyBits ty) mk 4 (fun k => laneFmul ty (lane (tyBits ty) (s.me.getV a) k) x)))

/-! ## Masks and selection (R228, R229) -/

/-- A comparison of integer lanes: the condition decides signedness (R229). -/
def laneCompare (c : Cond) (ty : Ty) (a b : Nat) : Bool × Sticky :=
  if tyInt ty then
    let w := tyBits ty
    (match c with
      | .eq => decide (a = b)
      | .ne => decide (a ≠ b)
      | .lt => decide (sgn w a < sgn w b)
      | .ge => decide (sgn w b ≤ sgn w a)
      | .ltn => decide (a < b)
      | .gen => decide (b ≤ a)
      | .le => decide (sgn w a ≤ sgn w b)
      | .gt => decide (sgn w b < sgn w a)
      | .len => decide (a ≤ b)
      | .gtn => decide (b < a)
      | .al => true, .clear)
  else (tyFmt ty).compare c a b

/-- Bits as a word, bit 0 first. -/
def bitsWord (bs : List Bool) : Word := BitVec.ofNat 64 (joinLanes 1 (bs.map (fun b => if b then 1 else 0)))

/-- VCMP. -/
def execVcmp (n : MReg) (a b : VReg) (c : Cond) (ty : Ty) (mk : Bool) (s : State) : Out :=
  .next (vgate (.vcmp n a b c ty mk) s (fun s =>
    let w := tyBits ty
    let rs := (List.range (laneCount ty)).map (fun k =>
      if s.me.excludes mk k then (false, Sticky.clear)
      else laneCompare c ty (lane w (s.me.getV a) k) (lane w (s.me.getV b) k))
    ((s.stick (allFlags (rs.map (fun r => (0, r.2)))) 2).writeM n (bitsWord (rs.map (·.1))) 2).advance))

/-- VSEL. -/
def execVsel (d a b : VReg) (ty : Ty) (s : State) : Out :=
  .next (vgate (.vsel d a b ty) s (fun s =>
    let w := tyBits ty
    s.laneOp d w false 2 (fun k => (lane w (s.me.getV (if bitW (s.me.getM 0) k then a else b)) k, .clear))))

def execMand (n a b : MReg) (s : State) : Out :=
  .next (gate (.mand n a b) s (fun s => (s.writeM n (s.me.getM a &&& s.me.getM b) 2).advance))
def execMor (n a b : MReg) (s : State) : Out :=
  .next (gate (.mor n a b) s (fun s => (s.writeM n (s.me.getM a ||| s.me.getM b) 2).advance))
def execMnot (n a : MReg) (s : State) : Out :=
  .next (gate (.mnot n a) s (fun s => (s.writeM n (~~~s.me.getM a) 2).advance))

/-- MPOPC. -/
def execMpopc (x : Reg) (a : MReg) (ty : Ty) (mk : Bool) (s : State) : Out :=
  .next (gate (.mpopc x a ty mk) s (fun s =>
    let m := if mk then s.me.getM a &&& s.me.getM 0 else s.me.getM a
    (s.writeX x (BitVec.ofNat 64 (((List.range (laneCount ty)).filter (fun i => bitW m i)).length) ) 3).advance))

/-! ## Conversion (R230, R231) -/

/-- VCVT and VCVTS. -/
def State.vecConvert (s : State) (i : Instr) (d a : VReg) (src dst : Ty) (p : Nat) (mk : Bool) (f : Nat → Res) : State :=
  vgate i s (fun s =>
    let ws := tyBits src
    let wd := tyBits dst
    let wide := max ws wd
    let n := 512 / wide
    let first := if wd < ws then p * n else 0
    s.laneOp d wd false 4 (fun k =>
      if k < first ∨ first + n ≤ k ∨ s.me.excludes mk (k - first) then (lane wd (s.me.getV d) k, .clear)
      else f (lane ws (s.me.getV a) (if ws < wd then p * n + (k - first) else k - first))))

def execVcvt (d a : VReg) (nan : Bool) (rm : Round) (src : Ty) (p : BitVec 2) (dst : Ty) (mk : Bool) (s : State) : Out :=
  .next (s.vecConvert (.vcvt d a nan rm src p dst mk) d a src dst p.toNat mk (convert src dst rm nan 0))
def execVcvts (d a : VReg) (k : BitVec 4) (src : Ty) (p : BitVec 2) (dst : Ty) (mk : Bool) (s : State) : Out :=
  .next (s.vecConvert (.vcvts d a k src p dst mk) d a src dst p.toNat mk (convert src dst .rne false k.toInt))

/-! ## Special functions (R232) -/

def execVexp2 (d a : VReg) (ty : Ty) (mk : Bool) (s : State) : Out := .next (s.vec1 (.vexp2 d a ty mk) d a ty mk 12 (SpecFn.exp2.eval ty))
def execVlog2 (d a : VReg) (ty : Ty) (mk : Bool) (s : State) : Out := .next (s.vec1 (.vlog2 d a ty mk) d a ty mk 12 (SpecFn.log2.eval ty))
def execVrcp (d a : VReg) (ty : Ty) (mk : Bool) (s : State) : Out := .next (s.vec1 (.vrcp d a ty mk) d a ty mk 12 (SpecFn.rcp.eval ty))
def execVrsq (d a : VReg) (ty : Ty) (mk : Bool) (s : State) : Out := .next (s.vec1 (.vrsq d a ty mk) d a ty mk 12 (SpecFn.rsq.eval ty))
def execVsqrt (d a : VReg) (ty : Ty) (mk : Bool) (s : State) : Out := .next (s.vec1 (.vsqrt d a ty mk) d a ty mk 12 (SpecFn.sqrt.eval ty))
def execVtanh (d a : VReg) (ty : Ty) (mk : Bool) (s : State) : Out := .next (s.vec1 (.vtanh d a ty mk) d a ty mk 12 (SpecFn.tanh.eval ty))
def execVsigm (d a : VReg) (ty : Ty) (mk : Bool) (s : State) : Out := .next (s.vec1 (.vsigm d a ty mk) d a ty mk 12 (SpecFn.sigm.eval ty))

/-! ## Reductions (R218, R234, R235) -/

/-- One level of the tree: neighbours combined. -/
def treeLevel (op : Nat → Nat → Res) : List Nat → List Res
  | x :: y :: r => op x y :: treeLevel op r
  | [x] => [(x, .clear)]
  | [] => []

/-- The levels n_0, n_1, … of the tree, and every sticky bit of its nodes. -/
def treeLevels (op : Nat → Nat → Res) : Nat → List Nat → List (List Nat) × Sticky
  | 0, xs => ([xs], .clear)
  | n + 1, xs =>
    let ys := treeLevel op xs
    let (ls, f) := treeLevels op n (ys.map (·.1))
    (xs :: ls, (allFlags ys).or f)

/-- Identity of a reduction: 0 VRADD, 1 VRMAX, 2 VRMIN (R234). -/
def redIdentity (kind : Nat) (ty : Ty) : Nat :=
  let f := tyFmt ty
  if tyInt ty then
    if kind = 0 then 0 else wrap (tyBits ty) (if kind = 1 then intMin ty else intMax ty)
  else if kind = 0 then 2 ^ f.sign else f.inf (kind == 1)

/-- The operation at a node. -/
def redOp (kind : Nat) (ty : Ty) (x y : Nat) : Res :=
  if tyInt ty then (if kind = 0 then laneAdd ty x y else if kind = 1 then laneMax ty x y else laneMin ty x y)
  else if kind = 0 then laneFadd ty x y else if kind = 1 then laneFmax ty x y else laneFmin ty x y

/-- Lanes as they enter a reduction. -/
def Slot.redLanes (p : Slot) (a : VReg) (ty : Ty) (mk : Bool) (identity : Nat) : List Nat :=
  (List.range (laneCount ty)).map (fun k => if p.excludes mk k then identity else lane (tyBits ty) (p.getV a) k)

/-- Number of levels: log2 of the lane count. -/
def treeDepth (ty : Ty) : Nat := Nat.log2 (laneCount ty)

/-- VRADD, VRMAX, VRMIN. -/
def State.vecReduce (s : State) (i : Instr) (d a : VReg) (ty : Ty) (mk : Bool) (kind : Nat) : State :=
  vgate i s (fun s =>
    let (ls, f) := treeLevels (redOp kind ty) (treeDepth ty) (s.me.redLanes a ty mk (redIdentity kind ty))
    let r := ((ls.getLastD []).headD 0)
    ((s.stick f 8).putV d (ofLanes (tyBits ty) [r]) 8).advance)

def execVradd (d a : VReg) (ty : Ty) (mk : Bool) (s : State) : Out := .next (s.vecReduce (.vradd d a ty mk) d a ty mk 0)
def execVrmax (d a : VReg) (ty : Ty) (mk : Bool) (s : State) : Out := .next (s.vecReduce (.vrmax d a ty mk) d a ty mk 1)
def execVrmin (d a : VReg) (ty : Ty) (mk : Bool) (s : State) : Out := .next (s.vecReduce (.vrmin d a ty mk) d a ty mk 2)

/-- x is above y in VRMAX's order (R234). -/
def above (ty : Ty) (x y : Nat) : Bool :=
  if tyInt ty then decide (intValue ty y < intValue ty x) else numBelow ((tyFmt ty).read y) ((tyFmt ty).read x)

/-- The winning pair of VRMAXI. -/
def maxPair (ty : Ty) (x y : Nat × Nat) : Nat × Nat :=
  if above ty x.1 y.1 then x else if above ty y.1 x.1 then y else if x.2 ≤ y.2 then x else y

/-- VRMAXI (R234): the fixed tree and a left-to-right pass agree, since the better of two pairs does not depend on order. -/
def execVrmaxi (d a : VReg) (ty : Ty) (mk : Bool) (s : State) : Out :=
  .next (vgate (.vrmaxi d a ty mk) s (fun s =>
    let w := tyBits ty
    let id := (redIdentity 1 ty, 2 ^ w - 1)
    let ls := (List.range (laneCount ty)).map (fun k =>
      let x := lane w (s.me.getV a) k
      if s.me.excludes mk k then (id, Sticky.clear)
      else if !tyInt ty && ((tyFmt ty).read x).isNan then (id, snanFlag [(tyFmt ty).read x])
      else ((x, k), Sticky.clear))
    let r := (ls.map (·.1)).foldl (maxPair ty) id
    ((s.stick (allFlags (ls.map (fun e => (0, e.2)))) 8).putV d (ofLanes w [r.1, r.2]) 8).advance))

/-- One lane of VSCAN: the blocks of lanes 0 to i, from the largest (R235). -/
def scanLane (op : Nat → Nat → Res) (ls : List (List Nat)) (i : Nat) : Nat → Nat → Option Nat → Res
  | 0, _, acc => (acc.getD 0, .clear)
  | d + 1, base, acc =>
    if bitOf (i + 1) d then
      let node := (((ls[d]?).getD [])[base / 2 ^ d]?).getD 0
      let (v, f) := match acc with
        | none => (node, Sticky.clear)
        | some x => op x node
      let (r, g) := scanLane op ls i d (base + 2 ^ d) (some v)
      (r, f.or g)
    else scanLane op ls i d base acc

/-- A lane's result as it is written: a NaN result is the default NaN of the format (R205). -/
def nanResult (ty : Ty) (x : Nat) : Nat :=
  if !tyInt ty && ((tyFmt ty).read x).isNan then (tyFmt ty).nanBits else x

/-- VSCAN. -/
def execVscan (d a : VReg) (ty : Ty) (mk : Bool) (s : State) : Out :=
  .next (vgate (.vscan d a ty mk) s (fun s =>
    let n := treeDepth ty
    let (ls, f) := treeLevels (redOp 0 ty) n (s.me.redLanes a ty mk (redIdentity 0 ty))
    let rs := (List.range (laneCount ty)).map (fun i =>
      ((fun (r : Res) => (nanResult ty r.1, r.2)) (scanLane (redOp 0 ty) ls i (n + 1) 0 none) : Res))
    ((s.stick (f.or (allFlags rs)) 10).putV d (ofLanes (tyBits ty) (rs.map (·.1))) 10).advance))

/-! ## Permutes (R236) -/

/-- VPERM. -/
def execVperm (d a b : VReg) (ty : Ty) (mk : Bool) (s : State) : Out :=
  .next (vgate (.vperm d a b ty mk) s (fun s =>
    let w := tyBits ty
    s.laneOp d w mk 4 (fun i =>
      let j := lane w (s.me.getV b) i
      (if j < laneCount ty then lane w (s.me.getV a) j else 0, .clear))))

/-- VSLIDE. -/
def execVslide (d a : VReg) (k : BitVec 5) (ty : Ty) (mk : Bool) (s : State) : Out :=
  .next (vgate (.vslide d a k ty mk) s (fun s =>
    let w := tyBits ty
    s.laneOp d w mk 4 (fun i => (if i + k.toNat < laneCount ty then lane w (s.me.getV a) (i + k.toNat) else 0, .clear))))

/-- VSLIDE up. -/
def execVslideUp (d a : VReg) (k : BitVec 5) (ty : Ty) (mk : Bool) (s : State) : Out :=
  .next (vgate (.vslideUp d a k ty mk) s (fun s =>
    let w := tyBits ty
    s.laneOp d w mk 4 (fun i => (if k.toNat ≤ i then lane w (s.me.getV a) (i - k.toNat) else 0, .clear))))

/-- VROT. -/
def execVrot (d a : VReg) (k : BitVec 5) (ty : Ty) (mk : Bool) (s : State) : Out :=
  .next (vgate (.vrot d a k ty mk) s (fun s =>
    let w := tyBits ty
    s.laneOp d w mk 4 (fun i => (lane w (s.me.getV a) ((i + k.toNat) % laneCount ty), .clear))))

/-! ## Dot products (R237) -/

/-- Bytes 4 i to 4 i + 3 of two vectors. -/
def quads (a b : VWord) (i : Nat) : List (Nat × Nat) := (List.range 4).map (fun k => (lane 8 a (4 * i + k), lane 8 b (4 * i + k)))

/-- VDOT4. -/
def execVdot4 (d a b : VReg) (ty : Ty) (mk : Bool) (s : State) : Out :=
  .next (vgate (.vdot4 d a b ty mk) s (fun s =>
    s.laneOp d 32 mk 6 (fun i =>
      let p := (quads (s.me.getV a) (s.me.getV b) i).foldl (fun z e => z + intValue ty e.1 * intValue ty e.2) (0 : Int)
      wrapRes 32 ((lane 32 (s.me.getV d) i : Int) + p))))

/-- A group of products: NaN, an infinity, or the exact sum (R216, R237). -/
inductive GroupSum where
  | nan
  | inf (neg : Bool)
  | sum (d : Dyadic)
  deriving DecidableEq, Repr

/-- One more product in a group. -/
def GroupSum.plus (g : GroupSum) (p : Option Num) : GroupSum :=
  match g, p with
  | .nan, _ => .nan
  | _, none => .nan
  | _, some (.nan _) => .nan
  | .inf x, some (.inf y) => if x = y then .inf x else .nan
  | .inf x, some (.fin _ _ _) => .inf x
  | .sum _, some (.inf y) => .inf y
  | .sum d, some (.fin p m e) => .sum (d.add (finDyadic p m e))

def groupSum (ps : List (Option Num)) : GroupSum := ps.foldl GroupSum.plus (.sum .zero)

/-- VDOTF8 (R237): d and the exact sum rounded once; a NaN among the factors, 0 × ∞ and opposite infinities raise NV. -/
def laneDotf8 (ty : Ty) (d : Nat) (ps : List (Nat × Nat)) : Res :=
  let x := fmtF32.read d
  match groupSum (ps.map (fun e => mulNum ((tyFmt ty).read e.1) ((tyFmt ty).read e.2))) with
  | .nan => fmtF32.invalid
  | .inf neg => fmtF32.addNum x (.inf neg)
  | .sum g =>
    match x with
    | .fin p m e => (fmtF32.round .rne ((finDyadic p m e).add g) false).res
    | x => fmtF32.addNum x (.fin false 0 0)

def execVdotf8 (d a b : VReg) (ty : Ty) (mk : Bool) (s : State) : Out :=
  .next (vgate (.vdotf8 d a b ty mk) s (fun s =>
    s.laneOp d 32 mk 6 (fun i => laneDotf8 ty (lane 32 (s.me.getV d) i) (quads (s.me.getV a) (s.me.getV b) i))))

end Sys2Proof.Machine
end

