-- ==== Sys2Proof/Machine/Kiln.lean ====
section
/-! DEFINITION. The kiln: format contexts, operand descriptors and scales, the checks at issue, grants, sums and retirement
(15_kiln R239 to R251, 13_numbers R206, R210 to R217, 12_two_contexts R196, R198). -/
namespace Sys2Proof.Machine

/-! ## Formats (R241, R215) -/

def kformatOf (n : Nat) : Option KFormat :=
  match n with
  | 0 => some .bf16
  | 1 => some .f16
  | 2 => some .e4m3
  | 3 => some .e5m2
  | 4 => some .e2m1
  | 5 => some .ce8
  | _ => none

/-- FA and FB of a context word; none when a code is reserved or the pair is not one of R241. -/
def kformats (w : Word) : Option (KFormat × KFormat) :=
  match kformatOf (getField w 0 3), kformatOf (getField w 3 3) with
  | some a, some b => if fmtPair b a then some (a, b) else none
  | _, _ => none

def kTy : KFormat → Ty
  | .bf16 => .bf16
  | .f16 => .f16
  | .e4m3 | .ce8 => .e4m3
  | .e5m2 => .e5m2
  | .e2m1 => .e2m1

/-- K of one instruction, elements of a group, and groups. -/
def kLen : KFormat → Nat
  | .bf16 | .f16 => 128
  | .e2m1 => 512
  | _ => 256
def kGroup : KFormat → Nat
  | .bf16 | .f16 => 16
  | _ => 32
def kGroups (f : KFormat) : Nat := kLen f / kGroup f

/-- Bytes of position metadata of a sparse row (R245). -/
def metaBytes (f : KFormat) : Nat := kLen f / 8

/-- Bytes a group occupies in the row (R247). -/
def groupBytes (f : KFormat) (sparse : Bool) : Nat := (if f = .e2m1 then 16 else 32) / (if sparse then 2 else 1)

/-! ## Descriptors (R243) -/

def descCore (e : Word) : Nat := getField e 20 4
def descBase (e : Word) : Nat := getField e 0 19
def descRot (o : Word) : Nat := getField o 32 4
def descTp (o : Word) : Nat := getField o 16 16
def descRp (o : Word) : Nat := getField o 0 16

/-- Offset of row r of a matrix operand. -/
def rowOff (o : Word) (r : Nat) : Nat := r % 8 * descRp o + r / 8 * descTp o

/-- Scratchpad bytes of a core (R32). -/
def State.scratch (s : State) (core : Nat) : Nat := 16384 * s.nsg core

/-- EINFO of a kiln check: SG 7 and the K right (R250). -/
def kilnInfo : Word := BitVec.ofNat 64 (7 * 2 ^ 16 + 0x40 * 2 ^ 24)

/-- ALIGN and SEGLIM of a descriptor, in this order (R250): base alignment, which pitches are checked, and the bytes reached. -/
def State.descFault (s : State) (clamp : Nat) (e o : Word) (align : Nat) (rp tp : Bool) (span : Nat) : Option (Nat × Word) :=
  if descBase e % align ≠ 0 ∨ (rp = true ∧ descRp o % 16 ≠ 0) ∨ (tp = true ∧ descTp o % 16 ≠ 0) then some (Cause.align, e)
  else if getField e 24 40 ≠ 0 ∨ getField e 19 1 ≠ 0 ∨ getField o 36 28 ≠ 0 then some (Cause.seglim, e)
  else if s.scratch (16 * clamp + descCore e) < descBase e + span then some (Cause.seglim, e)
  else none

/-- Bytes a matrix operand reaches from its base (R243 to R245, R250). -/
def operandSpan (f : KFormat) (isA sparse : Bool) (o : Word) : Nat :=
  let last := 7 * descRp o + 3 * descTp o
  if f = .ce8 then (if isA then last + 400 else 128)
  else if sparse then last + 128 + metaBytes f
  else last + 256

/-- The check of a matrix operand; a ce8 B operand ignores its pitches (R244). -/
def State.operandFault (s : State) (clamp : Nat) (f : KFormat) (isA sparse : Bool) (e o : Word) : Option (Nat × Word) :=
  let pitched := isA || f != .ce8
  s.descFault clamp e o 16 pitched pitched (operandSpan f isA sparse o)

/-- Offset into its table of the scale of group g of row r (R247). -/
def scaleAddr (base shift : Word) (f : KFormat) (sparse : Bool) (off g : Nat) : Nat :=
  getField base 0 19 + (off + g * groupBytes f sparse) / 2 ^ getField shift 0 6

/-- SEGLIM of a scale table: the last scale byte lies in the scratchpad (R250). -/
def State.scaleFault (s : State) (clamp : Nat) (base shift : Word) (f : KFormat) (sparse : Bool) (last : Nat) : Option (Nat × Word) :=
  if f ≠ .ce8 ∧ s.scratch (16 * clamp + getField base 20 4) ≤ scaleAddr base shift f sparse last (kGroups f - 1) then
    some (Cause.seglim, base)
  else none

/-- The issuing thread's sg7 has the K right (R31, R250). -/
def Slot.kilnRight (p : Slot) : Bool := (p.seg 7).rights.getLsbD 6

/-- The first of several checks that fails. -/
def firstFault : List (Option (Nat × Word)) → Option (Nat × Word)
  | [] => none
  | some f :: _ => some f
  | none :: r => firstFault r

/-! ## Requests (R239) -/

/-- Low 32 bits of the PC of the instruction that issues; word i of a frame stands after its REPF. -/
def State.issuePc (s : State) : Nat :=
  match s.myCore.frame with
  | some f => if s.inFrame then (f.repf.toNat + 4 * (f.i + 1)) % 2 ^ 32 else s.me.pc.toNat % 2 ^ 32
  | none => s.me.pc.toNat % 2 ^ 32

/-- The scale registers a request captures. -/
def Slot.scales (p : Slot) : List Word := [p.ctl.kscba, p.ctl.kscsa, p.ctl.kscbb, p.ctl.kscsb]

/-- An uncorrectable block of the pool that holds a vector register (R33, R251). -/
def State.vregsBad (s : State) (slot : Nat) : Option Word :=
  ((List.range 32).find? (fun r => s.badAt (64 * s.vregBlock slot (BitVec.ofNat 5 r)) 64)).map (fun r =>
    BitVec.ofNat 64 (coreOf slot % 16 * 2 ^ 20 + s.vregBlock slot (BitVec.ofNat 5 r) * 64 % 2 ^ 19))

/-- A request of the issuing slot. -/
def State.request (s : State) (kind : KKind) (t : TReg) (ea oa eb ob fmt : Word) (scaled acc : Bool) (v : List VWord) : KReq :=
  ⟨s.cur, kind, t, ea, oa, eb, ob, fmt, s.me.scales, scaled, acc, v, s.me.burning, s.issuePc, 0, none, [], [],
    if kind = .mmv then s.vregsBad s.cur else none, 0⟩

/-- The instruction waits: its position is occupied, or a timed one would pass an untimed request on its tile. -/
def Core.kilnWaits (c : Core) (timed : Bool) (t : TReg) : Bool :=
  if timed then c.kTimed.isSome || c.kUntimed.any (fun r => r.t == t) else c.kUntimed.isSome

/-- The request takes its position. -/
def Core.place (c : Core) (r : KReq) : Core :=
  if r.timed then { c with kTimed := some r } else { c with kUntimed := some r }

/-- ACCFIRST (R196): the tiles hold another context's values. -/
def State.accFirst (s : State) (core : Nat) (ca : Word) : Bool :=
  !bitW (s.core core).accown 0 || (s.core core).accown >>> 17 != ca >>> 17

/-- What KSTA and KCVT will write takes its place among the writes that are hashed (R357). -/
def State.hashTurn (s : State) (k : KKind) : State :=
  match k with
  | .sta | .cvt => s.hash s.cur (fun p => p.hashLater none)
  | _ => s

/-- A kiln instruction that names a tile: the waits, ACCFIRST, its own checks, then the request (R239, R249). -/
def State.kiln (s : State) (i : Instr) (t : TReg) (format : State → Bool) (check : State → Option (Nat × Word))
    (r : State → KReq) : State :=
  gate i s (fun s =>
    if s.myCore.kilnWaits s.me.burning t then s
    else if s.accFirst (coreOf s.cur) s.me.ca then s.raise Cause.accfirst 0 (BitVec.ofNat 64 (t.toNat * 2 ^ 32))
    else if !format s then s.raise Cause.kilnfmt 0 (wordInfo (wordOf i))
    else if !s.me.kilnRight && (i != .kzero t) then s.raise Cause.segrights 0 kilnInfo
    else match check s with
      | some (c, a) => s.raise c a kilnInfo
      | none => ((s.updCore (coreOf s.cur) (fun c => c.place (r s))).hashTurn (r s).kind).advance)

/-! ## KFMT and KSCALE (R242, R248) -/

def kformatCode : KFormat → Nat
  | .bf16 => 0
  | .f16 => 1
  | .e4m3 => 2
  | .e5m2 => 3
  | .e2m1 => 4
  | .ce8 => 5

/-- KFMT. -/
def execKfmt (c : BitVec 2) (nan strict : Bool) (fb fa : KFormat) (s : State) : Out :=
  .next (gate (.kfmt c nan strict fb fa) s (fun s =>
    let w := BitVec.ofNat 64 ((if nan then 128 else 0) + (if strict then 64 else 0) + kformatCode fb * 8 + kformatCode fa)
    (s.updCore (coreOf s.cur) (fun k => { k with kfmt := k.kfmt.set c.toNat w })).advance))

/-- Writable bits of KSCBA and KSCBB, of KSCSA and KSCSB (R247). -/
def kscbMask : Word := 0xF7FFFF
def kscsMask : Word := 0x3F

/-- KSCALE #0. -/
def execKscaleA (a b : Reg) (s : State) : Out :=
  .next (gate (.kscaleA a b) s (fun s =>
    (s.upd (fun p => { p with ctl := { p.ctl with
      kscba := merge kscbMask p.ctl.kscba (p.getX a)
      kscsa := merge kscsMask p.ctl.kscsa (p.getX b) } })).advance))

/-- KSCALE #1. -/
def execKscaleB (a b : Reg) (s : State) : Out :=
  .next (gate (.kscaleB a b) s (fun s =>
    (s.upd (fun p => { p with ctl := { p.ctl with
      kscbb := merge kscbMask p.ctl.kscbb (p.getX a)
      kscsb := merge kscsMask p.ctl.kscsb (p.getX b) } })).advance))

/-! ## The matrix instructions (R249) -/

/-- Format context c of the issuing core. -/
def State.kcontext (s : State) (c : BitVec 2) : Word := s.myCore.kfmt.getD c.toNat 0

/-- The formats are valid for the instruction (R249). -/
def matrixFormat (w : Word) (kind : KKind) (as : Bool) (oa ob : Word) : Bool :=
  match kformats w with
  | none => false
  | some (fa, fb) =>
    !(as && (fa == .bf16 || fa == .f16)) && !((kind == .mmas || kind == .mmv) && fa == .ce8) &&
    !(kind != .mmv && fa == .ce8 && descRot oa != 0) && !(fb == .ce8 && descRot ob != 0)

/-- The checks of R250: A before B, operands before scales. -/
def State.matrixFault (s : State) (clamp : Nat) (w : Word) (kind : KKind) (as : Bool) (ea oa eb ob : Word) (ksc : List Word) :
    Option (Nat × Word) :=
  match kformats w with
  | none => none
  | some (fa, fb) =>
    let sparse := kind == .mmas
    firstFault [
      if kind = .mmv then none else s.operandFault clamp fa true sparse ea oa,
      s.operandFault clamp fb false false eb ob,
      if as then s.scaleFault clamp (ksc.getD 0 0) (ksc.getD 1 0) fa sparse
        (if kind = .mmv then 256 * 7 else rowOff oa 31) else none,
      if as then s.scaleFault clamp (ksc.getD 2 0) (ksc.getD 3 0) fb false (rowOff ob 31) else none]

/-- An instruction of the KMMA major. -/
def State.matrix (s : State) (i : Instr) (kind : KKind) (t : TReg) (a b : Reg) (c : BitVec 2) (as acc : Bool) : State :=
  let x (p : Slot) (r : Reg) : Word := p.getX r
  let oa (s : State) : Word := if kind = .mmv then 0 else x s.me (a + 1)
  let ea (s : State) : Word := if kind = .mmv then 0 else x s.me a
  s.kiln i t (fun s => matrixFormat (s.kcontext c) kind as (oa s) (x s.me (b + 1)))
    (fun s => s.matrixFault (clampOf s.cur) (s.kcontext c) kind as (ea s) (oa s) (x s.me b) (x s.me (b + 1)) s.me.scales)
    (fun s => s.request kind t (ea s) (oa s) (x s.me b) (x s.me (b + 1)) (s.kcontext c) as acc
      (if kind = .mmv then s.me.v.toList else []))

def execKmma (t : TReg) (a b : Reg) (c : BitVec 2) (as acc : Bool) (s : State) : Out :=
  .next (s.matrix (.kmma t a b c as acc) .mma t a b c as acc)
def execKmmas (t : TReg) (a b : Reg) (c : BitVec 2) (as acc : Bool) (s : State) : Out :=
  .next (s.matrix (.kmmas t a b c as acc) .mmas t a b c as acc)

/-- KMMV (R249): v0 to v31 are captured; an uncorrectable one makes the request fail (R251). -/
def execKmmv (t : TReg) (b : Reg) (c : BitVec 2) (as acc : Bool) (s : State) : Out :=
  .next (s.matrix (.kmmv t b c as acc) .mmv t 0 b c as acc)

/-! ## The tile instructions (R198, R251) -/

/-- KZERO. -/
def execKzero (t : TReg) (s : State) : Out :=
  .next (s.kiln (.kzero t) t (fun _ => true) (fun _ => none)
    (fun s => s.request .zero t 0 0 0 0 0 false false []))

/-- The check of KLDA, KSTA and KCVT: row i at BASE + i × RP.
DESIGN CHOICE (log 39): R250 lists TP beside RP for ALIGN, and R243 says that these instructions ignore TP; TP is not checked. -/
def State.rowsFault (s : State) (e o : Word) (align len : Nat) : Option (Nat × Word) :=
  s.descFault (clampOf s.cur) e o align true false (31 * descRp o + len)

/-- KLDA. -/
def execKlda (t : TReg) (a : Reg) (acc : Bool) (s : State) : Out :=
  .next (s.kiln (.klda t a acc) t (fun _ => true) (fun s => s.rowsFault (s.me.getX a) (s.me.getX (a + 1)) 128 128)
    (fun s => s.request .lda t (s.me.getX a) (s.me.getX (a + 1)) 0 0 0 false acc []))

/-- KSTA. -/
def execKsta (t : TReg) (a : Reg) (s : State) : Out :=
  .next (s.kiln (.ksta t a) t (fun _ => true) (fun s => s.rowsFault (s.me.getX a) (s.me.getX (a + 1)) 128 128)
    (fun s => s.request .sta t (s.me.getX a) (s.me.getX (a + 1)) 0 0 0 false false []))

/-- FA of KCVT; none when it is reserved or ce8. -/
def cvtFormat (w : Word) : Option KFormat :=
  match kformatOf (getField w 0 3) with
  | some .ce8 => none
  | f => f

/-- Bytes of a row of KCVT. -/
def cvtRow (f : KFormat) : Nat := 32 * tyBits (kTy f) / 8

/-- KCVT. -/
def execKcvt (t : TReg) (a : Reg) (c : BitVec 2) (s : State) : Out :=
  .next (s.kiln (.kcvt t a c) t (fun s => (cvtFormat (s.kcontext c)).isSome)
    (fun s => s.rowsFault (s.me.getX a) (s.me.getX (a + 1)) 16 (((cvtFormat (s.kcontext c)).map cvtRow).getD 0))
    (fun s => s.request .cvt t (s.me.getX a) (s.me.getX (a + 1)) 0 0 (s.kcontext c) false false []))

/-- Requests of a slot that have not retired, those of its CPYK commands included. -/
def Core.kilnOf (c : Core) (slot : Nat) : List KReq :=
  (c.kTimed.toList ++ c.kUntimed.toList ++ c.kRun).filter (fun r => r.slot == slot)

/-- KSYNC (R198): the next instruction waits. -/
def execKsync (s : State) : Out :=
  .next (gate .ksync s (fun s => s.advance.upd (fun p => { p with barrier := some .ksync })))

/-! ## Operand reads (R243 to R247) -/

/-- Bytes read at a pool port, and an uncorrectable one among them in descriptor form (R246, R251). -/
structure KBytes where
  bytes : List Byte
  bad : Option Word
  deriving DecidableEq, Repr

def State.kread (s : State) (clamp k o n : Nat) : KBytes :=
  let a := poolAddr (16 * clamp + k) o
  ⟨s.homeBytes a n,
    if s.badAt a n then ((List.range n).find? (fun i => s.badAt (a + i) 1)).map (fun i => BitVec.ofNat 64 (k * 2 ^ 20 + o + i)) else none⟩

/-- The first of two uncorrectable bytes. -/
def orBad (a b : Option Word) : Option Word :=
  match a with
  | some x => some x
  | none => b

/-- Logical order of the chunks of row r: chunk q lies at (q + c × r) mod n (R243). -/
def unrotate (c r n : Nat) (bs : List Byte) : List Byte :=
  (List.range n).flatMap (fun q => (bs.drop (16 * ((q + c * r) % n))).take 16)

/-- Tokens of a ce8 block under table 0, or raw exponents (R212): exponents, none where one is out of range, and the bit after
the last; no end when a token is 1111. -/
def ce8Tokens (bit : Nat → Bool) (b : Int) (raw : Bool) : Nat → Nat → List (Option Nat) × Option Nat
  | 0, pos => ([], some pos)
  | n + 1, pos =>
    let v (i : Nat) : Int := if bit (pos + i) then 1 else 0
    let go (e : Int) (len : Nat) : List (Option Nat) × Option Nat :=
      let (r, p) := ce8Tokens bit b raw n (pos + len)
      ((if 0 ≤ e ∧ e ≤ 15 then some e.toNat else none) :: r, p)
    if raw then go (v 0 + 2 * v 1 + 4 * v 2 + 8 * v 3) 4
    else if !bit pos then go b 1
    else if !bit (pos + 1) then go (if bit (pos + 2) then b - 1 else b + 1) 3
    else if !bit (pos + 2) then go (if bit (pos + 3) then b - (2 + v 4) else b + (2 + v 4)) 5
    else if !bit (pos + 3) then go (v 4 + 2 * v 5 + 4 * v 6 + 8 * v 7) 8
    else ([none], none)

/-- A ce8 block: its 32 e4m3 elements, its length, its scale byte, and whether it is in error (R211 to R213). -/
structure Ce8 where
  codes : List Nat
  len : Nat
  scale : Nat
  err : Bool
  deriving DecidableEq, Repr

def ce8Block (bs : List Byte) : Ce8 :=
  let at_ (i : Nat) : Nat := ((bs[i]?).getD 0).toNat
  let h := at_ 0
  let sel := fld h 4 2
  let badHeader := decide (fld h 6 2 ≠ 0) || sel == 1 || sel == 2
  let (es, stop) := if badHeader then ([none], none) else
    ce8Tokens (fun p => bitOf (at_ (17 + p / 8)) (p % 8)) (fld h 0 4 : Nat) (sel == 3) 32 0
  let t := match stop with
    | some p => (p + 7) / 8
    | none => 32
  let err := badHeader || stop.isNone || es.any (·.isNone)
  let code (k : Nat) : Nat :=
    let nib := fld (at_ (1 + k / 2)) (4 * (k % 2)) 4
    if err then 0x7F else nib / 8 * 128 + ((es[k]?).getD none).getD 0 * 8 + nib % 8
  ⟨(List.range 32).map code, 18 + t, at_ (17 + t), err⟩

/-- Eight blocks back to back (R214). -/
def ce8Row : Nat → List Byte → List Ce8
  | 0, _ => []
  | n + 1, bs => let b := ce8Block bs; b :: ce8Row n (bs.drop b.len)

def ce8Used (bs : List Byte) : Nat := ((ce8Row 8 bs).map (·.len)).foldl (· + ·) 0

/-- The scale bytes of a row (R247). -/
def State.readScales (s : State) (clamp : Nat) (base shift : Word) (f : KFormat) (sparse : Bool) (off : Nat) : Nat → KBytes
  | 0 => ⟨[], none⟩
  | g + 1 =>
    let r := s.readScales clamp base shift f sparse off g
    let b := s.kread clamp (getField base 20 4) (scaleAddr base shift f sparse off g) 1
    ⟨r.bytes ++ b.bytes, orBad r.bad b.bad⟩

/-- A ce8 row from an offset: at most 400 bytes, cut at the end of the scratchpad. -/
def State.readCe8 (s : State) (clamp k start : Nat) : KRow × Option Word :=
  let scr := s.scratch (16 * clamp + k)
  let bs := s.homeBytes (poolAddr (16 * clamp + k) start) (min 400 (scr - start))
  let used := ce8Used bs
  (⟨bs.take used, [], [], decide (bs.length < used)⟩, (s.kread clamp k start (min used bs.length)).bad)

/-- Row r of an operand (R243 to R245). -/
def State.readRow (s : State) (clamp : Nat) (q : KReq) (isA : Bool) (f : KFormat) (r : Nat) : KRow × Option Word :=
  let e := if isA then q.ea else q.eb
  let o := if isA then q.oa else q.ob
  let sparse := isA && q.kind == .mmas
  let k := descCore e
  let reg := isA && q.kind == .mmv
  let off := if reg then 256 * r else rowOff o r
  let sc := if q.scaled ∧ f ≠ .ce8 then
      s.readScales clamp (q.ksc.getD (if isA then 0 else 2) 0) (q.ksc.getD (if isA then 1 else 3) 0) f sparse off (kGroups f)
    else ⟨[], none⟩
  if reg then (⟨(List.range 4).flatMap (fun j => bytesOfNat 64 (q.v.getD (4 * r + j) 0).toNat), [], sc.bytes, false⟩, sc.bad)
  else if f = .ce8 then
    if isA then s.readCe8 clamp k (descBase e + off)
    else
      let d := s.kread clamp k (descBase e + 4 * r) 4
      let (row, bad) := s.readCe8 clamp k (descBase e + leNat d.bytes)
      (row, orBad d.bad bad)
  else
    let n := if sparse then 8 else 16
    let d := s.kread clamp k (descBase e + off) (16 * n)
    let m := if sparse then s.kread clamp k (descBase e + off + 128) (metaBytes f) else ⟨[], none⟩
    (⟨unrotate (descRot o) r n d.bytes, m.bytes, sc.bytes, false⟩, orBad d.bad (orBad m.bad sc.bad))

/-- Rows 0 to n − 1. -/
def State.readRows (s : State) (clamp : Nat) (q : KReq) (isA : Bool) (f : KFormat) (n : Nat) : List KRow × Option Word :=
  let rs := (List.range n).map (s.readRow clamp q isA f)
  (rs.map (·.1), rs.foldl (fun b r => orBad b r.2) none)

/-- What a grant reads (R246). -/
def State.grantRead (s : State) (clamp : Nat) (q : KReq) : KReq :=
  match q.kind with
  | .mma | .mmas | .mmv =>
    match kformats q.fmt with
    | none => q
    | some (fa, fb) =>
      let (a, x) := s.readRows clamp q true fa (if q.kind = .mmv then 8 else 32)
      let (b, y) := s.readRows clamp q false fb 32
      { q with a := a, b := b, bad := orBad q.bad (orBad x y) }
  | .lda =>
    let rs := (List.range 32).map (fun i => s.kread clamp (descCore q.ea) (descBase q.ea + i * descRp q.oa) 128)
    { q with a := rs.map (fun r => ⟨r.bytes, [], [], false⟩), bad := rs.foldl (fun b r => orBad b r.bad) none }
  | .zero | .sta | .cvt => q

/-! ## Grants (R239) -/

/-- A strict KMMAS needs two grants. -/
def KReq.needs (q : KReq) : Nat := if q.kind = .mmas ∧ bitW q.fmt 6 then 2 else 1

/-- The position's request after a grant that ends at a cycle: it stays for its second grant, or the position frees. -/
def Core.granted (c : Core) (q : KReq) (ends : Nat) : Core :=
  let q := { q with grants := q.grants + 1, ends := ends }
  if q.grants < q.needs then c.place q
  else if q.timed then { c with kTimed := none, kRun := c.kRun ++ [q] }
  else { c with kUntimed := none, kRun := c.kRun ++ [q] }

/-- The request the next grant of a core serves: the timed position first. -/
def Core.pendingKiln (c : Core) : Option KReq :=
  match c.kTimed with
  | some q => some q
  | none => c.kUntimed

/-- The core the next grant of a clamp serves: round-robin from the core after the one granted last. -/
def State.nextGrant (s : State) (clamp : Nat) : Option (Nat × KReq) :=
  ((List.range 16).map (fun d => 16 * clamp + ((s.clamp clamp).lastCore + 1 + d) % 16)).findSome? (fun core =>
    (s.core core).pendingKiln.map (fun q => (core, q)))

/-- KILN_GRANT (R239): one core at a time, for 16 cycles. -/
def execKilnGrant (clamp : Nat) (s : State) : Out :=
  .next (let now := s.cycleOf (16 * clamp)
    if now < (s.clamp clamp).kBusy then s
    else match s.nextGrant clamp with
      | none => s
      | some (core, q) =>
        let q := if q.grants = 0 then s.grantRead clamp q else q
        (s.updCore core (fun c => c.granted q (now + 16))).updClamp clamp (fun c => { c with lastCore := core % 16, kBusy := now + 16 }))

/-! ## Sums (R206, R215 to R217) -/

/-- A scale. -/
inductive KScale where
  | val (m : Nat) (e : Int)
  | nan
  | bad
  deriving DecidableEq, Repr

/-- sc8 (R206). -/
def sc8 (b : Nat) : KScale :=
  if 128 ≤ b then .bad
  else if b = 127 then .nan
  else if b < 8 then .val b (-9)
  else .val (8 + b % 8) ((b / 8 : Nat) - 10)

/-- A row as the sums use it: groups of elements (none where pruned), groups that are NaN, scales, and the sticky bits it sets. -/
structure KOperand where
  groups : List (List (Option Num))
  nan : List Bool
  scales : List KScale
  flags : Sticky
  deriving DecidableEq, Repr

/-- Cuts a list into n lists of k. -/
def chunks {α : Type} (k : Nat) : Nat → List α → List (List α)
  | 0, _ => []
  | n + 1, l => l.take k :: chunks k n (l.drop k)

/-- Elements of a row's value bytes (R204). -/
def rowElements (f : KFormat) (bs : List Byte) : List Num :=
  let ty := kTy f
  match f with
  | .bf16 | .f16 => (chunks 2 (bs.length / 2) bs).map (fun b => (tyFmt ty).read (leNat b))
  | .e2m1 => bs.flatMap (fun b => [(tyFmt ty).read (b.toNat % 16), (tyFmt ty).read (b.toNat / 16)])
  | _ => bs.map (fun b => (tyFmt ty).read b.toNat)

/-- Positions of run q of a sparse row: none when the first is not below the second (R245). -/
def runPositions (m : List Byte) (q : Nat) : Option (Nat × Nat) :=
  let nib := fld ((m[q / 2]?).getD 0).toNat (4 * (q % 2)) 4
  if nib % 4 < nib / 4 then some (nib % 4, nib / 4) else none

/-- The four K positions of a run with its two values. -/
def runElements (pos : Option (Nat × Nat)) (vs : List Num) : List (Option Num) :=
  (List.range 4).map (fun k => match pos with
    | some (p, q) => if k = p then vs[0]? else if k = q then vs[1]? else none
    | none => none)

/-- The factor 1. -/
def unitScales (f : KFormat) : List KScale := List.replicate (kGroups f) (.val 1 0)

/-- SCALEBAD of a row's scales (R206). -/
def scaleFlags (l : List KScale) : Sticky := Sticky.when (l.contains .bad) .scalebad

/-- A row decoded. -/
def KRow.operand (r : KRow) (f : KFormat) (sparse scaled : Bool) : KOperand :=
  if f = .ce8 then
    let bs := ce8Row 8 r.data
    if r.short then ⟨List.replicate 8 (List.replicate 32 none), List.replicate 8 true, unitScales f, .kilnfmt⟩
    else
      let sc := bs.map (fun b => sc8 b.scale)
      ⟨bs.map (fun b => b.codes.map (fun c => some (fmtE4m3.read c))), bs.map (fun _ => false), sc,
        (scaleFlags sc).or (Sticky.when (bs.any (·.err)) .kilnfmt)⟩
  else
    let sc := if scaled then r.scales.map (fun b => sc8 b.toNat) else unitScales f
    let vs := rowElements f r.data
    if sparse then
      let runs := (List.range (kLen f / 4)).map (runPositions r.meta_)
      let es := (runs.zip (chunks 2 (kLen f / 4) vs)).flatMap (fun e => runElements e.1 e.2)
      let nan := (chunks (kGroup f / 4) (kGroups f) runs).map (fun g => g.any (·.isNone))
      ⟨chunks (kGroup f) (kGroups f) es, nan, sc, (scaleFlags sc).or (Sticky.when (nan.any id) .kilnfmt)⟩
    else ⟨chunks (kGroup f) (kGroups f) (vs.map some), List.replicate (kGroups f) false, sc, scaleFlags sc⟩

/-- The sum of a group: pruned positions form no product, or +0 × B under the strict bit (R217). -/
def groupProducts (strict : Bool) (a b : List (Option Num)) : GroupSum :=
  groupSum ((a.zip b).filterMap (fun e =>
    let y := e.2.getD (.fin false 0 0)
    match e.1 with
    | some x => some (mulNum x y)
    | none => if strict then some (mulNum (.fin false 0 0) y) else none))

/-- The contribution of a group (R215, R216). -/
def contribution (strict nan : Bool) (a b : List (Option Num)) (sa sb : KScale) : Nat :=
  if nan then fmtF32.nanBits
  else match sa, sb with
    | .val m e, .val n g =>
      match groupProducts strict a b with
      | .nan => fmtF32.nanBits
      | .inf neg => if m = 0 ∨ n = 0 then fmtF32.nanBits else fmtF32.inf neg
      | .sum d => (fmtF32.round .rne (d.mul ⟨(m * n : Nat), e + g⟩) false).bits
    | _, _ => fmtF32.nanBits

/-- The contributions of one element, group by group. -/
def contributions (strict : Bool) : List (List (Option Num)) → List (List (Option Num)) → List Bool → List Bool →
    List KScale → List KScale → List Nat
  | a :: as, b :: bs, x :: xs, y :: ys, p :: ps, q :: qs =>
    contribution strict (x || y) a b p q :: contributions strict as bs xs ys ps qs
  | _, _, _, _, _, _ => []

/-- One accumulator element (R215). -/
def element (strict : Bool) (a b : KOperand) (start : Nat) : Nat :=
  (contributions strict a.groups b.groups a.nan b.nan a.scales b.scales).foldl (fun acc c => (fmtF32.add acc c).1) start

/-! ## Retirement (R240, R251) -/

/-- A tile: 1,024 binary32 values. -/
def emptyTile : List (BitVec 32) := List.replicate 1024 0
def Core.tile (c : Core) (t : Nat) : List (BitVec 32) := (Table.find c.tiles t).getD emptyTile
def Core.setTile (c : Core) (t : Nat) (w : List (BitVec 32)) : Core := { c with tiles := Table.set emptyTile c.tiles t w }

/-- The tile after a matrix request, with the sticky bits. -/
def KReq.product (q : KReq) (old : List (BitVec 32)) : List (BitVec 32) × Sticky :=
  match kformats q.fmt with
  | none => (old, .clear)
  | some (fa, fb) =>
    let as := q.a.map (fun r => r.operand fa (q.kind == .mmas) q.scaled)
    let bs := q.b.map (fun r => r.operand fb false q.scaled)
    let strict := q.kind == .mmas && bitW q.fmt 6
    let rows := (as.zip (chunks 32 as.length old)).flatMap (fun e =>
      (bs.zip e.2).map (fun f => BitVec.ofNat 32 (element strict e.1 f.1 (if q.acc then f.2.toNat else 0))))
    (rows ++ old.drop rows.length, (as ++ bs).foldl (fun f o => f.or o.flags) .clear)

/-- The tile after KLDA. -/
def KReq.loaded (q : KReq) (old : List (BitVec 32)) : List (BitVec 32) :=
  let new := q.a.flatMap (fun r => (chunks 4 32 r.data).map leNat)
  (new.zip old).map (fun e => BitVec.ofNat 32 (if q.acc then (fmtF32.add e.2.toNat e.1).1 else e.1))

/-- Bytes of a row of KCVT (R251). -/
def cvtBytes (f : KFormat) (nan : Bool) (row : List (BitVec 32)) : List Byte :=
  let w := tyBits (kTy f)
  let codes := row.map (fun x => (convert .f32 (kTy f) .rne nan 0 x.toNat).1)
  bytesOfNat (32 * w / 8) (joinLanes w codes)

/-- The rows a request writes to the scratchpad. -/
def KReq.stored (q : KReq) (tile : List (BitVec 32)) : List (List Byte) :=
  match q.kind with
  | .sta => (chunks 32 32 tile).map (fun r => bytesOfNat 128 (joinLanes 32 (r.map (·.toNat))))
  | .cvt =>
    match cvtFormat q.fmt with
    | some f => (chunks 32 32 tile).map (cvtBytes f (bitW q.fmt 7))
    | none => []
  | _ => []

/-- Writes rows at BASE + i × RP; tags are unchanged (R36). -/
def State.storeRows (s : State) (core : Nat) (base pitch : Nat) : List (List Byte) → State
  | [] => s
  | r :: rs => (s.writeHome (poolAddr core base) r).storeRows core (base + pitch) pitch rs

/-- The effect of a request on its tile and on the scratchpads, with its sticky bits. -/
def State.kilnEffect (s : State) (core : Nat) (q : KReq) : State × Sticky :=
  let tile := (s.core core).tile q.t.toNat
  match q.kind with
  | .mma | .mmas | .mmv =>
    let (w, f) := q.product tile
    (s.updCore core (fun c => c.setTile q.t.toNat w), f)
  | .zero => (s.updCore core (fun c => c.setTile q.t.toNat emptyTile), .clear)
  | .lda => (s.updCore core (fun c => c.setTile q.t.toNat (q.loaded tile)), .clear)
  | .sta | .cvt => (s.storeRows (core / 16 * 16 + descCore q.ea) (descBase q.ea) (descRp q.oa) (q.stored tile), .clear)

/-- The command a request belongs to completes with it (R301, R303). -/
def Core.finishKiln (c : Core) (q : KReq) (status : Nat) : Core :=
  match q.cmd with
  | none => c
  | some n => { c with commands := c.commands.map (fun (k : Command) =>
      if 16 * (q.slot / 16) + k.slot = q.slot ∧ k.sub.seq = n ∧ k.kilnIssued = true then { k with status := some status } else k) }

/-- The owner of a request still holds the thread that made it: always, but for a command of a thread that has ended. -/
def State.ownsKiln (s : State) (core : Nat) (q : KReq) : Bool :=
  match q.cmd with
  | none => true
  | some n => (s.core core).commands.any (fun k => 16 * core + k.slot == q.slot && k.sub.seq == n &&
      k.kilnIssued && !k.orphan && (s.slot q.slot).mode != .free)

/-- First pool byte of a tile in its core (R33). -/
def State.tileByte (s : State) (core t : Nat) : Nat := 16384 * s.nsg core + 4096 * t

/-- The request reads its tile: sums onto it, stores it or converts it. -/
def KReq.readsTile (q : KReq) : Bool :=
  match q.kind with
  | .mma | .mmas | .mmv | .lda => q.acc
  | .sta | .cvt => true
  | .zero => false

/-- Bytes of the tile that the request reads or writes. -/
def KReq.tileBytes (q : KReq) : Nat := if q.kind = .mmv then 1024 else 4096

/-- An uncorrectable byte of the tile that the request reads, in descriptor form (R251, R355). -/
def State.tileBad (s : State) (core : Nat) (q : KReq) : Option Word :=
  if q.readsTile then (s.kread (core / 16) (core % 16) (s.tileByte core q.t.toNat) q.tileBytes).bad else none

/-- What a request writes to its tile covers the errors there (R355). -/
def State.tileWritten (s : State) (core : Nat) (q : KReq) : State :=
  match q.kind with
  | .sta | .cvt => s
  | _ => { s with bad := clearBad s.bad (poolAddr core (s.tileByte core q.t.toNat)) q.tileBytes }

/-- The rows of KSTA and KCVT are hashed in the place of their instruction (R357). -/
def State.hashRows (s : State) (core : Nat) (q : KReq) (rows : List (List Byte)) : State :=
  match q.kind with
  | .sta | .cvt =>
    let at_ (i : Nat) : Word := s.global (poolAddr (core / 16 * 16 + descCore q.ea) (descBase q.ea + i * descRp q.oa))
    s.hash q.slot (fun p => p.hashKnown ((List.range rows.length).flatMap (fun i => writeBytes (at_ i) (rows.getD i []))))
  | _ => s

/-- KILN_RETIRE (R240, R251): the oldest granted request of the core, once its last grant has ended. -/
def execKilnRetire (core : Nat) (s : State) : Out :=
  .next (match (s.core core).kRun with
    | [] => s
    | q :: rest =>
      if s.cycleOf core < q.ends then s
      else
        let mine := s.ownsKiln core q
        let bad := orBad q.bad (s.tileBad core q)
        let s := (s.updCore core (fun c => { c with kRun := rest })).updSlot q.slot (fun p => { p with kDone := s.cycle + 1 })
        match bad with
        | some a =>
          let s := (s.updCore core (fun c => c.finishKiln q 5)).hashRows core q []
          if mine then s.updSlot q.slot (fun p => { p with deferred := p.deferred ++ [⟨Cause.eccunc, a, deferInfo q.pc kilnInfo⟩] }) else s
        | none =>
          let rows := q.stored ((s.core core).tile q.t.toNat)
          let (s, f) := ((s.tileWritten core q).hashRows core q rows).kilnEffect core q
          let s := s.updCore core (fun c => c.finishKiln q 0)
          if mine then s.updSlot q.slot (fun p => p.stick f (s.cycleOf core)) else s)

end Sys2Proof.Machine
end

