-- ==== Sys2Proof/Machine/Drain.lean ====
section
/-! DEFINITION. The store buffer drains (09_memory R133, 10_ordering R158 to R161, 18_translation R292), and dirty bytes leave an L2
(10_ordering R161). -/
namespace Sys2Proof.Machine

/-- A place whose translation was shot down is translated again; none when that fails (R292). -/
def State.relocate (s : State) (slot kind : Nat) (l : Loc) (va : Option Nat) (tagged : Bool) : State × Option Loc :=
  match va with
  | none => (s, some l)
  | some a =>
    if (s.clamp (clampOf slot)).out then (s, none)
    else match s.translate (clampOf slot) (s.core (coreOf slot)).ptroot a (!(s.slot slot).priv) kind tagged with
    | (s, .ok pa _) => if isPool pa && !s.poolOk pa then (s, none) else (s, some (.here pa))
    | (s, _) => (s, none)

/-- Translates every part again; parts that fail are dropped and counted. -/
def State.relocateParts (s : State) (slot : Nat) : List WritePart → State × List WritePart
  | [] => (s, [])
  | w :: ws =>
    let (s, l) := s.relocate slot 1 w.loc w.va w.tag.isSome
    let (s, rest) := s.relocateParts slot ws
    match l with
    | some l => (s, { w with loc := l } :: rest)
    | none => (s.updSlot slot (fun p => p.failWrites 1 Fence.refused), rest)

/-- The leaf of a tile region through which a slot reaches a segment address (R283). -/
def State.tileLeaf (s : State) (slot v : Nat) : Option TlbEntry :=
  (s.clamp (clampOf slot)).tlb.find? (fun e => e.root == (s.core (coreOf slot)).ptroot && decide (e.va ≤ v) && decide (v < e.va + e.span) &&
    decide (fld e.w0 1 2 = 2))

/-- The tile of a byte of a tile-region leaf (R283, R286). -/
def TlbEntry.tileAt (e : TlbEntry) (v : Nat) : TileLine :=
  let pitch := 128 * fld e.w1 20 12
  ⟨fld e.w1 0 16, (v - e.va) / pitch / (32 / 2 ^ fld e.w1 18 2), (v - e.va) % pitch / (128 * 2 ^ fld e.w1 18 2)⟩

/-- The L2 holds a dirty byte or tag of a 4 KiB page. -/
def Hearth.dirtyPage (h : Hearth) (page : Nat) : Bool :=
  h.dirty.any (fun e => e.1 / 4096 == page) || h.dtags.any (fun e => 8 * e.1 / 4096 == page)

/-- A write through a tile-region leaf makes its tile a line of the L2; one that is there already keeps its TID and its place, and the
bytes of shorter lines join it (R286). -/
def State.noteTile (s : State) (slot : Nat) (va : Option Nat) (a : Nat) : State :=
  match va.bind (fun v => (s.tileLeaf slot v).map (fun e => e.tileAt v)) with
  | none => s
  | some t =>
    let h := s.hearth (hearthOf slot)
    if isPool a || ((Table.find h.tiles (a / 4096)).isSome && h.dirtyPage (a / 4096)) then s
    else s.updHearth (hearthOf slot) (fun h => { h with tiles := Table.put h.tiles (a / 4096) t })

/-- Writes of this package leave the store buffer: bytes first, the tag with them in one change (R124, R159). A pool block, or a word
of the L2, that has an uncorrectable error refuses them (R128). -/
def State.performParts (s : State) (slot : Nat) : List WritePart → State
  | [] => s
  | w :: ws =>
    match w.loc with
    | .there _ _ => s.performParts slot ws
    | .here a =>
      if decide (w.bytes ≠ []) && (if isPool a then s.writeRefused a w.bytes.length else (s.hearth (hearthOf slot)).refuses a w.bytes.length) then
        (s.updSlot slot (fun p => p.failWrites 1 Fence.eccloss)).performParts slot ws
      else
        let s := (s.noteTile slot w.va a).performWrite slot a w.bytes
        let s := match w.tag with
          | some t => s.performTag slot a t
          | none => s
        s.performParts slot ws

/-- Places an entry writes, with their sizes. -/
def SbEntry.places (e : SbEntry) : List (Loc × Nat) :=
  match e.kind with
  | .write ws => ws.map (fun w => (w.loc, max w.bytes.length 1))
  | .atomic r => [(r.loc, r.size)]
  | .reduce r => [(r.loc, r.size)]
  | .send _ _ _ _ | .mack _ => []

/-- What an outstanding release of the slot does overlaps what the entry writes: the entry waits (R158). -/
def SbEntry.behindRelease (e : SbEntry) (s : State) (slot : Nat) : Bool :=
  (s.flue.releases.filter (fun r => r.slot == slot)).any (fun r => (bodyAt r.dst r.flit.body).any (fun b =>
    e.places.any (fun w => overlaps w.1 w.2 b.1 b.2)))

/-- Writes of the slot in another of its streams that the entry overlaps and that are not acknowledged: streams apply apart, and the entry
waits for them (R158, R168). -/
def SbEntry.elsewhere (e : SbEntry) (s : State) (slot : Nat) : List SendEntry :=
  s.flue.store.filter (fun x => decide (x.slot = slot) && x.flit.sid % 4 != e.seg % 4 &&
    e.places.any (fun w => (List.range 64).any (fun i => bitOf x.flit.mask i && overlaps w.1 w.2 (.there x.flit.dst (x.flit.block + i)) 1)))

/-- Package of the first part that lies in another. -/
def remotePart : List WritePart → Option (Nat × Nat)
  | [] => none
  | w :: ws =>
    match w.loc with
    | .there d a => some (d, a)
    | .here _ => remotePart ws

/-- An entry bound for another package is a release: by itself, or because a fence makes it one and earlier writes to the package
are not acknowledged or are lost (R160, R168). -/
def State.releasesTo (s : State) (slot d : Nat) (e : SbEntry) : Bool :=
  e.own || (e.rel.isSome && (s.outstandingTo slot d || (s.slot slot).lost.contains d))

/-- Parts of which no later part writes the first byte: in STVS a later lane wins a shared word (R134). -/
def lastParts : List WritePart → List WritePart
  | [] => []
  | w :: ws => if ws.any (fun x => x.loc == w.loc) then lastParts ws else w :: lastParts ws

/-- Blocks and masks of the parts of a write. -/
def partMasks (ws : List WritePart) : List (Nat × Nat) := ws.flatMap (fun w => match w.loc with
  | .there _ a => blockMasks a w.bytes
  | .here _ => [])

/-- A write entry bound for package `d` (R326, R329): a RELEASE when the instruction is a release, or when a fence makes it one and
earlier writes toward `d` are not acknowledged; else WRITE flits. None while it must wait. -/
def State.drainAway (s : State) (slot d a : Nat) (e : SbEntry) (ws : List WritePart) : Option State :=
  let tag := (ws.head?.map (·.tag)).getD none
  let ws := lastParts ws
  if s.releasesTo slot d e then
    if (s.slot slot).lost.contains d then some (s.uncovered slot (.there d a) e.pc)
    else if s.releaseReady slot d && decide (s.storeUsed slot < sendStoreSize) then
      some ((s.releaseHome slot).sendRelease slot e.seg d (.write a (ws.flatMap (·.bytes)) tag) false (s.globalOf (.there d a)) e.pc)
    else none
  else if s.canSend slot e.seg d (partMasks ws) then
    some (ws.foldl (fun s w => match w.loc with
      | .there d a => s.sendWrite slot e.seg d a w.bytes
      | .here _ => s) s)
  else none

/-- A write entry. -/
def State.drainWrite (s : State) (slot : Nat) (e : SbEntry) (ws : List WritePart) : Option State :=
  match remotePart ws with
  | some (d, a) => s.drainAway slot d a e ws
  | none =>
    let (s, ws) := if e.stale then s.relocateParts slot ws else (s, ws)
    some (((s.releaseAt slot e.rel).performParts slot ws).releaseAt slot e.rel)

/-- An atomic leaves for its word's home (R139). One whose translation is gone counts as refused, and its answer fails (R292). -/
def State.drainAtomic (s : State) (slot : Nat) (e : SbEntry) (r : AtomicReq) : Option State :=
  match r.loc with
  | .there d a =>
    if s.releasesTo slot d e && (s.slot slot).lost.contains d then
      match r.ret with
      | some id => some (s.refuse slot id Cause.remote (s.globalOf r.loc) 0)
      | none => some (s.uncovered slot r.loc e.pc)
    else s.sendRequest slot e.seg d a (s.releasesTo slot d e) r
  | .here _ =>
    let (s, l) := if e.stale then s.relocate slot 3 r.loc r.va false else (s, some r.loc)
    let s := s.releaseAt slot e.rel
    match l with
    | some l => some { s with atomics := s.atomics ++ [{ r with loc := l }] }
    | none =>
      let s := s.updSlot slot (fun p => p.failWrites 1 Fence.refused)
      match r.ret with
      | some id => some (s.refuse slot id Cause.pagefail r.ea (atomicInfo r))
      | none => some s

/-- A contribution or a DCLOSE leaves for its grate (R144). -/
def State.drainReduction (s : State) (slot : Nat) (e : SbEntry) (r : RedReq) : Option State :=
  match r.loc with
  | .there d a =>
    if s.releasesTo slot d e then
      if (s.slot slot).lost.contains d then some (s.uncovered slot r.loc e.pc)
      else if s.releaseReady slot d && decide (s.storeUsed slot < sendStoreSize) then
        some ((s.releaseHome slot).sendRelease slot e.seg d (if r.value.isSome then .contribute r else .close r) false
          (s.globalOf (.there d a)) e.pc)
      else none
    else if s.canSend slot e.seg d [wordMask a r.size] then some (s.sendContribution slot e.seg d a r) else none
  | .here _ =>
    let (s, l) := if e.stale then s.relocate slot 1 r.loc r.va false else (s, some r.loc)
    let s := s.releaseAt slot e.rel
    match l with
    | some l => some { s with reductions := s.reductions ++ [{ r with loc := l }] }
    | none => some (s.updSlot slot (fun p => p.failWrites 1 Fence.refused))

/-- Package of a message bound for another. -/
def SbEntry.sendTo (e : SbEntry) (s : State) (slot : Nat) : Option Nat :=
  match e.kind with
  | .send phys spark dest m =>
    match s.destination slot phys spark dest (isWake phys spark m) with
    | .away d _ => some d
    | _ => none
  | _ => none

/-- A message to another package leaves after the slot's writes there have been applied: RECV synchronises with it (R163). -/
def SbEntry.sendsAfter (e : SbEntry) (s : State) (slot : Nat) : Bool :=
  match e.sendTo s slot with
  | some d => s.outstandingTo slot d
  | none => false

/-- An AFADD.rel.sys of a deterministic region: it comes after what a FENCE.rel.sys would wait for (R142, R147). -/
def SbEntry.fencing (e : SbEntry) : Bool :=
  e.own && e.rel == some .sys && (match e.kind with
    | .reduce r => r.value.isSome
    | _ => false)

/-- The entry waits for writes of its slot to other packages to be acknowledged. -/
def SbEntry.waits (e : SbEntry) (s : State) (slot : Nat) : Bool :=
  e.sendsAfter s slot || (e.fencing && s.outstanding slot) || !(e.elsewhere s slot).isEmpty

/-- The windows of those writes are closed, so that they will be acknowledged. -/
def SbEntry.closing (e : SbEntry) (s : State) (slot : Nat) : State :=
  let s := (e.elsewhere s slot).foldl (fun s x => s.countrel x.flit.sid x.flit.dst) s
  let s := if e.fencing then s.closeAll slot else s
  match e.sendTo s slot with
  | some d => s.closeToward slot d
  | none => s

/-- A message leaves (R152): a ninth in flight waits. One that would cover a write lost or refused in its package never leaves, and its
slot takes REMOTE with the package's first address (R168; log 68). -/
def State.drainSend (s : State) (slot : Nat) (e : SbEntry) (phys spark : Bool) (dest : Word) (m : Message) : Option State :=
  if (e.sendTo s slot).any (fun d => (s.slot slot).lost.contains d) then
    some (s.uncovered slot (.there ((e.sendTo s slot).getD 0) 0) e.pc)
  else if 8 ≤ s.inFlight slot then none
  else
    let d := s.destination slot phys spark dest (isWake phys spark m)
    some ((s.releaseAt slot (widerScope e.rel (some (d.scope slot)))).postMessage slot d phys spark m)

/-- The entry's effect; none while it must wait. -/
def State.drainEntry (s : State) (slot : Nat) (e : SbEntry) : Option State :=
  match e.kind with
  | .write ws => s.drainWrite slot e ws
  | .atomic r => s.drainAtomic slot e r
  | .reduce r => s.drainReduction slot e r
  | .send phys spark dest m => s.drainSend slot e phys spark dest m
  | .mack k => some (s.retireWindow slot k)

/-- The entry is performed in this package: it takes its place in the order of its hearth (R159). -/
def SbKind.isHere : SbKind → Bool
  | .write ws => (remotePart ws).isNone
  | .atomic r => !locRemote r.loc
  | .reduce r => !locRemote r.loc
  | .send _ _ _ _ => true
  | .mack _ => false

/-- The entry is a release, so that the slot's earlier loads and atomics come first (R160). -/
def SbEntry.isRelease (e : SbEntry) : Bool := e.rel.isSome || e.kind.isSend

/-- What an entry's writes add to the digest of a checked thread (R357): an atomic or a contribution counts with its operand. -/
def State.digestOf (s : State) (k : SbKind) : List Byte :=
  match k with
  | .write ws => ws.flatMap (fun w => writeBytes (s.globalOf w.loc) w.bytes)
  | .atomic r => writeBytes (s.globalOf r.loc) (bytesOfNat r.size r.b.toNat)
  | .reduce r => writeBytes (s.globalOf r.loc) (bytesOfNat r.size (r.value.getD 0).toNat)
  | _ => []

/-- The oldest entry of a checked thread is hashed. -/
def State.hashEntry (s : State) (slot : Nat) (k : SbKind) : State := s.hash slot (fun p => p.hashOldest (s.digestOf k))

/-- The oldest entry drains, if it may. -/
def State.drain (s : State) (slot : Nat) : Option State :=
  match (s.slot slot).sb with
  | [] => none
  | e :: rest =>
    if e.held || (e.isRelease && !s.settled slot) || (e.kind.isHere && s.passing slot) || e.behindRelease s slot then none
    else if e.waits s slot then some (e.closing s slot)
    else (s.drainEntry slot e).map (fun s => (s.hashEntry slot e.kind).updSlot slot (fun p => { p with sb := rest }))

/-- STORE_BUFFER_DRAIN (R133). -/
def execStoreBufferDrain (slot : Nat) (s : State) : Out := .next ((s.drain slot).getD s)

/-- L2_EVICTION (R161): the line's dirty bytes and tags are on their way home. -/
def execL2Eviction (hearth line : Nat) (s : State) : Out :=
  .next (s.updHearth hearth (fun h => { h with
    dirty := h.dirty.map (fun (e : Nat × DirtyByte) => if h.onLine line e.1 then (e.1, { e.2 with sent := true }) else e)
    dtags := h.dtags.map (fun (e : Nat × DirtyTag) => if h.onLine line (8 * e.1) then (e.1, { e.2 with sent := true }) else e) }))

/-- Some byte or tag of the line is on its way home. -/
def Hearth.lineSent (h : Hearth) (line : Nat) : Bool :=
  h.dirty.any (fun e => e.2.sent && h.onLine line e.1) || h.dtags.any (fun e => e.2.sent && h.onLine line (8 * e.1))

/-- HOME_MERGE (R161): what was written to the line since it was sent goes with it, so that no aligned access is cut (R157). -/
def execHomeMerge (hearth line : Nat) (s : State) : Out :=
  .next (if (s.hearth hearth).lineSent line then s.lineHome hearth line else s)

end Sys2Proof.Machine
end

