-- ==== Sys2Proof/Machine/Images.lean ====
section
/-! DEFINITION. Region control blocks and kernel images as memory holds them (11_launch R171, R172; 03_encoding R56, R57; 02_machine
R32, R33), read at home by the launch unit or through a slot by SPAWN. -/
namespace Sys2Proof.Machine

/-- A little-endian field of `n` bytes at byte `o` of a block held as 8-byte words. -/
def fieldOf (ws : List Nat) (o n : Nat) : Nat := fld (ws.getD (o / 8) 0) (8 * (o % 8)) (8 * n)

/-! ## Region control blocks (R171) -/

/-- A node's own RCB with its address. -/
structure Node where
  rcba : Word
  ws : List Nat
  deriving DecidableEq, Repr

def Node.parent (n : Node) : Word := BitVec.ofNat 64 (fieldOf n.ws 0 8)
def Node.ovr (n : Node) : Nat := fieldOf n.ws 8 4
def Node.kind (n : Node) : Nat := fieldOf n.ws 0xC 1 % 4
def Node.depth (n : Node) : Nat := fieldOf n.ws 0xC 1 / 4 % 8

/-- The words of the node whose value is effective for an override bit: the first of the path with the bit set. -/
def effectiveWords (path : List Node) (bit_ : Nat) : List Nat :=
  match path.find? (fun n => bitOf n.ovr bit_) with
  | some n => n.ws
  | none => (path.getLast?.map (·.ws)).getD []

/-- An effective field. -/
def effective (path : List Node) (bit_ o n : Nat) : Nat := fieldOf (effectiveWords path bit_) o n

/-- LSEQ of the first node of a path: the current launch (R171). -/
def pathLseq (path : List Node) : Nat := (path.head?.map (fun n => fieldOf n.ws 0xB0 8)).getD 0

/-- The effective fields of the first node of a path to the root. -/
def rcbOf (path : List Node) : Rcb where
  parent := (path.head?.map Node.parent).getD 0
  kind := (path.head?.map Node.kind).getD 0
  depth := (path.head?.map Node.depth).getD 0
  prio := effective path 16 0xD 1 % 8
  flags := effective path 17 0xE 1
  bslott := effective path 0 0x10 8
  bslots := effective path 1 0x18 2
  bgran := effective path 2 0x1A 2
  blaunch := effective path 3 0x1C 2
  fdom := BitVec.ofNat 64 (effective path 5 0x20 8)
  part := BitVec.ofNat 64 (effective path 6 0x28 8)
  kaddr := BitVec.ofNat 64 (effective path 7 0x30 8)
  paddr := BitVec.ofNat 64 (effective path 8 0x38 8)
  psize := effective path 8 0x40 4
  extt := effective path 9 0x44 4
  extc := effective path 9 0x48 2
  crn := effective path 10 0x4A 2
  caddr := BitVec.ofNat 64 (effective path 10 0x78 8)
  ctag := BitVec.ofNat 64 (effective path 11 0x88 8)
  cspkd := BitVec.ofNat 64 (effective path 12 0x90 8)
  cspkh := BitVec.ofNat 64 (effective path 12 0x98 8)
  ntask := effective path 13 0xAC 4
  tsegb := BitVec.ofNat 64 (effective path 14 0xB8 8)
  tsegl := BitVec.ofNat 64 (effective path 14 0xC0 8)
  tevec := BitVec.ofNat 64 (effective path 14 0xC8 8)
  savea := BitVec.ofNat 64 (effective path 15 0xD0 8)
  graph := BitVec.ofNat 64 (effective path 4 0xE0 8)
  rpca := BitVec.ofNat 64 (effective path 18 0xF0 8)
  rpcn := effective path 18 0xF8 4
  rpcs := effective path 18 0xFC 4
  succ := match path.head? with
    | some n => (List.range 4).map (fun i => BitVec.ofNat 64 (fieldOf n.ws (0x50 + 8 * i) 8))
    | none => []
  succx := (path.head?.map (fun n => BitVec.ofNat 64 (fieldOf n.ws 0x70 8))).getD 0

def Rcb.det (g : Rcb) : Bool := bitOf g.flags 0
def Rcb.bclass (g : Rcb) : Nat := fld g.flags 1 2
def Rcb.embers (g : Rcb) : Bool := bitOf g.flags 3
def Rcb.replayable (g : Rcb) : Bool := bitOf g.flags 4
def Rcb.super (g : Rcb) : Bool := bitOf g.flags 5
/-- T = ⌈E / C⌉ (R177). -/
def Rcb.perCore (g : Rcb) : Nat := (g.extt + g.extc - 1) / g.extc

/-- The budgets along a path. -/
def budgetsOf : List Node → List Budget
  | [] => []
  | n :: rest =>
    let g := rcbOf (n :: rest)
    ⟨n.rcba, n.kind, g.bclass, g.bslott, g.bslots, g.bgran⟩ :: budgetsOf rest

/-- Reserved bits of a node, KIND = 3 and BCLASS = 3 (R171, R172).
DESIGN CHOICE (log 93): CSPKD[62:29] count as reserved bits. -/
def Node.reserved (n : Node) : Bool :=
  decide (n.ovr / 2 ^ 19 ≠ 0) || decide (fieldOf n.ws 0xC 1 / 32 ≠ 0) || decide (n.kind = 3) ||
  decide (fieldOf n.ws 0xD 1 / 8 ≠ 0) || decide (fieldOf n.ws 0xE 1 / 128 ≠ 0) || decide (fld (fieldOf n.ws 0xE 1) 1 2 = 3) ||
  decide (fieldOf n.ws 0xC7 1 ≠ 0) || decide (fieldOf n.ws 0xE8 8 ≠ 0) || decide (fld (fieldOf n.ws 0x90 8) 29 34 ≠ 0)

/-- A launch of the first node of a path is refused with BADRCB (R172, R183, R194, R357): `bottom` says whether the path ends at a
root.
DESIGN CHOICE (log 93): so is an RCB that is not on a multiple of 256, and a replay with RPCN 0 or above 64 or with RPCS no multiple
of 64; DEPTH, PRIO, DET, BCLASS, EMBERS and SUPER are compared between the launched node and its parent, and not between its ancestors. -/
def badRcb (path : List Node) (bottom replay : Bool) : Bool :=
  match path with
  | [] => true
  | n :: rest =>
    let g := rcbOf path
    !bottom || n.reserved || decide (n.rcba.toNat % 256 ≠ 0) ||
    (match path.getLast? with
      | some r => decide (r.ovr % 2 ^ 19 ≠ 2 ^ 19 - 1)
      | none => true) ||
    (match rest with
      | [] => decide (n.depth ≠ 0)
      | p :: _ =>
        let h := rcbOf rest
        decide (n.depth ≠ p.depth + 1) || decide (h.prio < g.prio) ||
        (decide (p.kind ≠ 0) && decide (g.flags % 2 ^ 4 ≠ h.flags % 2 ^ 4 ∨ g.super ≠ h.super))) ||
    (decide (n.kind = 2) && (decide (g.extc = 0) || decide (g.extt < g.extc) || decide (2 ^ 24 < g.extt))) ||
    decide (g.savea.toNat % 131072 ≠ 0) || (decide (n.kind = 2) && g.checked && !g.det) ||
    (replay && decide (g.rpcn = 0 ∨ 64 < g.rpcn ∨ g.rpcs % 64 ≠ 0))

/-! ## Partition words (R32, R33) -/

/-- Granules of a partition word's vector registers. -/
def vpsGranules (vps : Nat) : Nat := if vps = 0 then 0 else if vps = 3 then 2 else 1

/-- Granules a partition word takes. -/
def partGranules (w : Word) : Nat :=
  getField w 7 6 + (getField w 2 5 + 3) / 4 + vpsGranules (getField w 0 2)

/-- PART is valid (R33). -/
def partValid (w : Word) : Bool :=
  decide (partGranules w ≤ 32) && decide (getField w 2 5 ≤ 16) && decide (getField w 7 6 ≤ 32) &&
  decide (getField w 32 32 / 2 ^ getField w 7 6 = 0) && decide (getField w 13 19 = 0)

/-! ## Kernel images (R56, R57) -/

/-- A kernel image: the words of its header, of its patch table and of its segment table. -/
structure Image where
  header : List Nat
  patches : List Nat
  segs : List Nat
  deriving DecidableEq, Repr

def Image.npatch (header : List Nat) : Nat := fieldOf header 0xC 2
def Image.nseg (header : List Nat) : Nat := fieldOf header 0xE 2
def Image.codeoff (k : Image) : Nat := fieldOf k.header 0x10 4
def Image.codesz (k : Image) : Nat := fieldOf k.header 0x14 4
def Image.dataoff (k : Image) : Nat := fieldOf k.header 0x18 4
def Image.datasz (k : Image) : Nat := fieldOf k.header 0x1C 4
def Image.flags (k : Image) : Nat := fieldOf k.header 8 4
def Image.paramsz (k : Image) : Nat := fieldOf k.header 0x28 4

/-- The header's own conditions (R57); a header that fails them has no tables worth reading.
DESIGN CHOICE (log 93): CODEOFF may be any multiple of 64 from the end of the tables on, not the first one only. -/
def headerBad (h : List Nat) : Bool :=
  let off := fieldOf h 0x10 4
  let sz := fieldOf h 0x14 4
  decide (fieldOf h 0 4 ≠ 0x314B514E) || decide (fieldOf h 4 2 ≠ 1) ||
  (decide (fieldOf h 6 2 = 0) && (decide (fieldOf h 8 4 / 32 ≠ 0) || decide (fieldOf h 0x2C 4 ≠ 0) ||
    decide (fieldOf h 0x30 8 ≠ 0) || decide (fieldOf h 0x38 8 ≠ 0))) ||
  decide (256 < Image.npatch h) || decide (5 < Image.nseg h) || decide (off % 64 ≠ 0) ||
  decide (off < 64 + 8 * (Image.npatch h + Image.nseg h)) || decide (sz % 4 ≠ 0) ||
  decide (fieldOf h 0x18 4 ≠ (off + sz + 63) / 64 * 64)

/-- Fields of a patch entry: IOFF, KIND, PSIZE, SHIFT, POFF. -/
def patchEntry (w : Nat) : Overlay := ⟨fld w 0 32, fld w 32 4, fld w 36 4, fld w 40 8, fld w 48 16, 0, false⟩

/-- A patch table breaks R57. -/
def patchesBad (codesz paramsz : Nat) : List Nat → Option Nat → Bool
  | [], _ => false
  | w :: ws, last =>
    let o := patchEntry w
    decide (4 < o.kind) || decide (1 < o.psize) || decide (63 < o.shift) || decide (codesz ≤ o.ioff) ||
    (match last with
      | some l => decide (o.ioff ≤ l)
      | none => false) ||
    decide (paramsz < o.poff + (if o.psize = 0 then 4 else 8)) || patchesBad codesz paramsz ws (some o.ioff)

/-- A segment entry breaks R57. -/
def segEntryBad (w : Nat) : Bool := decide (fld w 0 8 = 0) || decide (5 < fld w 0 8) || decide (fld w 32 32 ≠ 0)

/-- The image fails R57 for the effective fields of a group. -/
def Image.bad (k : Image) (g : Rcb) : Bool :=
  let want : Word := BitVec.ofNat 64 (fieldOf k.header 0x20 8)
  headerBad k.header || patchesBad k.codesz k.paramsz k.patches none || k.segs.any segEntryBad ||
  decide (g.psize < k.paramsz) || (bitOf k.flags 0 && !g.det) ||
  (bitOf k.flags 1 && decide (fld k.flags 2 2 ≠ g.bclass)) ||
  (bitOf k.flags 4 && (decide (getField g.part 0 2 < getField want 0 2) || decide (getField g.part 2 5 < getField want 2 5) ||
    decide (getField g.part 7 6 < getField want 7 6) || decide (getField (g.part &&& ~~~want) 32 32 ≠ 0)))

/-! ## Readers -/

/-- `n` words at a global address as a unit reads them (R366). -/
def State.unitWords (s : State) (a : Word) (n : Nat) : List Nat := (List.range n).map (fun i => s.unitNat (a + BitVec.ofNat 64 (8 * i)) 8)

/-- The path from a node to its root as a unit reads it, and whether it ends at a root (R171): at most 8 levels.
DESIGN CHOICE (log 93): an RCB of this package that an uncorrectable error hides ends the path, and the launch is refused with BADRCB
(R355). -/
def State.pathFrom (s : State) : Nat → Word → List Node × Bool
  | 0, _ => ([], false)
  | k + 1, w =>
    if !s.unitAt w || s.unitBad w 256 then ([], false)
    else
      let n : Node := ⟨w, s.unitWords w 32⟩
      if n.parent = 0 then ([n], true)
      else
        let (rest, ok) := s.pathFrom k n.parent
        (n :: rest, ok)

def State.path (s : State) (w : Word) : List Node × Bool := s.pathFrom 8 w

/-- The image at a global address as a unit reads it (R57); where nothing is, or an uncorrectable error hides it, there is no image. -/
def State.imageAt (s : State) (a : Word) : Image :=
  let h := s.unitWords a 8
  if s.unitBad a 64 || s.unitBad a (64 + 8 * (Image.npatch h + Image.nseg h)) then ⟨[], [], []⟩
  else if headerBad h then ⟨h, [], []⟩
  else ⟨h, s.unitWords (a + 64) (Image.npatch h), s.unitWords (a + 64 + BitVec.ofNat 64 (8 * Image.npatch h)) (Image.nseg h)⟩

/-- What a slot's read of memory by address gives. -/
inductive Read (α : Type) where
  | ok (v : α)
  | wait
  /-- uncorrectable data at the address -/
  | bad (a : Word)
  deriving DecidableEq, Repr

/-- Key of a read by address among the slot's remote reads. -/
def readKey (a : Word) : Nat := 2 ^ 72 + a.toNat

/-- `n` words from a global address as a slot's loads see them. -/
def State.readWords (s : State) (slot : Nat) (a : Word) : Nat → State × Read (List Nat)
  | 0 => (s, .ok [])
  | n + 1 =>
    let l := globalLocal a
    let (s, r) : State × Read Nat :=
      if globalPkg a = s.pkg.number then
        (s, if s.loadBad slot l 8 then .bad a else .ok (leNat (s.loadHere slot l 8)))
      else match s.remoteCode slot (readKey a) [⟨.there (globalPkg a) l, 8, none, none⟩] with
        | (s, some (w, bad)) => (s, if bad then .bad a else .ok w)
        | (s, none) => (s, .wait)
    match r, s.readWords slot (a + 8) n with
    | .bad a, (s, _) => (s, .bad a)
    | _, (s, .bad a) => (s, .bad a)
    | .ok w, (s, .ok ws) => (s, .ok (w :: ws))
    | _, (s, _) => (s, .wait)

/-- Reads by address are forgotten once the instruction completes. -/
def Slot.forgetReads (p : Slot) : Slot := { p with remoteFetch := p.remoteFetch.filter (fun e => decide (e.key < 2 ^ 72)) }

/-- The path of a node as a slot reads it. -/
def State.readPath (s : State) (slot : Nat) : Nat → Word → State × Read (List Node × Bool)
  | 0, _ => (s, .ok ([], false))
  | k + 1, w =>
    match s.readWords slot w 32 with
    | (s, .wait) => (s, .wait)
    | (s, .bad a) => (s, .bad a)
    | (s, .ok ws) =>
      let n : Node := ⟨w, ws⟩
      if n.parent = 0 then (s, .ok ([n], true))
      else match s.readPath slot k n.parent with
        | (s, .ok (rest, ok)) => (s, .ok (n :: rest, ok))
        | r => r

/-- The image at a global address as a slot reads it. -/
def State.readImage (s : State) (slot : Nat) (a : Word) : State × Read Image :=
  match s.readWords slot a 8 with
  | (s, .wait) => (s, .wait)
  | (s, .bad a) => (s, .bad a)
  | (s, .ok h) =>
    if headerBad h then (s, .ok ⟨h, [], []⟩)
    else match s.readWords slot (a + 64) (Image.npatch h) with
      | (s, .wait) => (s, .wait)
      | (s, .bad a) => (s, .bad a)
      | (s, .ok ps) =>
        match s.readWords slot (a + 64 + BitVec.ofNat 64 (8 * Image.npatch h)) (Image.nseg h) with
        | (s, .ok gs) => (s, .ok ⟨h, ps, gs⟩)
        | (s, .wait) => (s, .wait)
        | (s, .bad a) => (s, .bad a)

/-- The group's fault domain (R111): its effective FDOM, or the hearth's system fault domain. -/
def State.groupDomain (s : State) (hearth : Nat) (g : Rcb) : Word :=
  if g.fdom = 0 then (s.hearth hearth).sysfdom else g.fdom

/-- Address 0 names no fault domain: nothing is reserved there. -/
def ringOf (dom : Word) : Option Word := if dom = 0 then none else some dom

end Sys2Proof.Machine
end

