-- ==== Sys2Proof/Machine/Launch.lean ====
section
/-! DEFINITION. The launch unit of a hearth: checks, the pending pool, overflow, graph replays, queues, budgets and placement
(11_launch R171 to R183). -/
namespace Sys2Proof.Machine

/-- A field of an RCB as the launch unit of hearth h writes and reads it (R171, R366). -/
def State.rcbWrite (s : State) (h : Nat) (rcba : Word) (off n v : Nat) : State :=
  s.deviceWrite h rcba (rcba + BitVec.ofNat 64 off) (bytesOfNat n v)

def State.rcbRead (s : State) (rcba : Word) (off n : Nat) : Nat := s.unitNat (rcba + BitVec.ofNat 64 off) n

/-- STATE of a node (R171); a replay leaves the live fields alone (R183). -/
def State.setNodeState (s : State) (h : Nat) (rcba : Word) (replay : Bool) (v : Nat) : State :=
  if replay then s else s.rcbWrite h rcba 0xF 1 v

/-! ## Successors (R175, R183) -/

/-- Successors of a launch: SUCC0 to SUCC3 as they were at its acceptance (R173), then the list at SUCCX. -/
def State.successors (s : State) (g : Rcb) : List Word :=
  let more := if g.succx = 0 then [] else
    (List.range (s.unitNat g.succx 8)).map (fun i => s.unitWord (g.succx + BitVec.ofNat 64 (8 + 8 * i)))
  (g.succ ++ more).filter (fun w => w != 0)

/-- The answer to a decrement in another package. -/
def State.tookDecrement (s : State) (id : Nat) (succ : Word) (old : Nat) (ok : Bool) : State :=
  let s := { s with pkg := { s.pkg with decrements := s.pkg.decrements.filter (fun e => e.1 != id) } }
  if ok && old == 0 then s.markUnder succ else s

/-! ## Completion records (R181) -/

/-- The consumer count allows one more record: CSEQ − TC < CRN. -/
def State.ringRoom (s : State) (g : Rcb) (cseq : Nat) : Bool :=
  g.caddr == 0 || decide (cseq < s.unitNat g.caddr 8 + g.crn)

/-- CSEQ of a launch: the RCB's, and for a replay its number beyond it (R183). -/
def State.cseqOf (s : State) (rcba : Word) (replay : Option Nat) : Nat := s.rcbRead rcba 0x80 8 + replay.getD 0

/-- Steps 2 to 4 of a completion, each a release at `.sys` (R167). -/
def State.writeCompletion (s : State) (h : Nat) (rcba : Word) (g : Rcb) (replay : Option Nat)
    (lseq tplace status flags nexit nreap usedt state : Nat) : State :=
  let cseq := s.cseqOf rcba replay
  let rec_ := bytesOfNat 8 cseq ++ bytesOfNat 8 rcba.toNat ++ bytesOfNat 8 lseq ++ bytesOfNat 8 tplace ++ bytesOfNat 8 s.dtime ++
    bytesOfNat 1 status ++ bytesOfNat 1 flags ++ bytesOfNat 2 0 ++ bytesOfNat 4 (replay.getD 0) ++ bytesOfNat 4 nexit ++
    bytesOfNat 4 nreap ++ bytesOfNat 8 usedt
  let s := if g.caddr = 0 then s
    else s.deviceDo h rcba (.release (g.caddr + BitVec.ofNat 64 (64 + 64 * (cseq % g.crn))) rec_ none)
  let s := if replay.isSome then s
    else (s.deviceDo h rcba (.release (rcba + 0x80) (bytesOfNat 8 (cseq + 1)) none)).deviceDo h rcba
      (.release (rcba + 0xF) (bytesOfNat 1 state) none)
  let s := if g.ctag = 0 then s else s.deviceDo h rcba (.release g.ctag (bytesOfNat 8 cseq) (some true))
  if bitW g.cspkd 63 then s.deviceDo h rcba (.message g.cspkd ⟨2 ^ 32 - 1, cseq % 2 ^ 32, [g.cspkh, rcba]⟩) else s

/-- Step 5: the successors are counted down (R175, R181, R183). -/
def State.countDown (s : State) (h : Nat) (rcba : Word) (g : Rcb) (replay : Option (Nat × Word)) : State :=
  (s.successors g).foldl (fun s x => s.deviceDo h rcba (.decrement x replay)) s

/-- FLAGS of a completion record. -/
def completionFlags (preempted replay under : Bool) : Nat :=
  (if preempted then 1 else 0) + (if replay then 2 else 0) + (if under then 4 else 0)

/-- A refused launch (R182): its record carries LSEQ 0, STATE turns 5, and its successors are counted down. -/
def State.refuseLaunch (s : State) (h : Nat) (rcba : Word) (g : Rcb) (replay : Option (Nat × Word)) (status : Nat) : State :=
  let under := s.pkg.under.contains rcba
  let s := { s with pkg := { s.pkg with under := s.pkg.under.filter (fun w => w != rcba) } }
  (s.writeCompletion h rcba g (replay.map (·.1)) 0 0 status (completionFlags false replay.isSome under) 0 0 0 5).countDown h rcba g replay

/-! ## Checks (R182) -/

/-- Logical cores a hearth has (R177): those of its clamps that are not gated since boot. -/
def State.hearthCores (s : State) (h : Nat) : Nat := 16 * ((List.range 16).filter (fun c => s.clampExists (16 * h + c))).length

/-- The first check that fails, or 0. `block` is false when a replay's parameter block lies outside the root's (R183). -/
def State.launchStatus (s : State) (h : Nat) (path : List Node) (bottom replay launcherOk block : Bool) : Nat :=
  let g := rcbOf path
  if !launcherOk || !block || badRcb path bottom replay then 0x03
  else if g.kind ≠ 2 then 0
  else if (s.imageAt g.kaddr).bad g then 0x01
  else if !partValid g.part then 0x02
  else if g.bslots < g.extt ∨ 13 < g.perCore ∨ s.hearthCores h < g.extc then 0x11
  else 0

/-! ## The pool and overflow (R173, R174) -/

/-- Entries that the children of a node hold. -/
def State.childrenOf (s : State) (parent : Word) : Nat :=
  (s.hearths.flatMap (fun h => h.2.pool.filter (fun g => decide (g.g.parent = parent)))).length

/-- A launch of a child of `parent` may enter the pool of hearth h. -/
def State.poolRoom (s : State) (h : Nat) (parent : Word) : Bool :=
  decide ((s.hearth h).pool.length < 4096) &&
  (parent == 0 || decide (s.childrenOf parent < (rcbOf (s.path parent).1).blaunch))

/-- Overflow entries of a node in LSEQ order. -/
def State.overflowOf (s : State) (parent : Word) : List Overflow :=
  s.hearths.flatMap (fun h => h.2.overflow.filter (fun e => decide (e.parent = parent)))

/-- The node's overflow area and OVFUSED follow the entries (R174). -/
def State.syncOverflow (s : State) (h : Nat) (parent : Word) : State :=
  let es := s.overflowOf parent
  let area : Word := BitVec.ofNat 64 (s.rcbRead parent 0xA0 8)
  let s := s.rcbWrite h parent 0xA8 4 es.length
  (List.range es.length).foldl (fun s i => match es[i]? with
    | some e => s.deviceWrite h parent (area + BitVec.ofNat 64 (32 * i))
        (bytesOfNat 8 e.rcba.toNat ++ bytesOfNat 8 e.lseq ++ bytesOfNat 8 e.plist.toNat ++ bytesOfNat 8 e.replay)
    | none => s) s

/-- The node grants one more overflow entry. -/
def State.overflowRoom (s : State) (parent : Word) : Bool :=
  parent != 0 && decide (s.rcbRead parent 0xA8 4 < s.rcbRead parent 0x1E 2)

/-- A new entry of a launch. -/
def State.newPend (s : State) (path : List Node) (window : Option StepWindow) (replay : Option (Nat × Word)) (deps : Nat) : Pend :=
  let g := rcbOf path
  let rcba := (path.head?.map (·.rcba)).getD 0
  { lseq := 0, rcba := rcba, g := g, chain := budgetsOf path, prio := g.prio, since := s.dtime, state := 1
    replay := replay.map (·.1), copy := (replay.map (·.2)).getD 0, deps := deps, threads := [], nexit := 0, nreap := 0
    preempted := false, tplace := none, usedt := 0, fail := none, under := s.pkg.under.contains rcba, window := window
    run := 1, digests := [], clamps := [], firstDigest := [], firstClamps := [] }

/-- The hearth's next launch sequence (R173). -/
def State.takeLseq (s : State) (h : Nat) : State × Nat :=
  (s.updHearth h (fun x => { x with nextLseq := (x.nextLseq + 1) % 2 ^ 48 }), (s.hearth h).nextLseq)

/-- A job domain reserves its slots and granules once it has burn-class work in the hearth (R178). -/
def State.noteReserve (s : State) (h : Nat) (p : Pend) : State :=
  match p.chain.getLast? with
  | some b => if p.g.bclass = 0 ∨ (s.hearth h).reserves.contains b.rcba then s
      else s.updHearth h (fun x => { x with reserves := x.reserves ++ [b.rcba] })
  | none => s

/-- A checked launch enters the pool, else overflow, else is refused with FULL: its LSEQ, if it has one. -/
def State.admitLaunch (s : State) (h : Nat) (p : Pend) : State × Option Nat :=
  let wait := !(s.overflowOf p.g.parent).isEmpty
  let ok := s.poolRoom h p.g.parent && !wait
  if !ok && !s.overflowRoom p.g.parent then (s, none)
  else
    let (s, lseq) := s.takeLseq h
    let p := { p with lseq := lseq }
    let s := { s with pkg := { s.pkg with under := s.pkg.under.filter (fun w => w != p.rcba) } }
    let s := s.noteReserve h p
    let s := if p.replay.isSome then s else (s.rcbWrite h p.rcba 0xB0 8 lseq).setNodeState h p.rcba false 1
    if ok then (s.updHearth h (fun x => { x with pool := x.pool ++ [p] }), some lseq)
    else
      let s := s.updHearth h (fun x => { x with overflow := x.overflow ++ [(⟨lseq, p.g.parent, p.rcba, some p, 0, p.replay.getD 0⟩ : Overflow)] })
      (s.syncOverflow h p.g.parent, some lseq)

/-- The answer FULL of a launch (R187). -/
def fullResult : Nat := 2 ^ 63 + 0x10

/-- Groups that memory holds below a node, by ascending address: blocks whose KIND is 2 and whose path reaches it (R173; log 88).
DESIGN CHOICE (log 88): the memory is this package's, so that a region launch finds no group whose RCB lies in another. -/
def State.groupsBelow (s : State) (node : Word) : List Word :=
  (s.home.filterMap (fun e => if e.1 % 256 = 0x0C ∧ fld e.2.toNat 0 2 = 2 then some (s.global (e.1 - 0x0C)) else none)).filter (fun w =>
    (s.path w).2 && (s.path w).1.tail.any (fun n => decide (n.rcba = node)))

/-- Submits a launch of a group (R173, R182): LSEQ, or 2^63 + status. -/
def State.submitGroup (s : State) (h : Nat) (rcba : Word) (launcherOk : Bool) (window : Option StepWindow) : State × Nat :=
  let (path, bottom) := s.path rcba
  let status := s.launchStatus h path bottom false launcherOk true
  if status ≠ 0 then (s.refuseLaunch h rcba (rcbOf path) none status, 2 ^ 63 + status)
  else match s.admitLaunch h (s.newPend path window none 0) with
    | (s, some lseq) => (s, lseq)
    | (s, none) => (s, fullResult)

/-- Each of the groups is accepted as its own entry; none when one of them finds no room (log 88). -/
def State.submitAll (s : State) (h : Nat) : List Word → Option State
  | [] => some s
  | w :: ws =>
    match s.submitGroup h w true none with
    | (t, r) => if r = fullResult then none else t.submitAll h ws

/-- Submits a launch (R173, R182, R187): LSEQ, or 2^63 + status. A node that is no group takes a sequence, and each group below a
region is accepted as a launch of its own. -/
def State.submit (s : State) (h : Nat) (rcba : Word) (launcherOk : Bool) (window : Option StepWindow) : State × Nat :=
  let (path, bottom) := s.path rcba
  let g := rcbOf path
  let status := s.launchStatus h path bottom false launcherOk true
  if path = [] then (s, 2 ^ 63 + 0x03)
  else if status ≠ 0 ∨ g.kind = 2 then s.submitGroup h rcba launcherOk window
  else
    let (t, lseq) := s.takeLseq h
    let t := (t.rcbWrite h rcba 0xB0 8 lseq).setNodeState h rcba false 1
    match t.submitAll h (if g.kind = 1 then t.groupsBelow rcba else []) with
    | some t => (t, lseq)
    | none => (s, fullResult)

/-! ## Graph replays (R183) -/

/-- The graph of a root. -/
def State.graph (s : State) (root : Word) : Graph := (s.pkg.graphs.find? (fun t => decide (t.root = root))).getD ⟨root, 0, [], []⟩

def State.setGraph (s : State) (t : Graph) : State :=
  { s with pkg := { s.pkg with graphs := t :: s.pkg.graphs.filter (fun u => decide (u.root ≠ t.root)) } }

/-- Replay n of the graph, if it has opened. -/
def Graph.replay (t : Graph) (n : Nat) : Option Replay := t.replays.find? (fun r => r.n == n)

/-- Replay n has completed every node of the graph. -/
def Graph.complete (t : Graph) (n : Nat) : Bool :=
  match t.replay n with
  | some r => r.nodes.all r.done.contains
  | none => true

/-- Replay n may reuse its copy. -/
def Graph.copyFree (t : Graph) (n rpcn : Nat) : Bool := decide (n < rpcn) || t.complete (n - rpcn)

/-- Nodes of a graph: the groups below its root that carry GRAPH. -/
def State.graphNodes (s : State) (root : Word) : List Word :=
  (s.groupsBelow root).filter (fun w => decide ((rcbOf (s.path w).1).graph ≠ 0))

/-- Offset of a node's parameter block from the root's, and whether it lies within RPCS bytes. -/
def blockOff (g top : Rcb) : Nat := g.paddr.toNat - top.paddr.toNat
def blockInside (g top : Rcb) : Bool := decide (top.paddr.toNat ≤ g.paddr.toNat) && decide (blockOff g top + g.psize ≤ top.rpcs)

/-- The patch list: 16-byte entries of an offset and a value. -/
def State.patchCopy (s : State) (h : Nat) (root copy plist : Word) : State :=
  if plist = 0 then s
  else (List.range (s.unitNat plist 8)).foldl (fun s i =>
    s.deviceWrite h root (copy + s.unitWord (plist + BitVec.ofNat 64 (8 + 16 * i))) (s.unitBytes (plist + BitVec.ofNat 64 (16 + 16 * i)) 8)) s

/-- A replay's node is noted as accepted, or as complete. -/
def State.noteNode (s : State) (root rcba : Word) (n : Nat) (done : Bool) : State :=
  let t := s.graph root
  s.setGraph { t with
    replays := t.replays.map (fun (r : Replay) => if r.n = n then
      { r with accepted := if r.accepted.contains rcba then r.accepted else r.accepted ++ [rcba], done := if done then r.done ++ [rcba] else r.done } else r) }

/-- A node of a replay is accepted as its own entry, where it finds room: its count is that of the RCB, less the decrements it has had
(R175). -/
def State.acceptNode (s : State) (root rcba : Word) (n : Nat) : State :=
  match (s.graph root).replay n with
  | none => s
  | some r =>
    let (path, bottom) := s.path rcba
    let g := rcbOf path
    let top := rcbOf (s.path root).1
    let status := s.launchStatus r.hearth path bottom true true (blockInside g top)
    if status ≠ 0 then (s.refuseLaunch r.hearth rcba g (some (n, root)) status).noteNode root rcba n true
    else
      let pre := (r.pre.filter (fun w => w == rcba)).length
      let deps := s.rcbRead rcba 0x4C 4
      let p := s.newPend path none (some (n, r.copy + BitVec.ofNat 64 (blockOff g top))) (deps - pre)
      match s.admitLaunch r.hearth { p with under := decide (deps < pre) } with
      | (s, some _) => s.noteNode root rcba n false
      | (s, none) => s

/-- Replay n opens: the parameters are copied and patched, and its nodes are accepted. -/
def State.openReplay (s : State) (h : Nat) (root plist : Word) (n lseq : Nat) : State :=
  let g := rcbOf (s.path root).1
  let copy := g.rpca + BitVec.ofNat 64 (g.rpcs * (n % g.rpcn))
  let s := (s.deviceWrite h root copy (s.unitBytes g.paddr g.rpcs)).patchCopy h root copy plist
  let nodes := s.graphNodes root
  let t := s.graph root
  let s := s.setGraph { t with nodes := nodes, replays := t.replays ++ [(⟨n, lseq, h, copy, nodes, [], [], []⟩ : Replay)] }
  nodes.foldl (fun s w => s.acceptNode root w n) s

/-- Every node of replay n has been accepted. -/
def State.allAccepted (s : State) (root : Word) (n : Nat) : Bool :=
  match (s.graph root).replay n with
  | some r => r.nodes.all r.accepted.contains
  | none => true

/-- Nodes of open replays of hearth h that found no room, as root, node and number. -/
def State.unaccepted (s : State) (h : Nat) : List (Word × Word × Nat) :=
  s.pkg.graphs.flatMap (fun t => (t.replays.filter (fun r => r.hearth == h)).flatMap (fun r =>
    (r.nodes.filter (fun w => !r.accepted.contains w)).map (fun w => (t.root, w, r.n))))

/-- Nodes that found no room are accepted once there is some (R174, R183). -/
def State.acceptHeld (s : State) (h : Nat) : State := (s.unaccepted h).foldl (fun s x => s.acceptNode x.1 x.2.1 x.2.2) s

/-- The checks of a replay (R172, R182, R183, R187): the node is a region, and every node's block lies within RPCS bytes.
DESIGN CHOICE (log 93): a LAUNCH with fl[0] = 1 on a node that is no region is refused with BADRCB. -/
def State.replayBad (s : State) (root : Word) (launcherOk : Bool) : Bool :=
  let (path, bottom) := s.path root
  !launcherOk || badRcb path bottom true || decide ((rcbOf path).kind ≠ 1) ||
    (s.graphNodes root).any (fun w => !blockInside (rcbOf (s.path w).1) (rcbOf path))

/-- Submits a replay of a graph (R183): a number, and its copy at once or once replay n − RPCN has completed; FULL when a node finds no
room. A refused one takes no number, and its record is that of a replay. -/
def State.submitReplay (s : State) (h : Nat) (root plist : Word) (launcherOk : Bool) : State × Nat :=
  let g := rcbOf (s.path root).1
  let t := s.graph root
  if (s.path root).1 = [] then (s, 2 ^ 63 + 0x03)
  else if s.replayBad root launcherOk then (s.refuseLaunch h root g (some (t.next, root)) 0x03, 2 ^ 63 + 0x03)
  else if t.copyFree t.next g.rpcn && (s.overflowOf g.parent).isEmpty then
    let (u, lseq) := s.takeLseq h
    let u := (u.setGraph { t with next := t.next + 1 }).openReplay h root plist t.next lseq
    if u.allAccepted root t.next then (u, lseq) else (s, fullResult)
  else if s.overflowRoom g.parent then
    let (s, lseq) := s.takeLseq h
    let s := (s.setGraph { t with next := t.next + 1 }).updHearth h (fun x => { x with
      overflow := x.overflow ++ [(⟨lseq, g.parent, root, none, plist, t.next⟩ : Overflow)] })
    (s.syncOverflow h g.parent, lseq)
  else (s, fullResult)

/-- LAUNCH_ACCEPT (R173): a launch that reaches the unit from outside a LAUNCH. -/
def execLaunchAccept (hearth rcba : Nat) (s : State) : Out := .next (s.submit hearth (BitVec.ofNat 64 rcba) true none).1

/-- The overflow entry of hearth h that may move now: the lowest LSEQ of its parent, with room (R174, R183). -/
def State.movable (s : State) (h : Nat) : Option Overflow :=
  (s.hearth h).overflow.find? (fun e =>
    !(s.hearth h).overflow.any (fun f => decide (f.parent = e.parent) && decide (f.lseq < e.lseq)) &&
    match e.pend with
    | some _ => s.poolRoom h e.parent
    | none => (s.graph e.rcba).copyFree e.replay (rcbOf (s.path e.rcba).1).rpcn)

/-- OVERFLOW_MOVE (R174). -/
def execOverflowMove (hearth : Nat) (s : State) : Out :=
  .next (match s.movable hearth with
    | none => s
    | some e =>
      let s := s.updHearth hearth (fun x => { x with overflow := x.overflow.filter (fun f => f.lseq != e.lseq) })
      let s := match e.pend with
        | some p => s.updHearth hearth (fun x => { x with pool := x.pool ++ [p] })
        | none => s.openReplay hearth e.rcba e.plist e.replay e.lseq
      s.syncOverflow hearth e.parent)

/-! ## Queues (R175, R176) -/

/-- The parameter copy of a replay in another package is performed there (R183). -/
def State.copyWritten (s : State) (h : Nat) (p : Pend) (t : Graph) : Bool :=
  globalPkg p.copy == s.pkg.number || !s.lanePending h t.root

/-- The dependences of an entry are met, and a replay's node follows the same node of the replay before (R183). -/
def State.depsMet (s : State) (h : Nat) (p : Pend) : Bool :=
  match p.replay with
  | none => s.rcbRead p.rcba 0x4C 4 == 0
  | some n => p.deps == 0 && (s.pkg.graphs.filter (fun t => p.chain.any (fun b => decide (b.rcba = t.root)))).all (fun t =>
      s.copyWritten h p t &&
      !(decide (0 < n) && t.replays.any (fun r => decide (r.n < n) && r.nodes.contains p.rcba && !r.done.contains p.rcba)))

/-- Entries of hearth h that turn ready. -/
def State.newlyReady (s : State) (h : Nat) : List Pend := (s.hearth h).pool.filter (fun p => p.state == 1 && s.depsMet h p)

/-- Ready entries wait in the queue of their priority from now on. -/
def State.markReady (s : State) (h : Nat) : State :=
  (s.newlyReady h).foldl (fun s p => (s.updPend h p.lseq (fun q => { q with state := 2, since := s.dtime })).setNodeState h p.rcba
    p.replay.isSome 2) s

/-- Entries whose millisecond in a queue is over. -/
def State.aged (s : State) (h : Nat) : List Pend :=
  (s.hearth h).pool.filter (fun p => p.state == 2 && decide (p.prio < 7) && decide (p.since + 10 ^ 6 ≤ s.dtime))

/-- PRIORITY_AGING (R176). -/
def execPriorityAging (hearth : Nat) (s : State) : Out :=
  .next ((s.aged hearth).foldl (fun s p => s.updPend hearth p.lseq (fun q => { q with prio := q.prio + 1, since := q.since + 10 ^ 6 })) s)

/-- The head of a queue: the ready entry with the lowest LSEQ. -/
def State.headOf (s : State) (h q : Nat) : Option Pend :=
  ((s.hearth h).pool.filter (fun p => p.state == 2 && p.prio == q)).foldl (fun best p => match best with
    | none => some p
    | some b => if p.lseq < b.lseq then some p else some b) none

/-! ## Budgets (R177, R178) -/

/-- Threads of an entry that hold or are promised a slot. -/
def Pend.held (p : Pend) : Nat := (p.threads.filter (fun t => decide (t.phase < 2))).length
/-- Threads that have not ended. -/
def Pend.left (p : Pend) : Nat := (p.threads.filter (fun t => decide (t.phase ≠ 3))).length

/-- Every entry of the package's pools. -/
def State.allPends (s : State) : List Pend := s.hearths.flatMap (fun h => h.2.pool)

/-- Pool granules an entry holds. -/
def Pend.granules (p : Pend) : Nat :=
  if p.g.embers then 0
  else ((p.threads.filter (fun t => decide (t.phase < 2))).map (fun t => coreOf t.slot)).eraseDups.length * partGranules p.g.part

/-- Entries of the subtree of a node; `burn` asks for those of burn-class groups alone. -/
def State.entriesUnder (s : State) (node : Word) (burn : Bool) : List Pend :=
  s.allPends.filter (fun p => p.chain.any (fun b => decide (b.rcba = node)) && (!burn || decide (p.g.bclass ≠ 0)))

/-- Slots with an ember of a group of another package whose path reaches the node (R25, R171). -/
def State.guestsUnder (s : State) (node : Word) : Nat :=
  (s.slots.filter (fun e => e.2.holds && e.2.launcher == .away && (s.path e.2.ctl.rcba).1.any (fun n => decide (n.rcba = node)))).length

/-- Slots and granules that the subtree of a node holds; embers of other packages hold slots too.
DESIGN CHOICE (log 93): granules of a core that two groups of the subtree share count for each of them. -/
def State.slotsUnder (s : State) (node : Word) (burn : Bool) : Nat :=
  ((s.entriesUnder node burn).map Pend.held).foldl (· + ·) 0 + (if burn then 0 else s.guestsUnder node)
def State.granulesUnder (s : State) (node : Word) (burn : Bool) : Nat := ((s.entriesUnder node burn).map Pend.granules).foldl (· + ·) 0

/-- Slot time charged to a node, with what its running threads have used since (R171). -/
def State.usedUnder (s : State) (node : Word) : Nat :=
  s.rcbRead node 0xD8 8 +
  ((s.allPends.filter (fun p => p.chain.any (fun b => decide (b.rcba = node)))).flatMap (fun p =>
    (p.threads.filter (fun t => t.phase == 1)).map (fun t => s.dtime - (s.slot t.slot).startAt))).foldl (· + ·) 0

/-- Budgets of a node as they stand now. -/
def State.budgetNow (s : State) (b : Budget) : Budget := (budgetsOf (s.path b.rcba).1).headD b

/-- The launch's own budgets as they were at its acceptance, and those of its ancestors as they stand (R173, R177). -/
def State.liveChain (s : State) (p : Pend) : List Budget := p.chain.take 1 ++ p.chain.tail.map s.budgetNow

/-- The node is the job domain of a burn-class group: its BSLOTS and BGRAN are the group's reservation, of which untimed groups hold
nothing (R178; log 51). -/
def Pend.reserveOf (p : Pend) (node : Word) : Bool := decide (p.g.bclass ≠ 0) && p.chain.getLast?.map (·.rcba) == some node

/-- Every ancestor's budget holds after the placement. -/
def State.budgetsHold (s : State) (p : Pend) : Bool :=
  let k := if p.threads = [] then p.g.extt else p.left
  (s.liveChain p).all (fun b =>
    decide (s.slotsUnder b.rcba (p.reserveOf b.rcba) + k ≤ b.bslots) && decide (s.granulesUnder b.rcba (p.reserveOf b.rcba) + (if p.g.embers then 0 else p.g.extc * partGranules p.g.part) ≤ b.bgran) &&
    (b.bslott == 0 || decide (s.usedUnder b.rcba < b.bslott)))

/-- Room for the group's reservations in its fault domain (R180); a saved group keeps those it has. -/
def State.domainRoom (s : State) (dom : Word) (k : Nat) : Bool :=
  dom == 0 || !s.unitAt dom ||
  decide (s.unitNat (dom + 16) 8 + s.unitNat (dom + 12) 4 + k ≤ s.unitNat (dom + 8) 4 + s.unitNat (dom + 24) 8)

/-- Reservations in a domain rise or fall. -/
def State.addReserved (s : State) (dom : Word) (up : Bool) (k : Nat) : State :=
  if dom = 0 then s
  else
    let s := s.unitMerge (dom + 8)
    let r := s.unitNat (dom + 12) 4
    s.deviceWrite 0 dom (dom + 12) (bytesOfNat 4 (if up then r + k else r - k))

/-- Entries of burn-class groups of a job domain. -/
def State.burnWork (s : State) (root : Word) : List Pend :=
  s.allPends.filter (fun p => decide (p.g.bclass ≠ 0) && p.chain.getLast?.map (·.rcba) == some root)

/-- Slots and granules that an entry still needs for its threads that have not ended. -/
def Pend.needs (p : Pend) : Nat × Nat :=
  ((if p.threads = [] then p.g.extt else p.left) - p.held,
    (if p.g.embers then 0 else p.g.extc * partGranules p.g.part) - p.granules)

/-- What is left of a reservation: the budget without what is held. A budget that no hearth can fill sets no number aside, and what the
accepted work still needs is kept (R178; log 51). -/
def reserveLeft (budget held need most : Nat) : Nat := if budget < most then budget - held else min need (budget - held)

/-- Job domains that memory holds and whose own flags are burn-class (R171, R178). -/
def State.burnDomains (s : State) : List Word :=
  (s.home.filterMap (fun e => if e.1 % 256 = 0x0E ∧ fld e.2.toNat 1 2 ≠ 0 then some (s.global (e.1 - 0x0E)) else none)).filter (fun w =>
    match s.path w with
    | ([n], true) => decide (n.kind = 0) && decide (n.ovr = 2 ^ 19 - 1) && decide (n.depth = 0)
    | _ => false)

/-- Job domains that reserve slots in hearth h (log 51). -/
def State.burnRoots (s : State) (h : Nat) : List Word := ((s.hearth h).reserves ++ s.burnDomains).eraseDups

/-- Reserved slots and granules that the burn-class work of job domains other than `own` does not hold (R178). -/
def State.burnReserve (s : State) (h : Nat) (own : Option Word) : Nat × Nat :=
  let cores := 16 * ((List.range 16).filter (fun c => s.clampExists (16 * h + c))).length
  ((s.burnRoots h).filter (fun w => own != some w)).foldl (fun (acc : Nat × Nat) w =>
    let b := s.budgetNow ⟨w, 0, 0, 0, 0, 0⟩
    let ps := s.burnWork w
    (acc.1 + reserveLeft b.bslots ((ps.map Pend.held).foldl (· + ·) 0) ((ps.map (fun p => p.needs.1)).foldl (· + ·) 0) (13 * cores),
      acc.2 + reserveLeft b.bgran ((ps.map Pend.granules).foldl (· + ·) 0) ((ps.map (fun p => p.needs.2)).foldl (· + ·) 0) (32 * cores))) (0, 0)

/-! ## Cores (R176, R177) -/

/-- General slots of a core that neither hold a thread nor are promised to one. -/
def State.freeSlots (s : State) (core : Nat) : List Nat :=
  ((List.range 13).map (fun k => 16 * core + k + 1)).filter (fun i =>
    decide ((s.slot i).mode = .free) && !s.allPends.any (fun p => p.threads.any (fun t => t.phase == 0 && t.slot == i)))

/-- The entries with a thread, or a promised thread, on a core. -/
def State.entriesOn (s : State) (core : Nat) : List Pend :=
  s.allPends.filter (fun p => p.threads.any (fun t => decide (t.phase < 2) && coreOf t.slot == core))

/-- A resident thread is on the core, or promised to it. -/
def State.residentOn (s : State) (core : Nat) : Bool :=
  ((List.range 13).any (fun k => (s.slot (16 * core + k + 1)).holds && !(s.slot (16 * core + k + 1)).ember)) ||
  (s.entriesOn core).any (fun p => !p.g.embers)

/-- The partition that the core has, or will have once its promised threads are spawned. -/
def State.partOn (s : State) (core : Nat) : Word :=
  match (s.entriesOn core).find? (fun p => !p.g.embers) with
  | some p => p.g.part
  | none => (s.core core).part

/-- The node at the top of a group's path, by which its domain is known (R281, R284). -/
def Pend.domain (g : Pend) : Option Word := g.chain.getLast?.map (·.rcba)

/-- The job domain of the thread in a slot: that of its launch, else of its RCB. -/
def State.slotDomain (s : State) (slot : Nat) : Option Word :=
  match s.groupOf slot with
  | some (_, g) => g.domain
  | none => (s.path (s.slot slot).ctl.rcba).1.getLast?.map (·.rcba)

/-- Threads of the core belong to the group's job domain, those of embers of other packages among them, or it holds none (R281, R284). -/
def State.domainFits (s : State) (core : Nat) (p : Pend) : Bool :=
  (s.entriesOn core).all (fun q => q.domain == p.domain) &&
  (List.range 13).all (fun k => !(s.slot (16 * core + k + 1)).holds || s.slotDomain (16 * core + k + 1) == p.domain)

/-- A resident thread of another group is on the core, one that a stoker spawned by itself among them (R255). -/
def State.strangerOn (s : State) (core : Nat) (p : Pend) : Bool :=
  (s.entriesOn core).any (fun q => !q.g.embers && (q.lseq != p.lseq || q.rcba != p.rcba)) ||
  (List.range 13).any (fun k =>
    let i := 16 * core + k + 1
    (s.slot i).holds && !(s.slot i).ember && (match s.groupOf i with
      | some (_, q) => q.lseq != p.lseq || q.rcba != p.rcba
      | none => true))

/-- The head could use the core once enough of its general slots were free (R176). -/
def State.usableBy (s : State) (core : Nat) (head : Pend) : Bool :=
  head.g.embers || !s.residentOn core || s.partOn core == head.g.part

/-- The core can take one logical core of the group. -/
def State.coreFits (s : State) (core : Nat) (p : Pend) (blockers : List Pend) : Bool :=
  s.clampExists (core / 16) && !(s.clamp (core / 16)).gated && !(s.core core).closed &&
  decide (p.g.perCore ≤ (s.freeSlots core).length) && s.domainFits core p &&
  (p.g.embers || !s.residentOn core || s.partOn core == p.g.part) &&
  (p.threads == [] || !s.strangerOn core p) &&
  !(decide (p.run = 2) && p.firstClamps.contains (core / 16)) && !blockers.any (s.usableBy core)

/-- Cores of hearth h that can take the group, in the launch unit's order (assumption 10). -/
def State.coresFor (s : State) (h : Nat) (p : Pend) (blockers : List Pend) : List Nat :=
  sortBy (Config.placeRank s.fresh) (((List.range 256).map (fun k => 256 * h + k)).filter (fun c => s.coreFits c p blockers))

/-- What a head meets: cores that take it, a want of cores, or only a want of budget or room (R176). -/
inductive Attempt where
  | place (cores : List Nat)
  | noCores
  | noBudget
  deriving DecidableEq, Repr

/-- Burn-class work of a hearth that waits for cores, of job domains other than `own`. -/
def State.burnWaits (s : State) (h : Nat) (own : Option Word) : List Pend :=
  (s.hearth h).pool.filter (fun q => decide (q.g.bclass ≠ 0) && decide (q.state < 3) && q.domain != own)

/-- A group that has cores keeps as many without those that another takes: cores with the slots and the partition it needs. -/
def State.leavesCores (s : State) (h : Nat) (q : Pend) (cores : List Nat) : Bool :=
  let cs := ((List.range 256).map (fun k => 256 * h + k)).filter (fun c => s.coreFits c q [])
  decide (cs.length < q.g.extc) || decide (q.g.extc ≤ (cs.filter (fun c => !cores.contains c)).length)

/-- The placement leaves what burn-class work has reserved (R178): the slots and the pools of cores that hold no resident thread, and the
cores that its accepted groups wait for (log 51). -/
def State.keepsReserve (s : State) (h : Nat) (p : Pend) (cores : List Nat) : Bool :=
  let own := if p.g.bclass = 0 then none else p.domain
  let r := s.burnReserve h own
  let left := ((List.range 256).map (fun k => 256 * h + k)).filter (fun c =>
    !s.clampOff (c / 16) && !(s.core c).closed && !s.residentOn c && (p.g.embers || !cores.contains c))
  let slots := (left.map (fun c => (s.freeSlots c).length - (if cores.contains c then p.g.perCore else 0))).foldl (· + ·) 0
  decide (r.1 ≤ slots) && decide (r.2 ≤ 32 * left.length) && (s.burnWaits h own).all (fun q => s.leavesCores h q cores)

/-- The burn-class work of another job domain, or of its own for an untimed group, has reserved something here. -/
def State.reserved (s : State) (h : Nat) (p : Pend) : Bool :=
  s.burnReserve h (if p.g.bclass = 0 then none else p.domain) != (0, 0)

def State.attempt (s : State) (h : Nat) (p : Pend) (blockers : List Pend) : Attempt :=
  let cs := s.coresFor h p blockers
  if cs.length < p.g.extc then .noCores
  else if !s.budgetsHold p || (p.threads == [] && !s.domainRoom (s.groupDomain h p.g) (p.g.perCore * p.g.extc)) ||
    (s.reserved h p && !s.keepsReserve h p (cs.take p.g.extc)) then .noBudget
  else .place (cs.take p.g.extc)

/-- The first group that can be placed, from the highest queue down, with the heads that block cores on the way. -/
def State.choose (s : State) (h : Nat) : Nat → List Pend → Option (Pend × List Nat)
  | 0, _ => none
  | q + 1, blockers =>
    match s.headOf h q with
    | none => s.choose h q blockers
    | some p =>
      match s.attempt h p blockers with
      | .place cs => some (p, cs)
      | .noBudget => s.choose h q blockers
      | .noCores => s.choose h q (p :: blockers)

/-! ## Placement (R177) -/

/-- The threads of a group on its cores: logical core k takes LIDs kT to (k + 1)T − 1, in the free slots of its core. Threads that
have ended stay ended. -/
def State.placeThreads (s : State) (p : Pend) (cores : List Nat) : List Placed :=
  let t := p.g.perCore
  (List.range p.g.extt).map (fun l =>
    let core := cores.getD (l / t) 0
    let slot := (s.freeSlots core).getD (l % t) 0
    match p.threads.find? (fun x => x.lid == l) with
    | some x => if x.phase = 3 then x else ⟨l, l / t, slot, 0⟩
    | none => ⟨l, l / t, slot, 0⟩)

/-- LID of a thread (R177). -/
def Placed.lidWord (t : Placed) : Word := BitVec.ofNat 64 (t.lid + t.logical * 2 ^ 32)

/-- A group is placed whole: its reservations, STATE and one placement spark to each core's stoker. -/
def State.place (s : State) (h : Nat) (p : Pend) (cores : List Nat) : State :=
  let ts := s.placeThreads p cores
  let s := if p.threads = [] then s.addReserved (s.groupDomain h p.g) true p.g.extt else s
  let s := (s.updPend h p.lseq (fun q => { q with
    state := 3, threads := ts, clamps := (q.clamps ++ cores.map (fun c => c / 16)).eraseDups })).setNodeState h p.rcba p.replay.isSome 3
  let s := { s with fresh := s.fresh + 1 }
  cores.foldl (fun s c =>
    let mine := ts.filter (fun t => t.phase == 0 && coreOf t.slot == c)
    if mine = [] then s else s.sendSpark c (.place p.rcba p.lseq (mine.map (fun t => (t.slot, t.lidWord))))) s

/-- PLACEMENT (R175 to R177): entries turn ready, and the first group that can be placed is placed. -/
def execPlacement (hearth : Nat) (s : State) : Out :=
  .next (let s := s.markReady hearth
    match s.choose hearth 8 [] with
    | some (p, cs) => s.place hearth p cs
    | none => s)

/-- SPARK_DELIVERY (R18): a held spark enters the stoker's queue. -/
def execSparkDelivery (core : Nat) (s : State) : Out :=
  .next (match (s.core core).sparksHeld with
    | [] => s
    | k :: rest =>
      if (s.core core).sparks.length < 32 then
        (s.updCore core (fun c => { c with sparks := c.sparks ++ [k], sparksHeld := rest })).wakeWfi (16 * core)
      else s)

end Sys2Proof.Machine
end

