-- ==== Sys2Proof/Machine/Context.lean ====
section
/-! DEFINITION. Contexts: the end of a thread, the CTXSV record, saving and loading, and the tile spills (12_two_contexts R194 to
R198; 15_kiln R252 to R255; 11_launch R188, R189). -/
namespace Sys2Proof.Machine

/-! ## The end of a thread in its slot -/

/-- Slot time since the last charge is charged to the group and every ancestor (R171). -/
def State.chargeTime (s : State) (slot : Nat) : State :=
  let p := s.slot slot
  let t := s.dtime - p.startAt
  let charge (s : State) (w : Word) : State := s.rcbWrite (hearthOf slot) w 0xD8 8 (s.rcbRead w 0xD8 8 + t)
  let s := match s.groupOf slot with
    | some (h, g) =>
      let s := s.updPend h g.lseq (fun (g : Pend) => { g with usedt := g.usedt + t })
      (g.chain.filter (fun (b : Budget) => !(g.replay.isSome && b.rcba == g.rcba))).foldl (fun (s : State) (b : Budget) => charge s b.rcba) s
    | none => if p.ctl.rcba = 0 ∨ slotNo slot = 14 then s else (s.path p.ctl.rcba).1.foldl (fun (s : State) (n : Node) => charge s n.rcba) s
  s.updSlot slot (fun p => { p with startAt := s.dtime })

/-- The group's entry follows a thread that ends (phase 3) or is saved (phase 2). -/
def State.noteThread (s : State) (slot phase : Nat) (exited reaped : Bool) : State :=
  match s.groupOf slot with
  | none => s
  | some (h, g) =>
    let p := s.slot slot
    let lid := p.ctl.lid.toNat % 2 ^ 32
    s.updPend h g.lseq (fun (g : Pend) => { g with
      threads := g.threads.map (fun (t : Placed) => if t.lid = lid ∧ t.phase < 2 then { t with phase := phase } else t)
      nexit := if exited then g.nexit + 1 else g.nexit
      nreap := if reaped then g.nreap + 1 else g.nreap
      digests := if g.g.checked then Table.put g.digests lid (if phase = 3 then Config.shake256 p.digest 32 else p.digest)
        else g.digests })

/-- The slot's reservation in its domain's ring is released (R111, R180). -/
def State.releaseReservation (s : State) (slot : Nat) : State :=
  match (s.slot slot).reserved with
  | some dom => (s.addReserved dom false 1).updSlot slot (fun p => { p with reserved := none })
  | none => s

/-- The tiles lose an owner that ends (R197). -/
def State.disown (s : State) (slot : Nat) : State :=
  let c := s.core (coreOf slot)
  if decide (1 ≤ slotNo slot ∧ slotNo slot ≤ 13) && bitW c.accown 0 && getField c.accown 17 47 == getField (s.slot slot).ca 17 47 then
    s.updCore (coreOf slot) (fun c => { c with accown := setBit c.accown 0 false })
  else s

/-- The clamps forget the packets of an ember that ends or starts: its move count starts afresh (R26, R186). -/
def State.forgetMoves (s : State) (rcba lid : Word) : State :=
  { s with clamps := s.clamps.map (fun (e : Nat × Clamp) => (e.1, { e.2 with
      accepted := e.2.accepted.filter (fun x => !(x.1 == rcba && x.2.1 == lid)) })) }

/-- The thread ends and its slot is free (R188, R189, R197); its registers keep what it left. -/
def State.endThread (s : State) (slot : Nat) (exited : Bool) : State :=
  let s := (s.chargeTime slot).noteThread slot 3 exited (!exited)
  let s := (((s.releaseReservation slot).dropPutn slot).disown slot).dropFrame slot
  (s.forgetMoves (s.slot slot).ctl.rcba (s.slot slot).ctl.lid).updSlot slot (fun p => p.allStuck.ended)

/-! ## The record (R253) -/

/-- A segment in the layout of R26. -/
def segBytes (g : Seg) : List Byte :=
  bytesOfNat 8 g.base.toNat ++ bytesOfNat 6 g.limit.toNat ++ bytesOfNat 1 g.rights.toNat ++ bytesOfNat 9 0

def bankBytes (b : Bank) : List Byte :=
  bytesOfNat 8 b.x12.toNat ++ bytesOfNat 8 b.x13.toNat ++ bytesOfNat 8 b.x14.toNat ++ bytesOfNat 8 b.x15.toNat

/-- The control registers of the record, in its order. -/
def Ctl.saved (c : Ctl) : List Word :=
  [c.status, c.lid, c.rcba, c.fdom, c.epc, c.ecause, c.eaddr, c.einfo, c.evec, c.estat, c.burnst, c.bstart, c.bmin, c.bmax, c.bhnd,
    c.bepc, c.uivec, c.uixid, c.uipc, c.waitlim, c.kscba, c.kscsa, c.kscbb, c.kscsb, c.rngklo, c.rngkhi, c.fpst, c.fltst]

/-- The control registers from the words of a record. -/
def Ctl.restored (w : List Word) : Ctl :=
  let g (i : Nat) : Word := w.getD i 0
  { status := g 0, lid := g 1, rcba := g 2, fdom := g 3, epc := g 4, ecause := g 5, eaddr := g 6, einfo := g 7, evec := g 8
    estat := g 9, burnst := g 10, bstart := g 11, bmin := g 12, bmax := g 13, bhnd := g 14, bepc := g 15, uivec := g 16
    uixid := g 17, uipc := g 18, waitlim := g 19, kscba := g 20, kscsa := g 21, kscbb := g 22, kscsb := g 23, rngklo := g 24
    rngkhi := g 25, fpst := g 26, fltst := g 27, islsel := 0 }

def wordsBytes (ws : List Word) : List Byte := ws.flatMap (fun w => bytesOfNat 8 w.toNat)

/-- FULL: x registers and both banks. -/
def Slot.fullWord (p : Slot) : Nat := p.xf.toNat + p.sbank.full.toNat * 2 ^ 16 + p.ubank.full.toNat * 2 ^ 20

/-- Bits of the overlays' bad marks. -/
def overlayBad : List Overlay → Nat
  | [] => 0
  | o :: os => (if o.bad then 1 else 0) + 2 * overlayBad os

/-- A queued message in 128 bytes. -/
def Message.saved (m : Message) : List Byte :=
  (bytesOfNat 8 (m.sender * 2 ^ 32 + m.seq % 2 ^ 32) ++ bytesOfNat 8 m.words.length ++
    ((List.range 14).flatMap (fun i => bytesOfNat 8 (if i < 8 then ((m.words[i]?).getD 0).toNat else 0))))

/-- fl of a submitted form (R296). -/
def Submission.fl (b : Submission) : Nat := scopeRank b.scope + (if b.acq then 8 else 0) + (if b.rel then 16 else 0)

/-- Fields that an ember's record carries too, as (offset, bytes). -/
def Slot.commonFields (p : Slot) (hdr savecore part spaddr : Nat) : List (Nat × List Byte) :=
  let tw : Nat × Nat := match p.tagwait with
    | some (ea, info) => (ea.toNat, info.toNat)
    | none => (0, 0)
  let (pr, pv, pok) : Nat × Nat × Nat := match p.putn with
    | some (r, w, _) => (r.toNat, w.toNat, 1)
    | none => (0, 0, 0)
  [(0, bytesOfNat 8 hdr), (8, bytesOfNat 8 savecore), (0x10, bytesOfNat 8 part), (0x18, bytesOfNat 8 spaddr),
   (0x20, bytesOfNat 8 p.pc.toNat), (0x28, bytesOfNat 8 p.fullWord), (0x30, bytesOfNat 8 p.sendCount), (0x38, bytesOfNat 8 p.taskPos),
   (0x40, bytesOfNat 8 p.fstat.toNat), (0x48, bytesOfNat 8 pv), (0x50, bytesOfNat 8 (pr + pok * 2 ^ 8)),
   (0x58, bytesOfNat 8 (if p.tagwait.isSome then 16 else 0)), (0x3E8, bytesOfNat 8 tw.1), (0x3F0, bytesOfNat 8 tw.2),
   (0x60, wordsBytes p.x.toList), (0xE0, bankBytes p.sbank), (0x100, bankBytes p.ubank), (0x120, p.sg.toList.flatMap segBytes),
   (0x1E0, segBytes p.sseg), (0x200, wordsBytes p.ctl.saved), (0x300, wordsBytes p.streams),
   (0x3C8, bytesOfNat 32 (overlayBad p.overlays)), (0xC00, wordsBytes (p.overlays.map (·.value)))]

/-- Fields of a resident thread's record beyond those. -/
def Slot.residentFields (p : Slot) (kfmt : List Word) : List (Nat × List Byte) :=
  let sub : List (Nat × List Byte) := match p.sub with
    | some b => [(0x1C00, bytesOfNat 8 (b.form + b.fl * 2 ^ 8 + b.seq * 2 ^ 16)), (0x1C08, wordsBytes b.ksc),
        (0x1C40, b.sg.flatMap segBytes)]
    | none => []
  [(0x58, bytesOfNat 8 ((if p.sub.isSome then 1 else 0) + (if p.tagwait.isSome then 16 else 0) + p.completions.length * 2 ^ 8)),
   (0x2E0, wordsBytes p.m.toList), (0x320, wordsBytes kfmt), (0x340, wordsBytes ((p.sub.map (·.mb)).getD p.mb)),
   (0x380, wordsBytes (p.completions.map (·.1))), (0x3C0, bytesOfNat 8 (p.xferCount + p.cpyBad * 2 ^ 32 + p.cpyLast * 2 ^ 48)),
   (0x400, p.v.toList.flatMap (fun w => bytesOfNat 64 w.toNat)),
   (0x1400, p.msgs.flatMap Message.saved), (0x1D00, wordsBytes (p.completions.map (·.2)))] ++ sub

/-- Fields as sparse bytes. -/
def sparseOf (fs : List (Nat × List Byte)) : List Host.Cell := fs.foldl (fun m f => putHome m f.1 f.2) []

/-- Cells of home memory outside a range. -/
def outside (m : List Host.Cell) (a n : Nat) : List Host.Cell := m.filter (fun e => !(decide (a ≤ e.1) && decide (e.1 < a + n)))

/-- A slot's unit writes bytes at a global address: at home, or on the slot's stream 0 to another package. -/
def State.slotWrite (s : State) (src : Nat) (w : Word) (bs : List Byte) : State := s.unitWrites (BitVec.ofNat 64 src) src false w bs

/-- Writes `n` bytes at a global address for slot `src`, given by their non-zero cells relative to it. -/
def State.writeSparse (s : State) (src : Nat) (w : Word) (n : Nat) (cells : List Host.Cell) : State :=
  if globalPkg w = s.pkg.number then
    let a := globalLocal w
    if s.populated a then
      { s.dropDirty a n with
        home := cells.foldl (fun m e => Table.set unlisted m (a + e.1) e.2) (outside s.home a n)
        bad := clearBad s.bad a n }
    else s
  else s.slotWrite src w ((List.range n).map (Table.get unlisted cells))

/-! ## Scratchpad of an SPLAST record (R255) -/

/-- Kept granules of a core: below NSG and not discardable. -/
def State.keptGranules (s : State) (core : Nat) : List Nat :=
  (List.range (s.nsg core)).filter (fun g => getField (s.core core).part (32 + g) 1 == 0)
def State.discardable (s : State) (core : Nat) : List Nat :=
  (List.range (s.nsg core)).filter (fun g => getField (s.core core).part (32 + g) 1 == 1)

/-- SPADDR of a thread (R255). -/
def spAddr (savea : Word) (extent logical : Nat) : Word := savea + BitVec.ofNat 64 (131072 * extent + 1048576 * logical)

/-- Tag bits of a granule, eight words a byte. -/
def State.tagBytes (s : State) (a : Nat) : List Byte :=
  (List.range 256).map (fun k => BitVec.ofNat 8 (((List.range 8).map (fun i =>
    if s.homeTag (a + 8 * (8 * k + i)) then 2 ^ i else 0)).foldl (· + ·) 0))

/-- Saves the kept granules and their tags. -/
def State.saveScratch (s : State) (src core : Nat) (sp : Word) : State :=
  (s.keptGranules core).foldl (fun s g =>
    let a := poolAddr core (16384 * g)
    let cells := (s.home.filter (fun e => decide (a ≤ e.1) && decide (e.1 < a + 16384))).map (fun (e : Host.Cell) => ((e.1 - a, e.2) : Host.Cell))
    (s.writeSparse src (sp + BitVec.ofNat 64 (16384 * g)) 16384 cells).slotWrite src
      (sp + BitVec.ofNat 64 (0x80000 + 256 * g)) (s.tagBytes a)) s

/-- A granule is zero with its tags full. -/
def State.clearGranule (s : State) (core g : Nat) : State :=
  let a := poolAddr core (16384 * g)
  { s with
    home := outside s.home a 16384
    bad := clearBad s.bad a 16384
    tags := s.tags.filter (fun e => !(decide (a / 8 ≤ e.1) && decide (e.1 < a / 8 + 2048))) }

/-- Sets a granule's tags from bytes. -/
def State.restoreTags (s : State) (a : Nat) (ws : List Nat) : State :=
  (List.range 2048).foldl (fun s w => if bitOf (ws.getD (w / 64) 0) (w % 64) then s else s.setHomeTag (a + 8 * w) false) s

/-! ## Saving -/

/-- Another resident thread of the slot's group is on the core, and not saved yet. -/
def State.groupOnCore (s : State) (slot : Nat) : Bool :=
  let p := s.slot slot
  (List.range 13).any (fun k =>
    let i := 16 * coreOf slot + k + 1
    let q := s.slot i
    i != slot && q.holds && !q.ember && q.barrier != some .recorded && q.ctl.rcba == p.ctl.rcba && q.lseq == p.lseq)

/-- Effective fields of a slot's group: those read at acceptance, else the RCB's. -/
def State.groupFields (s : State) (slot : Nat) : Rcb :=
  match s.groupOf slot with
  | some (_, g) => g.g
  | none => rcbOf (s.path (s.slot slot).ctl.rcba).1

/-- What a saved thread holds beyond its record stays with its context area (R160, R168, R264). -/
def State.keepMarks (s : State) (ca : Word) (sc : Option Scope) (lost : List Nat) : State :=
  { s with pkg := { s.pkg with marks := Table.set (none, []) s.pkg.marks ca.toNat (sc, lost) } }

/-- The slot takes it back. -/
def State.takeMarks (s : State) (slot : Nat) : State :=
  let m := Table.get (none, []) s.pkg.marks (s.slot slot).ca.toNat
  s.updSlot slot (fun p => { p with fenceRel := m.1, lost := m.2 })

/-- Writes the slot's record: KEEP, and SPLAST with the scratchpad (R253, R255). -/
def State.writeContext (s : State) (slot : Nat) (keep : Bool) : State :=
  let p := (s.slot slot).allStuck
  let core := coreOf slot
  let g := s.groupFields slot
  let last := !p.ember && !s.groupOnCore slot
  let sp := spAddr g.savea g.extt (getField p.ctl.lid 32 16)
  let hdr := 1 + (if keep then 2 ^ 8 else 0) + (if p.ember then 2 ^ 9 else 0) + (if last then 2 ^ 10 else 0)
  let savecore := (s.slotid (16 * core)).toNat
  let fs := p.commonFields hdr savecore (s.core core).part.toNat sp.toNat ++
    (if p.ember then [] else p.residentFields (s.core core).kfmt)
  let s := (s.writeSparse slot (p.ca + 0x10000) 0x10000 (sparseOf fs)).keepMarks p.ca p.fenceRel p.lost
  if last && !keep then s.saveScratch slot core sp else s

/-- The tiles of a core are written to an area for slot `src` (R198). -/
def State.spillTiles (s : State) (src core : Nat) (area : Word) : State :=
  let c := s.core core
  (List.range (getField c.part 2 5)).foldl (fun s t => s.writeSparse src (area + BitVec.ofNat 64 (4096 * t)) 4096
    (putHome [] 0 ((c.tile t).flatMap (fun w => bytesOfNat 4 w.toNat)))) s

/-- No kiln request of the core is outstanding: every one names a tile. -/
def Core.kilnIdle (c : Core) : Bool := c.kTimed.isNone && c.kUntimed.isNone && c.kRun.isEmpty

/-- A tile spill of the core to another package is not yet performed there: spills and fills go one at a time (R198). -/
def State.spillPending (s : State) (core : Nat) : Bool := (s.core core).spilling.any s.sending

/-- ACCSPILL's effect: the tiles to ACCSAVE, and no owner. -/
def State.spill (s : State) (src core : Nat) : State :=
  if bitW (s.core core).accown 0 then
    (s.spillTiles src core (s.core core).accsave).updCore core (fun c => { c with
      accown := setBit c.accown 0 false
      spilling := if globalPkg c.accsave = s.pkg.number then c.spilling else some src })
  else s

/-- The slot's own spill is performed. -/
def State.spillDone (s : State) (slot : Nat) : State :=
  s.updCore (coreOf slot) (fun c => { c with spilling := c.spilling.filter (fun k => k != slot) })

/-- Everything a save waits for is done (R166, R252, R306). -/
def State.quiet (s : State) (slot : Nat) : Bool :=
  let p := s.slot slot
  p.fills.isEmpty && s.written slot && !s.sending slot && p.deferred.isEmpty && p.trapWait.isNone && !p.traph && !p.burning &&
  ((s.core (coreOf slot)).frameOf slot).isNone && ((s.core (coreOf slot)).kilnOf slot).isEmpty &&
  (match p.remoteTag with
    | some t => t.poll
    | none => true) &&
  !(s.core (coreOf slot)).commands.any (fun k => k.slot == slotNo slot && !k.orphan) &&
  (match p.barrier with
    | none => true
    | some (.fences _ _) | some (.probed _) | some .exit | some .ending | some (.cpyx _) => true
    | some _ => false)

/-- The tiles are the slot's: ACCOWN names its context area (R197, R198). -/
def State.ownsTiles (s : State) (slot : Nat) : Bool :=
  let c := s.core (coreOf slot)
  bitW c.accown 0 && getField c.accown 17 47 == getField (s.slot slot).ca 17 47

/-- A leaving slot is quiet; one whose tiles are to be spilled waits, as ACCSPILL does, for the kiln. -/
def State.saveReady (s : State) (slot : Nat) (keep : Bool) : Bool :=
  s.quiet slot && (keep || !s.ownsTiles slot || ((s.core (coreOf slot)).kilnIdle && !s.spillPending (coreOf slot)))

/-- The thread's record, and its tiles when a thread that owns them is saved without keep, are written (R166, R198, R253). Its mailbox goes
with the record (R306). -/
def State.recordThread (s : State) (slot : Nat) (keep : Bool) : State :=
  let s := s.releaseHome slot
  let s := if !keep && s.ownsTiles slot then s.spill slot (coreOf slot) else s
  (s.writeContext slot keep).updSlot slot (fun p => { p with sub := none })

/-- The saved thread's slot is free (R254); a REPF that was parked gives up its place (R86). -/
def State.finishSave (s : State) (slot : Nat) : State :=
  ((((s.spillDone slot).chargeTime slot).noteThread slot 2 false false).dropFrame slot).updSlot slot Slot.ended

/-- The thread's state goes to its context area; the slot is free once what went to another package is acknowledged (R166). -/
def State.saveContext (s : State) (slot : Nat) (keep : Bool) : State × Bool :=
  let s := s.recordThread slot keep
  if s.sending slot then ((s.closeAll slot).updSlot slot (fun p => { p with barrier := some .recorded }), false)
  else (s.finishSave slot, true)

/-- A slot that is to be saved: it leaves the rotation, returns to it for a trap that is due, and is saved once quiet. -/
def State.trySave (s : State) (slot : Nat) (keep : Bool) : State × Bool :=
  let p := s.slot slot
  if p.mode = .free then (s, true)
  else if p.mode = .leaving ∧ p.barrier = some .recorded then
    if s.sending slot then (s.closeAll slot, false) else (s.finishSave slot, true)
  else if p.mode = .leaving ∧ s.saveReady slot keep then s.saveContext slot keep
  else if p.mode = .stopped ∨ p.mode = .halted then (s, true)
  else if p.mode = .leaving ∧ (p.deferred ≠ [] ∨ p.trapWait.isSome) then (s.updSlot slot (fun p => { p with mode := .running }), false)
  else if p.mode = .running ∧ !p.burning ∧ !p.traph ∧ p.deferred = [] ∧ p.trapWait.isNone then
    (s.updSlot slot (fun p => { p with mode := .leaving }), false)
  else (if p.mode = .leaving then s.closeAll slot else s, false)

/-- CTXSV (R198, R252): the stoker's next instruction waits until the thread is saved.
DESIGN CHOICE (log 93): a halted or stopped slot that is also in a trap or a burn takes ILL at once; CTXSV waits for none of them. -/
def execCtxsv (keep : Bool) (sl : BitVec 4) (s : State) : Out :=
  .next (gate (.ctxsv keep sl) s (fun s =>
    let k := 16 * coreOf s.cur + sl.toNat
    let q := s.slot k
    if s.me.burning then s.ill (.ctxsv keep sl)
    else if slotNo s.cur ≠ 0 then s.privFault (.ctxsv keep sl)
    else if q.mode = .free then s.advance
    else if q.mode = .stopped ∨ q.mode = .halted then s.ill (.ctxsv keep sl)
    else if q.mode = .leaving ∨ q.burning ∨ q.traph then s
    else (s.advance.upd (fun p => { p with barrier := some (.ctxsv k keep) })).updSlot k (fun p =>
      if p.deferred = [] then { p with mode := .leaving } else p)))

/-! ## Tile spills (R198) -/

/-- The next instruction waits until the bytes written to another package are performed. -/
def State.awaitSent (s : State) : State :=
  if s.sending s.cur then s.upd (fun p => { p with barrier := some .sentAll }) else s

/-- The wait of ACCSPILL and ACCFILL for another package (R198). -/
def State.settleSent (s : State) : State :=
  if s.sending s.cur then s.closeAll s.cur else (s.spillDone s.cur).upd (fun p => { p with barrier := none })

/-- ACCSPILL. -/
def execAccspill (s : State) : Out :=
  .next (gate .accspill s (fun s =>
    if s.me.burning then s.ill .accspill
    else if !s.me.priv then s.privFault .accspill
    else if !bitW s.myCore.accown 0 then s.advance
    else if !s.myCore.kilnIdle || s.spillPending (coreOf s.cur) then s
    else (s.spill s.cur (coreOf s.cur)).advance.awaitSent))

/-- Loads tiles 0 to NT − 1 from an area as the slot reads it; none while a read is outstanding. -/
def State.fillTiles (s : State) (slot : Nat) (area : Word) : List Nat → State × Read Unit
  | [] => (s, .ok ())
  | t :: ts =>
    match s.readWords slot (area + BitVec.ofNat 64 (4096 * t)) 512, s.fillTiles slot area ts with
    | (s, .bad a), _ => (s, .bad a)
    | (s, .wait), _ => (s, .wait)
    | (_, .ok ws), (s, .ok _) =>
      (s.updCore (coreOf slot) (fun c => c.setTile t (ws.flatMap (fun w => [BitVec.ofNat 32 w, BitVec.ofNat 32 (w / 2 ^ 32)]))), .ok ())
    | _, r => r

/-- The fault of a read by address: ECCUNC with the address (R107). -/
def State.readFault (s : State) (a : Word) : State := s.raise Cause.eccunc a (BitVec.ofNat 64 (sizeCode 8 * 2 ^ 21 + 2 ^ 24))

/-- ACCFILL: the spill that it begins with is performed before it reads. -/
def execAccfill (s : State) : Out :=
  .next (gate .accfill s (fun s =>
    if s.me.burning then s.ill .accfill
    else if !s.me.priv then s.privFault .accfill
    else if !s.myCore.kilnIdle then s
    else if s.spillPending (coreOf s.cur) then s.closeAll s.cur
    else
      let core := coreOf s.cur
      let s := s.spill s.cur core
      if s.spillPending core then s.closeAll s.cur
      else match s.fillTiles s.cur s.me.ca (List.range (getField s.myCore.part 2 5)) with
      | (s, .wait) => s
      | (s, .bad a) => s.readFault a
      | (s, .ok _) =>
        let area := BitVec.ofNat 64 (getField s.me.ca 17 47 * 2 ^ 17)
        ((s.updCore core (fun c => { c with accown := area ||| 1#64, accsave := s.me.ca })).upd Slot.forgetReads).advance))

/-! ## Loading (R198, R252 to R255) -/

/-- A segment from three words of a record. -/
def segOfWords (ws : List Nat) (i : Nat) : Seg :=
  ⟨BitVec.ofNat 64 (ws.getD i 0), BitVec.ofNat 48 (ws.getD (i + 1) 0), BitVec.ofNat 8 (fld (ws.getD (i + 1) 0) 48 8)⟩

def bankOfWords (ws : List Nat) (i full : Nat) : Bank :=
  ⟨BitVec.ofNat 64 (ws.getD i 0), BitVec.ofNat 64 (ws.getD (i + 1) 0), BitVec.ofNat 64 (ws.getD (i + 2) 0),
   BitVec.ofNat 64 (ws.getD (i + 3) 0), BitVec.ofNat 4 full, []⟩

def recWord (ws : List Nat) (o : Nat) : Word := BitVec.ofNat 64 (ws.getD (o / 8) 0)
def recWords (ws : List Nat) (o n : Nat) : List Word := (List.range n).map (fun i => recWord ws (o + 8 * i))

/-- Vector register n of a record. -/
def recVector (ws : List Nat) (n : Nat) : VWord :=
  BitVec.ofNat 512 (((List.range 8).map (fun i => ws.getD (0x400 / 8 + 8 * n + i) 0 * 2 ^ (64 * i))).foldl (· + ·) 0)

/-- A queued message of a record. -/
def recMessage (ws : List Nat) (i : Nat) : Option Message :=
  let o := 0x1400 + 128 * i
  let n := fieldOf ws (o + 8) 8
  if n = 0 then none
  else some ⟨fieldOf ws (o + 4) 4, fieldOf ws o 4, recWords ws (o + 16) n⟩

/-- The submitted mailbox of a record. -/
def recSubmission (ws : List Nat) : Option Submission :=
  if fieldOf ws 0x58 1 % 2 = 0 then none
  else
    let fl := fieldOf ws 0x1C01 1
    some ⟨fieldOf ws 0x1C00 1 % 4, bitOf fl 3, bitOf fl 4,
      (match fl % 8 with
        | 0 => .core
        | 1 => .clamp
        | 2 => .hearth
        | 3 => .pkg
        | _ => .sys),
      fieldOf ws 0x1C02 4, recWords ws 0x340 8, (List.range 8).map (fun i => segOfWords ws (0x1C40 / 8 + 3 * i)), recWords ws 0x1C08 4, bitW (recWord ws 0x200) 0, 0⟩

/-- The slot a record restores, with the patch entries of its image; a waiting PUTN value's sender is not recorded. -/
def slotOfRecord (ws : List Nat) (ca : Word) (patches : List Nat) (me : Nat) : Slot :=
  let full := fieldOf ws 0x28 4
  let bad := fieldOf ws 0x3C8 8 + fieldOf ws 0x3D0 8 * 2 ^ 64 + fieldOf ws 0x3D8 8 * 2 ^ 128 + fieldOf ws 0x3E0 8 * 2 ^ 192
  let put := fieldOf ws 0x50 8
  { Slot.free with
    mode := .running
    x := Vector.ofFn (fun (i : Fin 16) => recWord ws (0x60 + 8 * i.val))
    xf := BitVec.ofNat 16 full
    v := Vector.ofFn (fun (i : Fin 32) => recVector ws i.val)
    m := Vector.ofFn (fun (i : Fin 4) => recWord ws (0x2E0 + 8 * i.val))
    pc := recWord ws 0x20
    sg := Vector.ofFn (fun (i : Fin 8) => segOfWords ws (0x120 / 8 + 3 * i.val))
    ctl := Ctl.restored (recWords ws 0x200 28)
    sbank := bankOfWords ws (0xE0 / 8) (full / 2 ^ 16)
    sseg := segOfWords ws (0x1E0 / 8)
    ubank := bankOfWords ws (0x100 / 8) (full / 2 ^ 20)
    sendCount := fieldOf ws 0x30 4
    taskPos := fieldOf ws 0x38 8
    fstat := recWord ws 0x40
    putn := if bitOf put 8 then some (BitVec.ofNat 4 put, recWord ws 0x48, me) else none
    streams := recWords ws 0x300 4
    ca := ca
    overlays := (List.range patches.length).map (fun n =>
      let o := patchEntry (patches.getD n 0)
      { o with value := recWord ws (0xC00 + 8 * n), bad := bitOf bad n })
    mb := recWords ws 0x340 8
    sub := recSubmission ws
    xferCount := fieldOf ws 0x3C0 4
    cpyBad := fieldOf ws 0x3C4 2
    cpyLast := fieldOf ws 0x3C6 2
    completions := (List.range (fieldOf ws 0x59 1 % 16)).map (fun i => (recWord ws (0x380 + 8 * i), recWord ws (0x1D00 + 8 * i)))
    tagwait := if bitOf (fieldOf ws 0x58 1) 4 then some (recWord ws 0x3E8, BitVec.ofNat 32 (fieldOf ws 0x3F0 4)) else none
    msgs := (List.range 16).filterMap (recMessage ws) }

/-- A format-context word that CTXLD refuses (R252). -/
def kfmtBad (w : Word) : Bool := decide (w.toNat / 2 ^ 8 ≠ 0) || (kformats w).isNone

/-- A record that CTXLD refuses on this core (R198, R252). -/
def State.recordRefused (s : State) (core : Nat) (ws : List Nat) : Bool :=
  decide (fieldOf ws 0 1 ≠ 1) || (bitOf (fieldOf ws 1 1) 0 && recWord ws 8 != s.slotid (16 * core)) ||
  recWord ws 0x10 != (s.core core).part || (recWords ws 0x320 4).any kfmtBad

/-- The pool entry and thread a loaded slot belongs to: a thread promised to the slot, or one that was saved. -/
def State.saved (s : State) (slot : Nat) (rcba : Word) (lid : Nat) : Option (Nat × Pend) :=
  let find (f : Placed → Bool) : Option (Nat × Pend) := (List.range 8).findSome? (fun h => ((s.hearth h).pool.find? (fun g =>
    decide (g.rcba = rcba) && g.threads.any (fun t => decide (t.lid = lid) && f t))).map (fun g => (h, g)))
  match find (fun t => t.phase == 0 && t.slot == slot) with
  | some x => some x
  | none => find (fun t => t.phase == 2)

/-- The loaded thread takes its place in its group again. -/
def State.joinGroup (s : State) (slot : Nat) : State :=
  let p := s.slot slot
  let lid := p.ctl.lid.toNat % 2 ^ 32
  match s.saved slot p.ctl.rcba lid with
  | some (h, g) =>
    (s.updPend h g.lseq (fun q => { q with threads := q.threads.map (fun (t : Placed) =>
      if t.lid = lid then { t with slot := slot, phase := 1 } else t) })).updSlot slot (fun p => { p with
        digest := Table.get [] g.digests lid
        launcher := .hearth h
        lseq := g.lseq, extent := g.g.extt, ntask := g.g.ntask, startAt := s.dtime, reserved := ringOf (s.groupDomain h g.g) })
  | none =>
    let g := rcbOf (s.path p.ctl.rcba).1
    s.updSlot slot (fun p => { p with extent := g.extt, ntask := g.ntask, startAt := s.dtime
                                      launcher := if p.ember then .away else .stoker
                                      reserved := ringOf (s.groupDomain (hearthOf slot) g) })

/-- The scratchpad side of loading an SPLAST record (R255): none while a read is outstanding. -/
def State.loadScratch (s : State) (slot core : Nat) (keep : Bool) (sp : Word) : State × Read Unit :=
  let s := (s.discardable core).foldl (fun s g => s.clearGranule core g) s
  if keep then (s, .ok ())
  else (s.keptGranules core).foldl (fun (acc : State × Read Unit) g =>
    let (s, r) := acc
    match s.readWords slot (sp + BitVec.ofNat 64 (16384 * g)) 2048 with
    | (s, .ok ws) =>
      match s.readWords slot (sp + BitVec.ofNat 64 (0x80000 + 256 * g)) 32 with
      | (s, .ok ts) =>
        let s := s.clearGranule core g
        let a := poolAddr core (16384 * g)
        ((s.writeHome a (ws.flatMap (fun w => bytesOfNat 8 w))).restoreTags a ts, r)
      | (s, .wait) => (s, .wait)
      | (s, .bad a) => (s, .bad a)
    | (s, .wait) => (s, .wait)
    | (s, .bad a) => (s, .bad a)) (s, .ok ())

/-- A submitted mailbox that comes with a record names the page table of the core that loads it (R297, R306; log 90). -/
def Slot.rooted (p : Slot) (root : Word) : Slot := { p with sub := p.sub.map (fun (b : Submission) => { b with root := root }) }

/-- Loads the record at a context area into a slot. -/
def State.loadContext (s : State) (slot : Nat) (ca : Word) (ws : List Nat) (patches : List Nat) : State :=
  let s := s.setSlot slot ((slotOfRecord ws ca patches slot).rooted (s.core (coreOf slot)).ptroot)
  ((s.updCore (coreOf slot) (fun c => { c with kfmt := recWords ws 0x320 4 })).joinGroup slot).takeMarks slot

/-- Words of a record that hold fields. -/
def recordWords : Nat := 0x1D40 / 8

/-- CTXLD (R198, R252). -/
def execCtxld (a : Reg) (sl : BitVec 4) (s : State) : Out :=
  .next (gate (.ctxld a sl) s (fun s =>
    let core := coreOf s.cur
    let k := 16 * core + sl.toNat
    let ca := s.me.getX a
    if s.me.burning then s.ill (.ctxld a sl)
    else if slotNo s.cur ≠ 0 then s.privFault (.ctxld a sl)
    else if ca.toNat % 131072 ≠ 0 then s.raise Cause.align ca (BitVec.ofNat 64 (sizeCode 8 * 2 ^ 21 + 2 ^ 24))
    else if (s.slot k).holds then s.ill (.ctxld a sl)
    else match s.readWords s.cur (ca + 0x10000) recordWords with
      | (s, .wait) => s
      | (s, .bad x) => s.readFault x
      | (s, .ok ws) =>
        if s.recordRefused core ws then (s.upd Slot.forgetReads).ill (.ctxld a sl)
        else
          let rcba := recWord ws 0x210
          let g := match s.saved k rcba (fieldOf ws 0x208 4) with
            | some (_, g) => g.g
            | none => rcbOf (s.path rcba).1
          match s.readImage s.cur g.kaddr with
          | (s, .wait) => s
          | (s, .bad x) => s.readFault x
          | (s, .ok image) =>
            let flags := fieldOf ws 1 1
            match (if bitOf flags 2 then s.loadScratch s.cur core (bitOf flags 0) (recWord ws 0x18) else (s, .ok ())) with
            | (s, .wait) => s
            | (s, .bad x) => s.readFault x
            | (s, .ok _) => (((s.loadContext k ca ws image.patches).upd Slot.forgetReads).advance)))

end Sys2Proof.Machine
end

