-- ==== Sys2Proof/Machine/Threads.lean ====
section
/-! DEFINITION. The THREAD instructions (11_launch R184 to R192), pre-emption, completion, checked groups and failed domains
(11_launch R179, R181; 23_host R356, R357). -/
namespace Sys2Proof.Machine

/-! ## PART (R34) -/

/-- Words of a core's pool, as word numbers, read full. -/
def State.poolTagsFull (s : State) (core : Nat) : State :=
  let w := poolAddr core 0 / 8
  { s with tags := s.tags.filter (fun e => !(decide (w ≤ e.1) && decide (e.1 < w + 65536))) }

/-- The words of a tile in its 4 KiB of the pool, row after row (R33; log 81). -/
def tileBytes (ws : List (BitVec 32)) : List Byte := ws.flatMap (fun w => bytesOfNat 4 w.toNat)

/-- First byte of tile i in its core's pool (R33). -/
def State.tileBase (s : State) (core i : Nat) : Nat := poolAddr core (16384 * s.nsg core + 4096 * i)

/-- Home bytes from `a` on, none listed. -/
def State.blankHome (s : State) (a n : Nat) : State :=
  { s with home := s.home.filter (fun e => !(decide (a ≤ e.1) && decide (e.1 < a + n))) }

def State.listedHome (s : State) (a n : Nat) : Bool := s.home.any (fun e => decide (a ≤ e.1) && decide (e.1 < a + n))

/-- Puts what a unit of the pool holds into its bytes; an error of a block stays (R355). -/
def State.putPool (s : State) (a : Nat) (bs : List Byte) : State :=
  let s := s.blankHome a bs.length
  if bs.all (· == 0) then s else { s with home := putHome s.home a bs }

/-- The pool bytes that the tiles and the vector registers of a core occupy take their values (R30, R33). -/
def State.spillPool (s : State) (core : Nat) : State :=
  let s := (List.range (s.tcount core)).foldl (fun s i => s.putPool (s.tileBase core i) (tileBytes ((s.core core).tile i))) s
  (List.range 13).foldl (fun s k =>
    (List.range (s.vcount (16 * core + k + 1))).foldl (fun s r =>
      s.putPool (64 * s.vregBlock (16 * core + k + 1) (BitVec.ofNat 5 r))
        (bytesOfNat 64 ((s.slot (16 * core + k + 1)).getV (BitVec.ofNat 5 r)).toNat)) s) s

/-- The vector registers of a slot take the bytes of the pool that they now occupy. -/
def State.fillVectors (s : State) (slot : Nat) : State :=
  (List.range (s.vcount slot)).foldl (fun s r =>
    let a := 64 * s.vregBlock slot (BitVec.ofNat 5 r)
    if s.listedHome a 64 ∨ (s.slot slot).getV (BitVec.ofNat 5 r) ≠ 0 then
      s.updSlot slot (fun p => p.setV (BitVec.ofNat 5 r) (BitVec.ofNat 512 (s.homeNat a 64)))
    else s) s

/-- The tiles and the vector registers of a core take the bytes of the pool that they now occupy. -/
def State.fillPool (s : State) (core : Nat) : State :=
  let tiles := (List.range (s.tcount core)).foldl (fun (t : Table (List (BitVec 32))) i =>
    let a := s.tileBase core i
    if s.listedHome a 4096 then Table.put t i ((List.range 1024).map (fun k => BitVec.ofNat 32 (s.homeNat (a + 4 * k) 4))) else t) []
  let s := s.updCore core (fun c => { c with tiles := tiles })
  (List.range 13).foldl (fun s k => s.fillVectors (16 * core + k + 1)) s

/-- RW bits of PART (R32). -/
def partMask : Word := 0xFFFFFFFF00001FFF

/-- A write of PART: the pool keeps its bytes under the new partition, the format contexts return to 0 and every pool tag reads full
(R32 to R34, R36, R241).
DESIGN CHOICE (log 93): a word that breaks a rule of R33 is stored as written; R33 refuses it only where a group is placed. -/
def State.setPart (s : State) (core : Nat) (v : Word) : State :=
  (((s.spillPool core).updCore core (fun c => { c with part := v &&& partMask, kfmt := [0, 0, 0, 0] })).fillPool core).poolTagsFull core

/-- A resident thread is in a general slot of the core. -/
def State.residentThread (s : State) (core : Nat) : Bool :=
  (List.range 13).any (fun k => (s.slot (16 * core + k + 1)).holds && !(s.slot (16 * core + k + 1)).ember)

/-- PART_WRITE (R34): takes effect only with no resident thread. -/
def execPartWrite (core : Nat) (v : Word) (s : State) : Out :=
  .next (if s.residentThread core then s else s.setPart core v)

/-! ## SPAWN (R186) -/

/-- The pool entry that promised the slot to a thread. -/
def State.promised (s : State) (slot : Nat) (rcba : Word) (lid : Nat) : Option (Nat × Pend) :=
  (List.range 8).findSome? (fun h => ((s.hearth h).pool.find? (fun g =>
    decide (g.rcba = rcba) && g.threads.any (fun t => t.lid == lid && t.phase == 0 && t.slot == slot))).map (fun g => (h, g)))

/-- First segment address of a core's pool window (R31, R278). -/
def windowBase (core : Nat) : Word := BitVec.ofNat 64 ((2 ^ 27 - 1) * 2 ^ 30 + core * 2 ^ 19)

/-- sg7 of a resident thread: R W T A over the scratchpad, with K when the core has tiles (R31). -/
def poolSeg (core : Nat) (part : Word) (ember : Bool) : Seg :=
  if ember ∨ getField part 7 6 = 0 then Seg.empty
  else ⟨windowBase core, BitVec.ofNat 48 (16384 * getField part 7 6 - 1), if getField part 2 5 = 0 then 0x1B else 0x5B⟩

/-- F for an address in another package. -/
def State.leaves (s : State) (w : Word) (rights : BitVec 8) : BitVec 8 :=
  if globalPkg w = s.pkg.number then rights else rights ||| 0x20

/-- sg0: the image's code and data (R186). -/
def State.codeSeg (s : State) (g : Rcb) (k : Image) : Seg :=
  ⟨g.kaddr + BitVec.ofNat 64 k.codeoff, BitVec.ofNat 48 (k.dataoff - k.codeoff + k.datasz - 1), s.leaves g.kaddr 0x85⟩

/-- sg6: the parameter block. -/
def State.paramSeg (s : State) (g : Rcb) (base : Word) : Seg :=
  if g.psize = 0 then Seg.empty else ⟨base, BitVec.ofNat 48 (g.psize - 1), s.leaves base 0x81⟩

/-- sg1 to sg5 from the segment table: base and limit come from the parameter (R57).
DESIGN CHOICE (log 93): where two entries name the same segment, the later one holds. -/
def State.readSegs (s : State) (slot : Nat) (params : Word) : List Nat → Vector Seg 8 → State × Read (Vector Seg 8)
  | [], sg => (s, .ok sg)
  | w :: ws, sg =>
    match s.readWords slot (params + BitVec.ofNat 64 (fld w 16 16)) 2 with
    | (s, .ok ps) =>
      let g : Seg := ⟨BitVec.ofNat 64 (ps.getD 0 0), BitVec.ofNat 48 (ps.getD 1 0), BitVec.ofNat 8 (fld w 8 8)⟩
      s.readSegs slot params ws (sg.set (fld w 0 8 % 8) g (Nat.mod_lt _ (by decide)))
    | (s, .wait) => (s, .wait)
    | (s, .bad a) => (s, .bad a)

/-- STATUS of a new thread. -/
def Rcb.status (g : Rcb) (ember : Bool) : Word :=
  BitVec.ofNat 64 ((if g.super then 1 else 0) + (if g.det then 2 else 0) + (if ember then 8 else 0) + (if g.bclass = 2 then 64 else 0))

/-- A new thread in its slot: everything SPAWN does not set is at its reset value. -/
def newThread (g : Rcb) (k : Image) (rcba lid : Word) (ember : Bool) (sg : Vector Seg 8) (lseq dtime : Nat) (dom : Option Word)
    (by_ : Launcher) : Slot :=
  { Slot.free with
    mode := .running
    sg := sg
    ctl := { Ctl.zero with status := g.status ember, lid := lid, rcba := rcba, fdom := g.fdom, evec := g.tevec }
    sseg := ⟨g.tsegb, g.tsegl.setWidth 48, (g.tsegl >>> 48).setWidth 8⟩
    barrier := some .overlays
    ca := g.savea + BitVec.ofNat 64 (131072 * (lid.toNat % 2 ^ 32))
    extent := g.extt
    ntask := g.ntask
    overlays := k.patches.map patchEntry
    reserved := dom
    lseq := lseq
    launcher := by_
    startAt := dtime }

/-- A SPAWN that serves a placement fails: the thread counts as reaped, and the group's record will carry the first such status
(R186). -/
def State.spawnFailed (s : State) (lid status : Nat) (e : Option (Nat × Pend)) : State :=
  match e with
  | none => s
  | some (h, g) =>
    (s.updPend h g.lseq (fun q => { q with
      threads := q.threads.map (fun (t : Placed) => if t.lid = lid then { t with phase := 3 } else t)
      nreap := q.nreap + 1
      fail := if q.fail.isSome then q.fail else some status })).addReserved (s.groupDomain h g.g) false 1

/-- The status of a SPAWN once everything has been read, in the order of R186. -/
def State.spawnStatus (s : State) (k : Nat) (g : Rcb) (image : Image) (ember : Bool) : Nat :=
  if (s.slot k).holds then 0x04
  else if image.bad g then 0x01
  else if !partValid g.part then 0x02
  else if ember && !g.embers then 0x06
  else if !ember && (s.core (coreOf k)).part != g.part && s.residentThread (coreOf k) then 0x05
  else 0

/-- The new thread's patch overlays are read at its SPAWN (R58, R186); its first fetch waits for those that another package holds. -/
def State.firstOverlays (s : State) (k : Nat) : State :=
  match s.readOverlays k (s.slot k).overlays with
  | (s, .ok os) => s.updSlot k (fun p => { p with overlays := os, barrier := none, remoteFetch := [] })
  | (s, _) => s

/-- The thread starts in slot k. -/
def State.startThread (s : State) (k : Nat) (g : Rcb) (image : Image) (rcba lid : Word) (ember : Bool) (segs : Vector Seg 8)
    (params : Word) (l : Nat) (e : Option (Nat × Pend)) : State :=
  let core := coreOf k
  let s := if ember || (s.core core).part == g.part then s else s.setPart core g.part
  let sg := ((segs.set 0 (s.codeSeg g image)).set 6 (s.paramSeg g params)).set 7 (poolSeg core (s.core core).part ember)
  let dom := ringOf (s.groupDomain (match e with
    | some (h, _) => h
    | none => hearthOf k) g)
  let by_ : Launcher := match e with
    | some (h, _) => .hearth h
    | none => .stoker
  let s := ((s.forgetMoves rcba lid).setSlot k (newThread g image rcba lid ember sg l s.dtime dom by_)).firstOverlays k
  match e with
  | some (h, q) => s.updPend h q.lseq (fun q => { q with
      threads := q.threads.map (fun (t : Placed) => if t.lid = lid.toNat % 2 ^ 32 then { t with phase := 1 } else t)
      tplace := if q.tplace.isSome then q.tplace else some s.dtime })
  | none => match dom with
    | some d => s.addReserved d true 1
    | none => s

/-- SPAWN with the group's fields at hand: the image and the segment parameters are read, then the thread starts or a status is
written. -/
def State.spawnWith (s : State) (d : Reg) (k : Nat) (rcba lid : Word) (ember : Bool) (g : Rcb) (l : Nat)
    (e : Option (Nat × Pend)) : State :=
  let params := match e with
    | some (_, q) => if q.replay.isSome then q.copy else g.paddr
    | none => g.paddr
  let done (s : State) (status : Nat) : State := ((s.upd Slot.forgetReads).writeX d (BitVec.ofNat 64 status) 2).advance
  if (s.slot k).holds then done (s.spawnFailed (lid.toNat % 2 ^ 32) 0x04 e) 0x04
  else match s.readImage s.cur g.kaddr with
    | (s, .wait) => s
    | (s, .bad a) => s.readFault a
    | (s, .ok image) =>
      let status := s.spawnStatus k g image ember
      if status ≠ 0 then done (s.spawnFailed (lid.toNat % 2 ^ 32) status e) status
      else if e.isNone && !s.domainRoom (s.groupDomain (hearthOf k) g) 1 then s
      else match s.readSegs s.cur params image.segs (Vector.replicate 8 Seg.empty) with
        | (s, .wait) => s
        | (s, .bad a) => s.readFault a
        | (s, .ok segs) => done (s.startThread k g image rcba lid ember segs params l e) 0

/-- The slot is being reaped. -/
def Slot.reaping (p : Slot) : Bool := p.barrier == some .reap

/-- SPAWN (R185, R186): a release at `.core`. -/
def execSpawn (d a b : Reg) (ember : Bool) (sl : BitVec 4) (s : State) : Out :=
  .next (gate (.spawn d a b ember sl) s (fun s =>
    let k := 16 * coreOf s.cur + sl.toNat
    let rcba := s.me.getX a
    let lid := s.me.getX b
    if slotNo s.cur ≠ 0 then s.privFault (.spawn d a b ember sl)
    else if (s.slot k).reaping || !s.me.sb.isEmpty || !s.settled s.cur then s
    else match s.promised k rcba (lid.toNat % 2 ^ 32) with
      | some (h, g) => s.spawnWith d k rcba lid ember g.g g.lseq (some (h, g))
      | none => match s.readPath s.cur 8 rcba with
        | (s, .wait) => s
        | (s, .bad x) => s.readFault x
        | (s, .ok (path, bottom)) =>
          if bottom then s.spawnWith d k rcba lid ember (rcbOf path) (pathLseq path) none
          else ((s.upd Slot.forgetReads).writeX d 0x03 2).advance))

/-! ## REAP (R189) -/

/-- The state REAP reports: 0 free, 1 ready or running, 2 parked, 3 stopped, 4 halted. -/
def State.reapState (s : State) (slot : Nat) : Nat :=
  match (s.slot slot).mode with
  | .free => 0
  | .stopped => 3
  | .halted => 4
  | .running | .leaving => if s.isParked slot then 2 else 1

/-- Held entries, pending user interrupts, queued messages and deferred traps are discarded; the slot leaves the rotation. -/
def Slot.reaped (p : Slot) : Slot :=
  let q := p.discardHeld
  { q with
    mode := .leaving
    barrier := some .reap
    park := none
    remoteTag := none
    fills := []
    msgs := []
    completions := []
    tagwait := none
    deferred := []
    trapWait := none
    ctl := { q.ctl with estat := q.ctl.estat &&& ~~~0x8000000000000000#64 } }

/-- A reap begins: the frame goes with the thread; a stopped handler's own reservation is renewed (R112). -/
def State.startReap (s : State) (slot : Nat) : State :=
  let s := if slotNo slot = 14 ∧ (s.slot slot).mode = .stopped then
      s.addReserved (s.hearth (hearthOf slot)).sysfdom true 1 else s
  ((s.dropFrame slot).updSlot slot Slot.reaped).updCore (coreOf slot) (fun c => { c with
    commands := c.commands.map (fun (k : Command) => if k.slot = slotNo slot then { k with orphan := true } else k) })

/-- The reap ends once the store buffer has drained, the kiln has retired the slot's requests and no stream of the slot is frozen (R189,
R332). -/
def State.endReap (s : State) (slot : Nat) : State :=
  if (s.slot slot).sb.isEmpty && ((s.core (coreOf slot)).kilnOf slot).isEmpty && !s.frozenStream slot then s.endThread slot false else s

/-- REAP: waits for a burn that has not been stopped. -/
def execReap (d : Reg) (sl : BitVec 4) (s : State) : Out :=
  .next (gate (.reap d sl) s (fun s =>
    let k := 16 * coreOf s.cur + sl.toNat
    let q := s.slot k
    if slotNo s.cur ≠ 0 then s.privFault (.reap d sl)
    else if q.reaping || (q.burning && decide (q.mode ≠ .stopped)) then s
    else
      let s := s.writeX d (BitVec.ofNat 64 (s.reapState k)) 2
      (if q.holds then s.startReap k else s).advance))

/-! ## LAUNCH (R187) -/

/-- The issuer lies in the subtree of the node's PARENT.
DESIGN CHOICE (log 93): no thread lies in the subtree of PARENT 0, so that a root is launched from outside alone. -/
def State.mayLaunch (s : State) (issuer rcba : Word) : Bool :=
  let parent : Word := BitVec.ofNat 64 (s.rcbRead rcba 0 8)
  parent != 0 && issuer != 0 && (s.path issuer).1.any (fun n => decide (n.rcba = parent))

/-- LAUNCH: first a release at `.sys`. -/
def execLaunch (d a b : Reg) (graph : Bool) (s : State) : Out :=
  .next (gate (.launch d a b graph) s (fun s =>
    if s.me.burning then s.ill (.launch d a b graph)
    else if !s.me.sb.isEmpty || !s.settled s.cur then s
    else
      let s := s.releaseHome s.cur
      let rcba := s.me.getX a
      let ok := s.mayLaunch s.me.ctl.rcba rcba
      let (s, r) := if graph then s.submitReplay (hearthOf s.cur) rcba (s.me.getX b) ok
        else s.submit (hearthOf s.cur) rcba ok none
      (s.writeX d (BitVec.ofNat 64 r) 2).advance))

/-! ## EXIT, MIGR, DTASK, SLOTQ -/

/-- EXIT (R185, R188): ILL in a burn, in slots 14 and 15, and in the stoker unless its core is being reset; it waits where it
stands. -/
def execExit (s : State) : Out :=
  .next (gate .exit s (fun s =>
    if s.me.burning || slotNo s.cur == 14 || slotNo s.cur == 15 || (slotNo s.cur == 0 && !s.myCore.resetting) then s.ill .exit
    else s.upd (fun p => { p with park := none, barrier := some .exit })))

/-- The waits of EXIT (R188): as FENCES `.sys`, then the slot's engine commands and kiln requests, and its frozen streams (R332); then the
thread ends. -/
def State.settleExit (s : State) (b : Barrier) : State :=
  match b with
  | .exit =>
    if s.fenced s.cur .none then
      ((s.performAtScope s.cur .none .sys).probeAll s.cur).upd (fun p => { p with barrier := some .ending })
    else s
  | .ending =>
    let c := s.myCore
    if s.remoteDone s.cur && !s.frozenStream s.cur && (c.kilnOf s.cur).isEmpty && s.me.sub.isNone &&
        !c.commands.any (fun k => k.slot == slotNo s.cur && !k.orphan) then
      s.endThread s.cur true
    else s
  | _ => s

/-- MIGR (R190). -/
def execMigr (d a : Reg) (s : State) : Out :=
  .next (gate (.migr d a) s (fun s =>
    let w := s.me.getX a
    let pkg := getField w 16 13
    let clamp := getField w 8 7
    if s.me.burning || !s.me.ember then s.ill (.migr d a)
    else if pkg = s.pkg.number ∧ clamp = clampOf s.cur then (s.writeX d 0 2).advance
    else if (if pkg = s.pkg.number then s.clampOff clamp else Config.remoteClampOff pkg clamp) then (s.writeX d 1 2).advance
    else if s.me.fills ≠ [] ∨ s.me.sb ≠ [] then s
    else (s.writeX d 0 2).upd (fun p => { p with
      mode := .leaving, park := none, barrier := some (.depart pkg clamp 0 (p.pc + 4)) })))

/-- DTASK (R184, R191).
DESIGN CHOICE (log 93): slots 0 and 14 are no embers, so that DTASK there finds an empty task list and is not illegal. -/
def execDtask (d : Reg) (s : State) : Out :=
  .next (gate (.dtask d) s (fun s =>
    if s.me.ember then s.ill (.dtask d)
    else
      let t := s.me.ctl.lid.toNat % 2 ^ 32 + s.me.taskPos * s.me.extent
      if s.me.extent ≠ 0 ∧ t < s.me.ntask then
        ((s.upd (fun p => { p with taskPos := p.taskPos + 1 })).writeX d (BitVec.ofNat 64 t) 2).advance
      else (s.writeX d (BitVec.ofNat 64 (2 ^ 64 - 1)) 2).advance))

/-- A bit for each slot of a core that satisfies a test. -/
def State.slotBits (s : State) (core : Nat) (f : Nat → Slot → Bool) : Nat :=
  ((List.range 16).map (fun k => if f (16 * core + k) (s.slot (16 * core + k)) then 2 ^ k else 0)).foldl (· + ·) 0

/-- The map of a core (R192). -/
def State.slotMap (s : State) (core : Nat) : Word :=
  BitVec.ofNat 64 (s.slotBits core (fun _ p => p.holds) + s.slotBits core (fun k p => p.holds && s.isParked k) * 2 ^ 16 +
    s.slotBits core (fun _ p => p.holds && p.burning) * 2 ^ 32 +
    ((List.range 13).filter (fun k => !(s.slot (16 * core + k + 1)).holds)).length * 2 ^ 48)

/-- SLOTQ (R192). -/
def execSlotq (d a : Reg) (s : State) : Out :=
  .next (gate (.slotq d a) s (fun s =>
    if !s.me.priv then s.privFault (.slotq d a)
    else
      let k := (s.me.getX a).toNat
      (s.writeX d (if k < 16 then s.slotMap (16 * clampOf s.cur + k) else 0) 2).advance))

/-! ## Completion (R181, R357) -/

/-- Every thread of a placed entry has ended. -/
def Pend.over (p : Pend) : Bool := p.state == 3 && !p.threads.isEmpty && p.left == 0

/-- The group digest: over the threads' digests in ascending LID (R357). -/
def Pend.digest (p : Pend) : List Byte := Config.shake256 (p.digests.flatMap (·.2)) 32

/-- The status of a completion (R181, R182, R186, R357). -/
def Pend.status (p : Pend) : Nat :=
  match p.fail with
  | some f => f
  | none => if p.nreap ≠ 0 then 0x20 else if p.g.checked && p.digest != p.firstDigest then 0x22 else 0

/-- The entry of a node in a hearth's pool that satisfies a test. -/
def State.entryBy (s : State) (h : Nat) (rcba : Nat) (f : Pend → Bool) : Option Pend :=
  (s.hearth h).pool.find? (fun p => decide (p.rcba = BitVec.ofNat 64 rcba) && f p)

/-- The entry may complete: every thread has ended, no second run is due, and the consumer has room. -/
def State.mayComplete (s : State) (p : Pend) : Bool :=
  p.over && (!p.g.checked || p.run == 2 || p.fail.isSome) && s.ringRoom p.g (s.cseqOf p.rcba p.replay)

/-- Root of the graph whose replay an entry belongs to. -/
def State.graphRoot (s : State) (p : Pend) : Word :=
  (s.pkg.graphs.find? (fun t => p.chain.any (fun b => decide (b.rcba = t.root)))).map (·.root) |>.getD 0

/-- A completion: record, tag and spark, then the successors; the entry leaves the pool (R181). -/
def State.complete (s : State) (h : Nat) (p : Pend) : State :=
  let root := s.graphRoot p
  let s := s.writeCompletion h p.rcba p.g p.replay p.lseq (p.tplace.getD 0) p.status
    (completionFlags p.preempted p.replay.isSome p.under) p.nexit p.nreap p.usedt 4
  let s := s.updHearth h (fun x => { x with pool := x.pool.filter (fun q => q.lseq != p.lseq) })
  let s := match p.replay with
    | some n => s.noteNode root p.rcba n true
    | none => s
  let s := s.countDown h p.rcba p.g (p.replay.map (fun n => (n, root)))
  match p.window with
  | some w => s.returnRecords w.desc w.recs
  | none => s

/-- GROUP_COMPLETE (R181). -/
def execGroupComplete (hearth rcba : Nat) (s : State) : Out :=
  .next (match s.entryBy hearth rcba s.mayComplete with
    | some p => s.complete hearth p
    | none => s)

/-- The first run of a checked group is over. -/
def Pend.rerunDue (p : Pend) : Bool := p.over && p.g.checked && p.run == 1 && p.fail.isNone

/-- CHECKED_RERUN (R357): the second run waits in its queue for clamps that the first did not use (R171). -/
def execCheckedRerun (hearth rcba : Nat) (s : State) : Out :=
  .next (match s.entryBy hearth rcba Pend.rerunDue with
    | some p => (s.updPend hearth p.lseq (fun q => { q with
        run := 2
        state := 2
        since := s.dtime
        firstDigest := q.digest
        digests := []
        firstClamps := q.clamps
        clamps := []
        threads := [] })).setNodeState hearth p.rcba p.replay.isSome 2
    | none => s)

/-! ## Pre-emption (R179) -/

/-- The state as if the entry's slots were free. -/
def State.without (s : State) (h : Nat) (p : Pend) : State :=
  (p.threads.foldl (fun s (t : Placed) => if t.phase = 1 then s.setSlot t.slot Slot.free else s) s).updPend h p.lseq (fun q =>
    { q with threads := q.threads.map (fun (t : Placed) => if t.phase = 1 then { t with phase := 2 } else t) })

/-- Inserts an entry: lowest priority first and, among equals, the largest LSEQ. -/
def insertVictim (p : Pend) : List Pend → List Pend
  | [] => [p]
  | q :: qs => if p.prio < q.prio ∨ (p.prio = q.prio ∧ q.lseq < p.lseq) then p :: q :: qs else q :: insertVictim p qs

/-- Running groups below a priority, in the order in which one is chosen. -/
def State.victims (s : State) (h q : Nat) : List Pend :=
  ((s.hearth h).pool.filter (fun p => p.state == 3 && decide (p.prio < q) && p.threads.all (fun t => decide (t.phase ≠ 0)) &&
    p.threads.any (fun t => t.phase == 1))).foldl (fun l p => insertVictim p l) []

def Attempt.fits : Attempt → Bool
  | .place _ => true
  | _ => false

/-- The group to be pre-empted, if a head cannot be placed and one would free enough room. -/
def State.victim (s : State) (h : Nat) : Option Pend :=
  (List.range 8).findSome? (fun k =>
    match s.headOf h (7 - k) with
    | none => none
    | some p =>
      if (s.attempt h p []).fits then none
      else (s.victims h (7 - k)).find? (fun v => ((s.without h v).attempt h p []).fits))

/-- A group with no thread left in a slot returns to its queue, ready (R171, R179); one whose threads have all ended meanwhile completes. -/
def State.requeue (s : State) (h : Nat) (p : Pend) : State :=
  if p.threads.any (fun t => t.phase == 1) then s
  else if p.left = 0 then s.updPend h p.lseq (fun q => { q with state := 3 })
  else (s.updPend h p.lseq (fun q => { q with state := 2, preempted := true, since := s.dtime })).setNodeState h p.rcba p.replay.isSome 2

/-- One pass over the slots of a group that is being saved. -/
def State.saveGroup (s : State) (h : Nat) (p : Pend) : State :=
  let s := (p.threads.filter (fun t => t.phase == 1)).foldl (fun s (t : Placed) => (s.trySave t.slot false).1) s
  match s.pendOf h p.rcba p.lseq with
  | some q => s.requeue h q
  | none => s

/-- PREEMPT (R179): the chosen group's stokers save its slots, each once its burn or trap is over. -/
def execPreempt (hearth rcba : Nat) (s : State) : Out :=
  .next (match s.entryBy hearth rcba (fun p => p.state == 4) with
    | some p => s.saveGroup hearth p
    | none => match s.victim hearth with
      | some v =>
        if v.rcba = BitVec.ofNat 64 rcba then
          (s.updPend hearth v.lseq (fun q => { q with state := 4 })).saveGroup hearth { v with state := 4 }
        else s
      | none => s)

/-! ## A domain that fails (R356) -/

/-- Who last wrote to a line of an L2, and the fault domain of its entry as it then was. -/
def State.lastWriter (s : State) (h line : Nat) : Option (Nat × Option Word) :=
  ((s.hearth h).last.find? (fun e => (s.hearth h).onLine line (128 * e.1))).map (·.2)

/-- The line is lost with the errors in it, and is no longer due. -/
def State.loseLine (s : State) (h line : Nat) : State :=
  s.updHearth h (fun x => { x with
    dirty := x.dirty.filter (fun e => !x.onLine line e.1)
    dtags := x.dtags.filter (fun e => !x.onLine line (8 * e.1))
    bad := x.bad.filter (fun w => !x.onLine line (8 * w))
    failing := x.failing.filter (fun l => !x.onLine line (128 * l))
    last := x.last.filter (fun e => !x.onLine line (128 * e.1)) })

/-- Slots that wrote what a line holds. -/
def State.lineWriters (s : State) (h line : Nat) : List Nat :=
  (((s.hearth h).dirty.filter (fun e => (s.hearth h).onLine line e.1)).flatMap (fun e => e.2.writers) ++
    ((s.hearth h).dtags.filter (fun e => (s.hearth h).onLine line (8 * e.1))).flatMap (fun e => e.2.writers)).eraseDups

/-- A line that no domain answers for counts as a refused write of each of its writers (R128, R148). -/
def State.countLine (s : State) (h line : Nat) : State :=
  (s.lineWriters h line).foldl (fun s w => s.updSlot w (fun p => p.failWrites 1 Fence.eccloss)) s

/-- The fault domain of the group of a slot's thread (R111). -/
def State.groupDomainOf (s : State) (slot : Nat) : Word :=
  match s.groupOf slot with
  | some (h, g) => s.groupDomain h g.g
  | none => s.groupDomain (hearthOf slot) (s.groupFields slot)

/-- General slots with a thread of a group of a domain: its entry is reserved there, or was. -/
def State.slotsOf (s : State) (dom : Word) : List Nat :=
  (s.slots.filter (fun e => e.2.holds && decide (1 ≤ slotNo e.1 ∧ slotNo e.1 ≤ 13) &&
    (e.2.reserved == some dom || s.groupDomainOf e.1 == dom))).map (·.1)

/-- The slot whose reservation the record of a failed line consumes: the last writer's, else that of another slot that is reaped. -/
def State.recordSlot (s : State) (w : Nat) (dom : Word) : Option Nat :=
  if (s.slotsOf dom).contains w ∧ (s.slot w).reserved = some dom then some w
  else (s.slotsOf dom).find? (fun i => (s.slot i).reserved == some dom)

/-- A group that fails with its domain: whichever of its threads are in no slot have ended, and it completes with FAILED. -/
def Pend.fails (g : Pend) : Pend :=
  { g with
    state := 3
    fail := some 0x21
    threads := g.threads.map (fun (t : Placed) => if t.phase = 1 then t else { t with phase := 3 }) }

/-- A group that has been placed belongs to the domain, running, being saved or saved (R356; log 60). -/
def State.inDomain (s : State) (h : Nat) (g : Pend) (dom : Word) : Bool :=
  decide (1 < g.state) && !g.threads.isEmpty && s.groupDomain h g.g == dom

/-- A slot of the domain cannot be reaped yet: a burn that has not been stopped, or an ember on its way to another package. -/
def Slot.unreapable (p : Slot) : Bool :=
  (p.burning && decide (p.mode ≠ .stopped)) || (match p.barrier with
    | some (.sent _ _ _ _) => true
    | _ => false)

/-- The steps of R356 in a domain whose last writer to the line was `w`. -/
def State.failDomain (s : State) (h line w : Nat) (dom : Word) : State :=
  let slots := s.slotsOf dom
  let s := match s.recordSlot w dom with
    | some i => (s.writeRecord i 0x0D 0 (s.global (128 * line)) 0).1
    | none => s.countLine h line
  let s := s.loseLine h line
  let s := { s with hearths := s.hearths.map (fun (e : Nat × Hearth) => (e.1, { e.2 with pool := e.2.pool.map (fun (g : Pend) =>
    if s.inDomain e.1 g dom then g.fails else g) })) }
  slots.foldl (fun s i => if (s.slot i).reaping then s else s.startReap i) s

/-- L2_WRITEBACK_FAIL (R356): the line is lost; a record, the reaps, and FAILED for each group of the domain. It waits until every slot of
the domain can be reaped. -/
def execL2WritebackFail (hearth line : Nat) (s : State) : Out :=
  .next (match s.lastWriter hearth line with
    | none => s.loseLine hearth line
    | some (_, none) => (s.countLine hearth line).loseLine hearth line
    | some (w, some dom) =>
      if (s.slotsOf dom).any (fun i => (s.slot i).unreapable) then s else s.failDomain hearth line w dom)

end Sys2Proof.Machine
end

