-- ==== Sys2Proof/Machine/Ticks.lean ====
section
/-! DEFINITION. The tick generator and the supply of device time (22_media R337 to R346). -/
namespace Sys2Proof.Machine

/-! ## Ticks (R342 to R344) -/

/-- What a tick does with a record: leave it, or take it with the value its LATE bit gets, if that is written (R343, R345). -/
inductive Taking where
  | leave
  | take (late : Option Bool)
  deriving DecidableEq, Repr

def SinkRec.taking (r : SinkRec) (d : TickDesc) (k : Sink) (t : Nat) : Taking :=
  let own := d.ownTick r.item.stamp
  if r.returned then .take none
  else if r.skipped d k then .take (some true)
  else if own = t ∧ r.presentAt ≤ t then .take (some false)
  else if own + d.period = t ∧ r.presentAt ≤ t then .take (some true)
  else .leave

/-- The device writes LATE of a record it takes, and counts late ones. -/
def State.writeLate (s : State) (d : TickDesc) (r : SinkRec) (late : Option Bool) : State :=
  match late with
  | none => s
  | some b =>
    let a := r.item.sink + r.item.off + 0x0A
    let f := s.homeNat a 2
    let s := s.storeNat a 2 (f / 4 * 4 + f % 2 + (if b then 2 else 0))
    if b then s.countSink d.sink 0x20 1 else s

/-- Window order: STAMP, then STREAM, then SEQ (R312). -/
def WindowRec.before (a b : WindowRec) : Bool :=
  decide (a.stamp < b.stamp) || (a.stamp == b.stamp && (decide (a.stream < b.stream) || (a.stream == b.stream && decide (a.seq ≤ b.seq))))

def insertRec (r : WindowRec) : List WindowRec → List WindowRec
  | [] => [r]
  | x :: xs => if r.before x then r :: x :: xs else x :: insertRec r xs

def orderWindow (rs : List WindowRec) : List WindowRec := rs.foldr insertRec []

/-- A tick takes its records (R343): none of them stays in the sink. -/
def State.gatherTick (s : State) (n : Nat) (d : TickDesc) (t : Nat) : State :=
  let k := s.sink n
  let taken := (k.recs.filter (fun r => r.item.sink == d.sink)).filterMap (fun r => match r.taking d k t with
    | .take late => some (r, late)
    | .leave => none)
  let s := taken.foldl (fun s e => s.writeLate d e.1 e.2) s
  s.updSink n (fun x => { x with
    recs := x.recs.filter (fun r => !taken.any (fun e => e.1 == r))
    heldRecs := x.heldRecs ++ taken.map (fun e => e.1.item)
    heldTick := some t
    heldDesc := some d
    lastTick := some t
    passed := [] })

/-- The launch of what the held ticks took: accepted, held for want of room, or refused with the records returned (R344). Answers
whether it found room. -/
def State.launchStep (s : State) (n : Nat) (d : TickDesc) : State × Bool :=
  let k := s.sink n
  let hearth := fld d.ctl 1 3
  let w : StepWindow := ⟨n, k.heldTick.getD 0, orderWindow k.heldRecs⟩
  let group := decide ((rcbOf (s.path d.rcba).1).kind = 2)
  let (s, r) := s.submit hearth d.rcba true (some w)
  if r = fullResult then (s, false)
  else
    let runs := group && decide (r < 2 ^ 63)
    let s := s.updSink n (fun x => { x with heldRecs := [], heldTick := none, heldDesc := none, step := if runs then some (hearth, r) else none })
    (if runs then s else s.returnRecords n w.recs, true)

/-- A malformed descriptor gets its BAD bit (R341). -/
def State.markBad (s : State) (d : TickDesc) : State :=
  if bitOf d.ctl 4 then s else s.storeNat (d.at_ + 0x30) 4 (d.ctl + 16)

/-- DTIME is a tick instant (R342). -/
def TickDesc.fires (d : TickDesc) (t : Nat) : Bool := d.legal && decide (d.phase ≤ t) && decide ((t - d.phase) % d.period = 0)

/-- The descriptor fires now: its instant is DTIME, and it has not fired. -/
def State.tickDue (s : State) (n : Nat) (d : TickDesc) : Bool :=
  d.fires s.dtime &&
  (match (s.sink n).lastTick with
    | some t => decide (t < s.dtime)
    | none => true)

/-- A tick (R342 to R344): TICKC, the records, then the launch or a slip. -/
def State.fireTick (s : State) (n : Nat) (d : TickDesc) : State :=
  let s := (s.gatherTick n d s.dtime).countSink d.sink 0x18 1
  if (s.sink n).step.isSome then s.countSink d.sink 0x1C 1
  else match s.launchStep n d with
    | (s, true) => s
    | (s, false) => s.countSink d.sink 0x1C 1

/-- The tick instant of the descriptor in effect puts the descriptor of memory in effect (R341): one that is disabled or malformed fires
no more.
DESIGN CHOICE (log 93): one whose PERIOD or PHASE has changed fires now if this is an instant of its own too. -/
def State.changeTick (s : State) (n : Nat) : State :=
  match s.tickDesc n with
  | none => s.updSink n (fun k => { k with desc := none })
  | some d =>
    if !d.legal then (s.updSink n (fun k => { k with desc := none })).markBad d
    else
      let s := s.updSink n (fun k => { k with desc := some d })
      if d.fires s.dtime then s.fireTick n d else s

/-- TICK (R341, R342): a malformed descriptor that has no tick to wait for is marked at once. -/
def execTick (n : Nat) (s : State) : Out :=
  .next (match s.served n with
    | some d => if s.tickDue n d then s.changeTick n else s
    | none => match s.tickDesc n with
      | some d => if d.legal then s else s.markBad d
      | none => s)

/-- Held ticks may be launched, by the descriptor of the latest: no step group is left, and the pool has room. -/
def State.slipDue (s : State) (n : Nat) : Option TickDesc :=
  match (s.sink n).heldDesc with
  | none => none
  | some d =>
    if bitW s.pkg.tickctl 0 && (s.sink n).heldTick.isSome && (s.sink n).step.isNone && (s.launchStep n d).2 then some d else none

/-- SLIPPED_TICK_LAUNCH (R344): one merged launch. -/
def execSlippedTickLaunch (n : Nat) (s : State) : Out :=
  .next (match s.slipDue n with
    | some d => (s.launchStep n d).1
    | none => s)

/-! ## Device time (R337, R338, R39) -/

/-- A burn is active in the package: that of a stopped slot has escalated. -/
def State.burnActive (s : State) : Bool := s.slots.any (fun e => e.2.holds && e.2.burning && decide (e.2.mode ≠ .stopped))

def State.setTimest (s : State) (i : Nat) : State := { s with pkg := { s.pkg with timest := setBit s.pkg.timest i true } }

/-- Ticks of a descriptor that a step from `old` to `new` passes over: each counts as a slip (R338). -/
def State.passTicks (s : State) (old new n : Nat) : State :=
  match s.served n with
  | none => s
  | some d =>
    let lo := match (s.sink n).lastTick with
      | some t => max old (t + 1)
      | none => old
    let first := d.tickFrom lo
    if first < new then
      (s.countSink d.sink 0x1C ((new - 1 - first) / d.period + 1)).updSink n (fun k => { k with passed := k.passed ++ [(first, new)] })
    else s

/-- DTADJ_STEP (R338, R39): refused while a burn is active. -/
def execDtadjStep (v : Word) (s : State) : Out :=
  .next (if s.burnActive then s.setTimest 5
    else
      let old := s.dtime
      let new := (old + v.toNat) % 2 ^ 64
      let s := { s with clock := new * nsUnits + s.clock % nsUnits }
      ((List.range 64).foldl (fun s n => s.passTicks old new n) s).setTimest 4)

/-- SRC of TIMEST (R338): free-running until a reference of the time of day has been seen, and holdover once both are lost. -/
def sourceOf (refs : BitVec 3) (old : Nat) : Nat :=
  if refs.getLsbD 0 then (if refs.getLsbD 1 then 2 else 1) else if old = 0 then 0 else 3

/-- A signed offset as TIMEST holds it: saturating. -/
def offsBits (v : Int) : Nat := wrap 32 (max (-(2 ^ 31)) (min (2 ^ 31 - 1) v))

/-- A slew within its limit (R337): 100 ppm, or 20 ppm of the package oscillator when no reference is left. -/
def limitSlew (refs : BitVec 3) (v : Int) : Int :=
  let m : Int := if refs = 0 then 20000 else 100000
  max (-m) (min m v)

/-- TIME_REFERENCE_INPUT (R337, R338). -/
def execTimeReferenceInput (r : TimeReference) (s : State) : Out :=
  .next (if 2 < r.kind then s
    else
      let refs := setMask s.pkg.refs r.kind r.present
      let t := putField s.pkg.timest 0 2 (sourceOf refs (getField s.pkg.timest 0 2))
      let t := setBit (setBit t 2 (refs.getLsbD 2)) 3 (refs.getLsbD 1)
      let t := if r.present then putField t 32 32 (offsBits r.offset) else t
      { s with pkg := { s.pkg with refs := refs, timest := t, slew := limitSlew refs r.slew } })

end Sys2Proof.Machine
end

