-- ==== Sys2Proof/Machine/Collier.lean ====
section
/-! DEFINITION. Mailboxes, copy commands and their completion (19_collier R295 to R306), with the engine ordering of 10_ordering
R164. -/
namespace Sys2Proof.Machine

/-! ## The command block (R297) -/

def Submission.word (b : Submission) (i : Nat) : Word := b.mb.getD i 0
def Submission.kword (b : Submission) : Nat := getField (b.word 0) 32 32
def Submission.csg (b : Submission) : Nat := getField (b.word 0) 21 3
def Submission.dsg (b : Submission) : Nat := getField (b.word 0) 18 3
def Submission.ssg (b : Submission) : Nat := getField (b.word 0) 15 3
def Submission.dcoord (b : Submission) : Bool := bitW (b.word 0) 7
def Submission.scoord (b : Submission) : Bool := bitW (b.word 0) 6
def Submission.rick (b : Submission) : Bool := bitW (b.word 0) 5
def Submission.tags (b : Submission) : Bool := bitW (b.word 0) 4
def Submission.cmode (b : Submission) : Nat := getField (b.word 0) 0 2
def Submission.soff (b : Submission) : Word := b.word 1
def Submission.doff (b : Submission) : Word := b.word 2
def Submission.seg (b : Submission) (g : Nat) : Seg := b.sg.getD g Seg.empty

/-- Bytes of a row, and rows: one row except in CPYT. -/
def Submission.rowLen (b : Submission) : Nat := if b.form = 1 then getField (b.word 3) 0 16 else (b.word 3).toNat
def Submission.rows (b : Submission) : Nat := if b.form = 1 then getField (b.word 3) 16 16 else 1
def Submission.total (b : Submission) : Nat := b.rowLen * b.rows

/-- Reserved bits of MB0, CMODE 3, and flags the kind does not allow (R296, R297). -/
def mb0Bad (form : Nat) (w : Word) : Bool :=
  decide (getField w 24 8 ≠ 0) || decide (getField w 8 6 ≠ 0) || bitW w 14 || decide (getField w 2 2 ≠ 0) || decide (getField w 0 2 = 3) ||
  (decide (form ≠ 2) && decide (getField w 32 32 ≠ 0)) || (decide (form ≠ 1) && (bitW w 7 || bitW w 6)) ||
  (decide (form ≠ 3) && bitW w 5) || (decide (form = 3) && (bitW w 4 || decide (getField w 15 3 ≠ 0)))

/-! ## Issue (R295, R296, R305, R306) -/

/-- CPYW: ILL in an ember; waits while the mailbox tag is full. -/
def execCpyw (a b : Reg) (k : BitVec 2) (s : State) : Out :=
  .next (gate (.cpyw a b k) s (fun s =>
    if s.me.ember then s.ill (.cpyw a b k)
    else if s.me.sub.isSome then s
    else (s.upd (fun p => { p with mb := (p.mb.set (2 * k.toNat) (p.getX a)).set (2 * k.toNat + 1) (p.getX b) })).advance))

/-- Commands of a slot's thread in its core's queue. -/
def State.commandsOf (s : State) (slot : Nat) : List Command :=
  (s.core (coreOf slot)).commands.filter (fun k =>
    k.slot == slotNo slot && !k.orphan)

/-- CPYQ. -/
def execCpyq (d : Reg) (s : State) : Out :=
  .next (gate (.cpyq d) s (fun s =>
    if s.me.ember then s.ill (.cpyq d)
    else (s.writeX d (BitVec.ofNat 64 ((s.commandsOf s.cur).length % 256 + (if s.me.sub.isSome then 256 else 0))) 2).advance))

/-- CPYX: ILL in a burn and in an ember; it waits where it stands. -/
def execCpyx (d : Reg) (s : State) : Out :=
  .next (gate (.cpyx d) s (fun s =>
    if s.me.ember || s.me.burning then s.ill (.cpyx d)
    else s.upd (fun p => { p with park := none, barrier := some (.cpyx d) })))

/-- CPYX completes once no command of the slot is left: the counts, then both clear. -/
def State.settleCpyx (s : State) (d : Reg) : State :=
  if s.me.sub.isNone && (s.commandsOf s.cur).isEmpty then
    (s.writeX d (BitVec.ofNat 64 (s.me.cpyBad + s.me.cpyLast * 2 ^ 16)) 2).upd (fun p =>
      { p with cpyBad := 0, cpyLast := 0, barrier := none, park := none, pc := p.pc + 4 })
  else s

/-- The submission of a form: the block, flags and captured registers (R296). -/
def Slot.submission (p : Slot) (form : Nat) (o : MemOrd) (sc : Scope) (root : Word) : Submission :=
  ⟨form, ordAcq o, ordRel o, sc, p.xferCount, p.mb, p.sg.toList, p.scales, p.priv, root⟩

/-- The mailbox is full, and xd takes the sequence. -/
def State.submitCopy (s : State) (d : Reg) (form : Nat) (o : MemOrd) (sc : Scope) : State :=
  let seq := s.me.xferCount
  ((s.upd (fun p => { p with sub := some (p.submission form o sc s.myCore.ptroot), xferCount := (seq + 1) % 2 ^ 32 })).writeX d
    (BitVec.ofNat 64 seq) 2).advance

/-- The CPY forms (R296). -/
def State.copyForm (s : State) (i : Instr) (d : Reg) (form : Nat) (o : MemOrd) (sc : Scope) : State :=
  gate i s (fun s =>
    let w := s.me.mb.getD 0 0
    if s.me.ember || s.me.burning then s.ill i
    else if s.me.sub.isSome then s
    else if mb0Bad form w then s.ill i
    else if getField w 0 2 = 2 ∧ (s.me.mb.getD 5 0).toNat % 4 ≠ 0 then s.raise Cause.align (s.me.mb.getD 5 0) targetInfo
    else if getField w 0 2 = 1 then
      s.access ⟨getField w 21 3, s.me.mb.getD 4 0, 8, 8, 0x0A, 1, true, false⟩ (fun s _ => s.submitCopy d form o sc)
    else s.submitCopy d form o sc)

def execCpy (d : Reg) (o : MemOrd) (sc : Scope) (s : State) : Out := .next (s.copyForm (.cpy d o sc) d 0 o sc)
def execCpyt (d : Reg) (o : MemOrd) (sc : Scope) (s : State) : Out := .next (s.copyForm (.cpyt d o sc) d 1 o sc)
def execCpyk (d : Reg) (o : MemOrd) (sc : Scope) (s : State) : Out := .next (s.copyForm (.cpyk d o sc) d 2 o sc)
def execCpys (d : Reg) (o : MemOrd) (sc : Scope) (s : State) : Out := .next (s.copyForm (.cpys d o sc) d 3 o sc)

/-! ## Acceptance (R298) -/

/-- Status codes of R303. -/
def CStatus.seglim : Nat := 1
def CStatus.segrights : Nat := 2
def CStatus.align : Nat := 3
def CStatus.pagefail : Nat := 4
def CStatus.ecc : Nat := 5
def CStatus.overlap : Nat := 6
def CStatus.badcmd : Nat := 7
def CStatus.accown : Nat := 8
def CStatus.kilnfmt : Nat := 9
def CStatus.remote : Nat := 0xF

/-- The status that matches a cause. -/
def statusOfCause (c : Nat) : Nat :=
  if c = Cause.seglim then CStatus.seglim else if c = Cause.segrights then CStatus.segrights
  else if c = Cause.align then CStatus.align else if c = Cause.eccunc then CStatus.ecc
  else if c = Cause.kilnfmt then CStatus.kilnfmt else CStatus.badcmd

/-- The kiln word of a CPYK: sparse, tile, context, scaled, accumulating (R301). -/
def kilnWord (w : Nat) : Option (Bool × TReg × BitVec 2 × Bool × Bool) :=
  match readWord w with
  | some (.kmma t a b c as acc) => if a = 0 ∧ b = 0 then some (false, t, c, as, acc) else none
  | some (.kmmas t a b c as acc) => if a = 0 ∧ b = 0 then some (true, t, c, as, acc) else none
  | _ => none

/-- The limits of the kind (R297, R300, R301, R307, R310). -/
def Submission.limitsBad (b : Submission) (tiles : Nat) : Bool :=
  let len := b.word 3
  let x6 := b.word 6
  let x7 := b.word 7
  match b.form with
  | 0 => decide (len.toNat = 0 ∨ 2 ^ 32 ≤ len.toNat)
  | 1 => decide (b.rowLen = 0 ∨ b.rows = 0 ∨ 2 ^ 32 ≤ len.toNat) || (!b.scoord && decide (2 ^ 32 ≤ x6.toNat)) ||
      (!b.dcoord && decide (2 ^ 32 ≤ x7.toNat))
  | 2 => decide (len.toNat = 0 ∨ 2 ^ 32 ≤ len.toNat) || decide (2 ^ 60 ≤ x6.toNat) || decide (2 ^ 60 ≤ x7.toNat) ||
      (match kilnWord b.kword with
        | some (_, t, _) => decide (tiles ≤ t.toNat)
        | none => true)
  | _ =>
    let shift := getField x6 36 4
    decide (getField x6 33 3 ≠ 0 ∨ getField x6 48 16 ≠ 0) || decide (shift ≠ 9 ∧ shift ≠ 12) ||
      (if b.rick then decide (len ≠ 0 ∨ getField x7 32 32 = 0 ∨ 16 ≤ getField x6 40 8)
       else decide (len.toNat = 0 ∨ 2 ^ 32 ≤ len.toNat ∨ len.toNat % 2 ^ shift ≠ 0))

/-- Rights a side needs: F when the segment names another package. -/
def State.sideNeed (s : State) (g : Seg) (base : BitVec 8) (tags : Bool) : BitVec 8 :=
  base ||| (if tags then 0x08 else 0) ||| (if segGlobal g && decide (globalPkg g.base ≠ s.pkg.number) then 0x20 else 0)

/-- The rows of one side of a copy (R297, R300): the offset of row 0, the pitch, and the tile-region leaf of a side given in
coordinates with its first row. -/
structure Shape where
  start : Nat
  pitch : Nat
  leaf : Option (TlbEntry × Nat)
  deriving DecidableEq, Repr

def Submission.side (b : Submission) (src : Bool) : Nat := if src then b.ssg else b.dsg
def Submission.off (b : Submission) (src : Bool) : Word := if src then b.soff else b.doff
def Submission.place (b : Submission) (src : Bool) : Word := b.word (if src then 6 else 7)
def Submission.coord (b : Submission) (src : Bool) : Bool := decide (b.form = 1) && (if src then b.scoord else b.dcoord)

/-- A side given by its offset and pitch. -/
def Submission.linear (b : Submission) (src : Bool) : Shape :=
  ⟨(b.off src).toNat, if b.form = 1 then getField (b.place src) 0 32 else 0, none⟩

/-- First bytes, granule by granule, and the last byte of a range. -/
def samples (a n : Nat) : List Nat :=
  (List.range (n / 16384 + 2)).map (fun i => min (a + n - 1) (if i = 0 then a else (a / 16384 + i) * 16384))

/-- Where a row lies (R278): a global row past the package's last address, one that meets unpopulated memory or a word without a tag,
or a pool row outside a scratchpad. -/
def State.rowStatus (s : State) (g : Seg) (tags : Bool) (n off : Nat) : Option Nat :=
  if segGlobal g then
    let l := globalLocal g.base + off
    if 2 ^ 51 < l + n then some CStatus.seglim
    else if globalPkg g.base = s.pkg.number ∧ !(samples l n).all (fun a => s.populated a && (!tags || carriesTag a)) then
      some CStatus.segrights
    else none
  else if (samples ((g.base.toNat + off) % 2 ^ 57) n).all (fun x => x / 2 ^ 30 != 2 ^ 27 - 1 || s.poolOk (poolBase + x % 2 ^ 30)) then none
  else some CStatus.segrights

/-- The check of one side of a range: alignment of tagged words, limit and rights of the captured segment from the first to the last
byte of the rows, then where each row lies (R128, R278, R299). -/
def State.sideStatus (s : State) (g : Seg) (x : Shape) (rows len : Nat) (need : BitVec 8) (tags : Bool) : Option Nat :=
  let last := x.start + (rows - 1) * x.pitch + len - 1
  if tags && decide (x.start % 8 ≠ 0 ∨ len % 8 ≠ 0 ∨ (1 < rows ∧ x.pitch % 8 ≠ 0)) then some CStatus.align
  else if segEmpty g || decide (g.limit.toNat < last) then some CStatus.seglim
  else if g.rights &&& need ≠ need then some CStatus.segrights
  else ((List.range rows).map (fun r => x.start + r * x.pitch)).findSome? (s.rowStatus g tags len)

/-- Two offset ranges of one segment register overlap. -/
def rangesMeet (a b n : Nat) : Bool := decide (a < b + n) && decide (b < a + n)

/-- Rights of a side of a copy. -/
def State.copyNeed (s : State) (b : Submission) (src : Bool) : BitVec 8 :=
  s.sideNeed (b.seg (b.side src)) (if src then 0x01 else 0x02) b.tags

/-- The check of a source and a destination (R298, R299, R300): each side, then overlap row by row. -/
def State.rangesStatus (s : State) (b : Submission) (x y : Shape) : Option Nat :=
  match s.sideStatus (b.seg b.ssg) x b.rows b.rowLen (s.copyNeed b true) b.tags with
  | some c => some c
  | none => match s.sideStatus (b.seg b.dsg) y b.rows b.rowLen (s.copyNeed b false) b.tags with
    | some c => some c
    | none =>
      if b.ssg = b.dsg ∧ (List.range b.rows).any (fun r => rangesMeet (x.start + r * x.pitch) (y.start + r * y.pitch) b.rowLen) then
        some CStatus.overlap
      else none

/-- The rights of a side given in coordinates: the rest of its range is known once its leaf is (R300). -/
def State.coordRights (s : State) (b : Submission) (src : Bool) : Option Nat :=
  let g := b.seg (b.side src)
  if segEmpty g || decide (g.limit.toNat < (b.off src).toNat) then some CStatus.seglim
  else if g.rights &&& s.copyNeed b src ≠ s.copyNeed b src then some CStatus.segrights
  else if segGlobal g || decide ((g.base.toNat + (b.off src).toNat) % 2 ^ 57 / 2 ^ 30 = 2 ^ 27 - 1) then some CStatus.badcmd
  else none

/-- The checks at acceptance: the status of a command that fails them. Ranges given in coordinates are checked before the first byte
moves. -/
def State.acceptStatus (s : State) (core : Nat) (b : Submission) : Option Nat :=
  if b.limitsBad (s.tcount core) then some CStatus.badcmd
  else if b.form = 3 then
    let n := if b.rick then getField (b.word 7) 32 32 * 2 ^ 20 else b.rowLen
    s.sideStatus (b.seg b.dsg) (b.linear false) 1 n (s.copyNeed b false) false
  else if b.coord true || b.coord false then
    match (if b.coord true then s.coordRights b true
      else s.sideStatus (b.seg b.ssg) (b.linear true) b.rows b.rowLen (s.copyNeed b true) b.tags) with
    | some c => some c
    | none => if b.coord false then s.coordRights b false
        else s.sideStatus (b.seg b.dsg) (b.linear false) b.rows b.rowLen (s.copyNeed b false) b.tags
  else s.rangesStatus b (b.linear true) (b.linear false)

/-- The slot whose mailbox is accepted next: round-robin over slots 0 to 14, with room in the queue. -/
def State.nextAccept (s : State) (core : Nat) : Option Nat :=
  let c := s.core core
  if 32 ≤ c.commands.length then none
  else ((List.range 15).map (fun k => (c.acceptNext + k) % 15)).find? (fun k =>
    (s.slot (16 * core + k)).sub.isSome && (s.slot (16 * core + k)).holds)

/-- COMMAND_ACCEPT (R298). -/
def execCommandAccept (core : Nat) (s : State) : Out :=
  .next (match s.nextAccept core with
    | none => s
    | some k =>
      let p := s.slot (16 * core + k)
      match p.sub with
      | none => s
      | some b =>
        let cmd : Command := ⟨k, p.lseq, p.ctl.rcba, p.ca, b, s.acceptStatus core b, 0, 0, none, false, false,
          none, false, false, false, false, false⟩
        (s.updSlot (16 * core + k) (fun p => { p with sub := none })).updCore core (fun c =>
          { c with commands := c.commands ++ [cmd], acceptNext := (k + 1) % 15 }))

/-! ## Moving bytes (R299, R300) -/

def State.setCommand (s : State) (core k : Nat) (c : Command) : State :=
  s.updCore core (fun x => { x with commands := x.commands.set k c })

/-- The collier of a core issues as slot 15. -/
def collierSlot (core : Nat) : Nat := 16 * core + 15

/-- A side of a copy: its rows, a status, or a page fault to be served. -/
inductive Side where
  | rows (x : Shape)
  | fail (status : Nat)
  | page (reason va kind : Nat)
  deriving DecidableEq, Repr

/-- Byte offset of a column of a leaf's element size (R283); none for an odd half-byte column. -/
def columnByte (esz col : Nat) : Option Nat :=
  if esz = 3 then (if col % 2 = 0 then some (col / 2) else none) else some (col * 2 ^ esz)

/-- Rows given in coordinates (R300): the offset is the first byte of a tile-region leaf's span, and the rows follow the leaf's own
pitch. -/
def State.coordSide (s : State) (slot : Nat) (b : Submission) (src : Bool) : State × Side :=
  let off := (b.off src).toNat
  let a := ((b.seg (b.side src)).base.toNat + off) % 2 ^ 57
  let root := b.root
  let kind := if src then 0 else 1
  match s.translate (clampOf slot) root a (!b.priv) kind false with
  | (s, .page reason) => (s, .page reason a kind)
  | (s, .refused c) => (s, .fail (statusOfCause c))
  | (s, .ok _ _) =>
    match (s.clamp (clampOf slot)).tlb.find? (fun e => e.root == root && e.va == a && fld e.w0 1 2 == 2) with
    | none => (s, .fail CStatus.badcmd)
    | some e =>
      let pitch := 128 * fld e.w1 20 12
      let row := getField (b.place src) 0 32
      match columnByte (fld e.w1 16 2) (getField (b.place src) 32 32) with
      | none => (s, .fail CStatus.badcmd)
      | some c => if pitch < c + b.rowLen then (s, .fail CStatus.badcmd) else (s, .rows ⟨off + row * pitch + c, pitch, some (e, row)⟩)

/-- The rows of the source or of the destination. -/
def State.sideRows (s : State) (slot : Nat) (b : Submission) (src : Bool) : State × Side :=
  if b.coord src then s.coordSide slot b src else (s, .rows (b.linear src))

/-- What a step of a copy comes to. -/
inductive Moved where
  | ok
  | fail (status : Nat)
  | page (reason va kind : Nat)
  | wait
  deriving DecidableEq, Repr

/-- The rows of both sides, with the checks that coordinates put off until now (R298, R300). -/
def State.copySides (s : State) (slot : Nat) (c : Command) : State × (Shape × Shape) ⊕ State × Moved :=
  let b := c.sub
  match s.sideRows slot b true with
  | (s, .fail x) => .inr (s, .fail x)
  | (s, .page x y z) => .inr (s, .page x y z)
  | (s, .rows x) =>
    match s.sideRows slot b false with
    | (s, .fail x) => .inr (s, .fail x)
    | (s, .page x y z) => .inr (s, .page x y z)
    | (s, .rows y) =>
      match (if c.moved = 0 && (b.coord true || b.coord false) then s.rangesStatus b x y else none) with
      | some x => .inr (s, .fail x)
      | none => .inl (s, x, y)

/-- Row r of a side given in coordinates lies at or beyond EXT (R287, R300). -/
def Shape.beyond (x : Shape) (r : Nat) : Bool :=
  match x.leaf with
  | some (e, row) => decide (fld e.w1 32 32 ≤ row + r)
  | none => false

/-- What a collier reads: bytes and tags, nothing yet, or a status (R303). -/
inductive CopyData where
  | data (bs : List Byte) (ts : List Bool)
  | wait
  | fail (status : Nat)
  deriving DecidableEq, Repr

/-- A run of another package in words of 8 bytes. -/
def wordRuns (a n : Nat) : List (Nat × Nat) := (List.range ((n + 7) / 8)).map (fun i => (a + 8 * i, min 8 (n - 8 * i)))

/-- Words of another package as the collier reads them: every READ goes out at once (R317). -/
def State.readFar (s : State) (cs d : Nat) (tags : Bool) : List (Nat × Nat) → State × CopyData
  | [] => (s, .data [] [])
  | (a, n) :: rest =>
    let l : Loc := .there d a
    match s.remoteRead cs (readKey (s.globalOf l)) tags [⟨l, n, none, none⟩] with
    | (s, e) =>
      match e, s.readFar cs d tags rest with
      | _, (s, .fail x) => (s, .fail x)
      | none, (s, _) => (s, .wait)
      | some e, (s, r) =>
        if e.bad then (s, .fail CStatus.ecc)
        else match e.fail, r with
          | some c, _ => (s, .fail (if c = Cause.remote then CStatus.remote else CStatus.pagefail))
          | none, .data bs ts => (s, .data (bytesOfNat n (e.answer.getD 0).toNat ++ bs) (e.tag :: ts))
          | none, r => (s, r)

/-- A coordinate request meets the dirty bytes of its tile's line only where the line's TID and place are those of its leaf; else it
reads what the home holds (R286; log 89). -/
def State.tileHit (s : State) (cs : Nat) (x : Shape) (p : Piece) : Bool :=
  match x.leaf, p.loc, p.va with
  | some (e, _), .here a, some v =>
    !(s.hearth (hearthOf cs)).dirtyPage (a / 4096) ||
      decide (Table.find (s.hearth (hearthOf cs)).tiles (a / 4096) = some (e.tileAt v))
  | _, _, _ => true

/-- Bytes and tags of source pieces as the collier reads them (R164). -/
def State.copyRead (s : State) (cs : Nat) (x : Shape) (tags : Bool) : List Piece → State × CopyData
  | [] => (s, .data [] [])
  | p :: ps =>
    let (s, r) : State × CopyData := match p.loc with
      | .here a =>
        if s.loadBad cs a p.len then (s, .fail CStatus.ecc)
        else (s, .data (if s.tileHit cs x p then s.loadHere cs a p.len else s.homeBytes a p.len)
          ((List.range ((p.len + 7) / 8)).map (fun i => s.slotTag cs (a + 8 * i))))
      | .there d a => s.readFar cs d tags (wordRuns a p.len)
    match r, s.copyRead cs x tags ps with
    | .fail x, (s, _) => (s, .fail x)
    | _, (s, .fail x) => (s, .fail x)
    | .data bs ts, (s, .data b2 t2) => (s, .data (bs ++ b2) (ts ++ t2))
    | _, (s, _) => (s, .wait)

/-- A write by coordinates that does not meet its tile's line sends that home first, and makes a line of its own (R286; log 89). -/
def State.tileTurn (s : State) (cs : Nat) (x : Shape) (p : Piece) : State :=
  match p.loc with
  | .here a => if s.tileHit cs x p then s else
      (s.sendHome (hearthOf cs) (fun b _ => b / 4096 == a / 4096) (fun w _ => 8 * w / 4096 == a / 4096)).updHearth (hearthOf cs) (fun h =>
        { h with tiles := h.tiles.filter (fun e => e.1 != a / 4096) })
  | .there _ _ => s

/-- Destination pieces take the bytes, and with tags each word its source's tag in the same change: in another package each such word
is a counted release (R299, R326). -/
def State.copyWrite (s : State) (cs stream : Nat) (x : Shape) (tags : Bool) : List Piece → List Byte → List Bool → State × Moved
  | [], _, _ => (s, .ok)
  | p :: ps, bs, ts =>
    match p.loc with
    | .here a =>
      if isPool a && s.writeRefused a p.len then (s, .fail CStatus.ecc)
      else
        let s := (s.tileTurn cs x p).performParts cs [⟨.here a, bs.take p.len, none, p.va⟩]
        let s := if tags then (List.range (p.len / 8)).foldl (fun s i => s.performTag cs (a + 8 * i) (ts.getD i true)) s else s
        s.copyWrite cs stream x tags ps (bs.drop p.len) (ts.drop ((p.len + 7) / 8))
    | .there d a =>
      if tags then
        if s.releaseReady cs d then
          (s.sendRelease cs stream d (.write a (bs.take p.len) (some (ts.getD 0 true))) false (s.globalOf (.there d a)) 0).copyWrite
            cs stream x tags ps (bs.drop p.len) (ts.drop ((p.len + 7) / 8))
        else (s.closeToward cs d, .wait)
      else if s.canSend cs stream d (blockMasks a (bs.take p.len)) then
        (s.sendWrite cs stream d a (bs.take p.len)).copyWrite cs stream x tags ps (bs.drop p.len) (ts.drop ((p.len + 7) / 8))
      else (s.closeToward cs d, .wait)

/-- Names of the reads of the pieces of another package. -/
def State.pieceKeys (s : State) (ps : List Piece) : List Nat :=
  ps.flatMap (fun p => match p.loc with
    | .there d a => (wordRuns a p.len).map (fun r => readKey (s.globalOf (.there d r.1)))
    | .here _ => [])

/-- The segment lies in another package. -/
def State.segAway (s : State) (g : Seg) : Bool := segGlobal g && decide (globalPkg g.base ≠ s.pkg.number)

/-- One step: up to 64 bytes of a row, ending at a multiple of 64 of the destination; a word for tagged words of another package. -/
def State.copyStep (s : State) (core : Nat) (c : Command) : State × Moved × Nat :=
  let b := c.sub
  let slot := 16 * core + c.slot
  let cs := collierSlot core
  let r := c.moved / b.rowLen
  let m := c.moved % b.rowLen
  match s.copySides slot c with
  | .inr (s, x) => (s, x, 0)
  | .inl (s, x, y) =>
    let g := b.seg b.ssg
    let h := b.seg b.dsg
    let so := x.start + r * x.pitch + m
    let d := y.start + r * y.pitch + m
    let n := min (b.rowLen - m) (if b.tags && s.segAway h then 8 else 64 - (h.base.toNat + d) % 64)
    let need (base : BitVec 8) : BitVec 8 := if b.tags then base ||| 0x08 else base
    if x.beyond r then (s, .page 3 ((g.base.toNat + so) % 2 ^ 57) 0, 0)
    else if y.beyond r then (s, .page 3 ((h.base.toNat + d) % 2 ^ 57) 1, 0)
    else match s.resolveAs slot b.root (!b.priv) g ⟨b.ssg, BitVec.ofNat 64 so, n, 1, need 0x01, 0, b.tags, false⟩ with
    | (s, .fault x) => (s, .fail (statusOfCause x), 0)
    | (s, .page x y) => (s, .page x y 0, 0)
    | (s, .ok src) =>
      match s.resolveAs slot b.root (!b.priv) h ⟨b.dsg, BitVec.ofNat 64 d, n, 1, need 0x02, 1, b.tags, false⟩ with
      | (s, .fault x) => (s, .fail (statusOfCause x), 0)
      | (s, .page x y) => (s, .page x y 1, 0)
      | (s, .ok dst) =>
        let forget (s : State) : State := s.updSlot cs (fun p => { p with
          remoteFetch := p.remoteFetch.filter (fun e => !(s.pieceKeys src).contains e.key) })
        match s.copyRead cs x b.tags src with
        | (s, .wait) => (s, .wait, 0)
        | (s, .fail x) => (forget s, .fail x, 0)
        | (s, .data bs ts) =>
          match s.copyWrite cs (c.pos.getD 0) y b.tags dst bs ts with
          | (s, .ok) => (forget s, .ok, n)
          | (s, x) => (s, x, 0)

/-- Moves bytes until the copy is whole, fails, meets a page fault or must wait. -/
def State.copyRun (s : State) (core : Nat) : Nat → Command → State × Moved × Command
  | 0, c => (s, .wait, c)
  | fuel + 1, c =>
    if c.sub.total ≤ c.moved then (s, .ok, c)
    else match s.copyStep core c with
      | (s, .ok, n) => s.copyRun core fuel { c with moved := c.moved + n }
      | (s, r, _) => (s, r, c)

/-- The spark of a collier's page fault (R304): slot 15's SLOTID and the collier's fault count. -/
def State.collierFault (s : State) (core k : Nat) (c : Command) (reason va kind : Nat) : State :=
  let token := ((s.core core).collierFaults + 1) % 2 ^ 32
  let slot := 16 * core + c.slot
  let s := s.tellStoker (s.service slot) (BitVec.ofNat 64 va)
    (BitVec.ofNat 64 ((s.slotid (collierSlot core)).toNat + reason * 2 ^ 32 + kind * 2 ^ 36 +
      (if c.sub.priv then 2 ^ 39 else 0))) c.sub.root (BitVec.ofNat 64 token)
  (s.setCommand core k { c with parked := some token }).updCore core (fun x => { x with collierFaults := token })

/-! ## Order (R164, R298) -/

/-- No earlier command of the same slot is in the queue. -/
def State.firstOfSlot (s : State) (core k : Nat) : Bool :=
  match (s.core core).commands[k]? with
  | some c => !((s.core core).commands.take k).any (fun x => x.slot == c.slot)
  | none => false

/-- Writes of the collier to other packages in the stream of a running position are acknowledged. -/
def State.streamDone (s : State) (core pos : Nat) : Bool :=
  s.flue.streams.all (fun t => t.sid != s.sidOf (collierSlot core) pos || t.wins.all (fun w => w.n == 0)) &&
  s.flue.releases.all (fun r => r.flit.sid != s.sidOf (collierSlot core) pos)

/-- Closes the windows of a running position's stream. -/
def State.closeStream (s : State) (core pos : Nat) : State :=
  (s.flue.streams.filter (fun t => t.sid == s.sidOf (collierSlot core) pos)).foldl (fun s t => s.countrel t.sid t.dst) s

/-- A command keeps its running position until it leaves the queue; one that is parked on a page fault gives it up once what it wrote to
other packages is acknowledged (R298, R304). -/
def State.holdsPos (s : State) (core : Nat) (c : Command) (p : Nat) : Bool :=
  c.pos == some p && (c.parked.isNone || !s.streamDone core p)

/-- The running position that is free: a collier runs up to four commands (R298). -/
def State.freePos (s : State) (core : Nat) : Option Nat :=
  (List.range 4).find? (fun p => !(s.core core).commands.any (fun k => s.holdsPos core k p))

/-- The k-th command takes a running position, from a parked one where that still has it. -/
def State.takePos (s : State) (core k p : Nat) (c : Command) : State :=
  (s.updCore core (fun x => { x with commands := x.commands.map (fun (d : Command) => if d.pos = some p then { d with pos := none } else d) })).setCommand
    core k { c with pos := some p, started := true }

/-- A command takes a running position. With acq its first read follows the earlier accesses of its slot, performed at the command's
scope: at `.pkg` and `.sys` the slot's dirty bytes go home; and its writes to other packages are acknowledged, since the collier reads
them there (R164). -/
def State.startCommand (s : State) (core k : Nat) (c : Command) : State :=
  let slot := 16 * core + c.slot
  match s.freePos core with
  | none => s
  | some p =>
    let go (s : State) : State := s.takePos core k p c
    if c.started || c.status.isSome || !c.sub.acq || c.orphan then go s
    else if !(s.slot slot).fills.isEmpty || !s.written slot then s
    else if s.outstanding slot then s.closeAll slot
    else go (if scopeRank .pkg ≤ scopeRank c.sub.scope then s.releaseHome slot else s)

/-! ## Completion (R302, R303) -/

/-- The completion word. -/
def Command.word (c : Command) (status : Nat) : Word :=
  BitVec.ofNat 64 (c.sub.seq + status % 2 ^ 16 * 2 ^ 32 + min c.refusedChunks 0xFFFF * 2 ^ 48)

/-- The slot still holds the thread that issued the command. -/
def State.issuerHolds (s : State) (core : Nat) (c : Command) : Bool :=
  let p := s.slot (16 * core + c.slot)
  p.holds && !p.reaping && !c.orphan && p.lseq == c.lseq && p.ctl.rcba == c.rcba && p.ca == c.ca

/-- CPYX counts a command with a non-zero status (R305). -/
def Slot.countStatus (p : Slot) (status : Nat) : Slot :=
  if status = 0 then p else { p with cpyBad := min (p.cpyBad + 1) 0xFFFF, cpyLast := status }

/-- The command leaves the queue. -/
def State.retireCommand (s : State) (core k : Nat) (c : Command) (status : Nat) : State :=
  let s := if s.issuerHolds core c then s.updSlot (16 * core + c.slot) (fun p => p.countStatus status) else s
  { s.updCore core (fun x => { x with commands := x.commands.eraseIdx k }) with
    pkg := { s.pkg with nvme := s.pkg.nvme.filter (fun r => !(r.data.isSome && r.core == core && r.slot == c.slot && r.seq == c.sub.seq)) } }

/-- The release of a completion with rel: what the collier has written goes home at a wide scope. -/
def State.completionRelease (s : State) (core : Nat) (c : Command) : State :=
  if c.sub.rel && decide (scopeRank .pkg ≤ scopeRank c.sub.scope) then s.releaseHome (collierSlot core) else s

/-- CMODE 1: the completion word and its full tag, in one change; none while it must wait. A word in another package is filled once its
release is acknowledged, and the command is complete then (R298, R305). -/
def State.fillWord (s : State) (core k : Nat) (c : Command) (status : Nat) : State :=
  let slot := 16 * core + c.slot
  let cs := collierSlot core
  let acc : Access := ⟨c.sub.csg, c.sub.word 4, 8, 8, 0x0A, 1, true, false⟩
  match s.resolveAs slot c.sub.root (!c.sub.priv) (c.sub.seg c.sub.csg) acc with
  | (s, .fault _) => s.retireCommand core k c status
  | (s, .page reason va) => s.collierFault core k { c with status := some status } reason va 1
  | (s, .ok ps) =>
    match ps with
    | [] => s.retireCommand core k c status
    | p :: _ =>
      match p.loc with
      | .here a =>
        let s := (s.completionRelease core c).performParts cs [⟨.here a, bytesOf (c.word status) 8, some true, none⟩]
        (s.completionRelease core c).retireCommand core k c status
      | .there d a =>
        if s.releaseReady cs d && decide (s.storeUsed cs < sendStoreSize) then
          ((s.completionRelease core c).sendRelease cs (c.pos.getD 0) d (.write a (bytesOf (c.word status) 8) (some true)) false
            (s.globalOf (.there d a)) 0).setCommand core k { c with status := some status, filled := true }
        else s

/-- A command with its status completes (R302), after what it wrote to other packages has been applied, refused or lost, whatever its status:
with rel its completion follows those writes, and an acq command of the slot follows them in any case (R164). -/
def State.completeCommand (s : State) (core k : Nat) (c : Command) (status : Nat) : State :=
  let slot := 16 * core + c.slot
  if !s.streamDone core (c.pos.getD 0) then s.closeStream core (c.pos.getD 0)
  else if c.filled then s.retireCommand core k c (if c.lost then CStatus.remote else status)
  else if c.noWord then s.retireCommand core k c status
  else match c.sub.cmode with
  | 1 => s.fillWord core k c status
  | 2 =>
    if !s.issuerHolds core c then (s.completionRelease core c).retireCommand core k c status
    else if 8 ≤ (s.slot slot).completions.length then s
    else
      let s := (s.completionRelease core c).updSlot slot (fun p =>
        { p with completions := p.completions ++ [(c.word status, c.sub.word 5)] })
      (s.wakeWfi slot).retireCommand core k c status
  | _ => (s.completionRelease core c).retireCommand core k c status

end Sys2Proof.Machine
end

