-- ==== Sys2Proof/Machine/Storage.lean ====
section
/-! DEFINITION. The storage engine: reads of flash, rick images and key slots (19_collier R307 to R310), and the reset of a storage
controller (23_host R354). -/
namespace Sys2Proof.Machine

def CStatus.storerr : Nat := 0x0A
def CStatus.rickfmt : Nat := 0x0B
def CStatus.rickver : Nat := 0x0C
def CStatus.ricksig : Nat := 0x0D
def CStatus.ricktag : Nat := 0x0E

/-- `n` bytes from byte `o` of what a read gave. -/
def sliceAt (bs : List Byte) (o n : Nat) : List Byte := (bs.drop o).take n

/-- A little-endian field of `n` bytes. -/
def natAt (bs : List Byte) (o n : Nat) : Nat := leNat (sliceAt bs o n)

/-- Bytes of a chunk with its trailer (R309), and of its payload. -/
def chunkSpan : Nat := 2 ^ 20 + 4096
def payloadSize : Nat := 2 ^ 20

/-- The header check of R310. -/
def rickHeader (h : List Byte) : Option Nat :=
  if natAt h 0 4 ≠ 0x4B434952 ∨ natAt h 0x54 1 ≠ 20 ∨ (natAt h 6 2 = 0 ∧ (sliceAt h 0x70 0x90).any (fun b => b != 0)) then
    some CStatus.rickfmt
  else if natAt h 4 2 ≠ 1 then some CStatus.rickver
  else none

/-- The manifest check of R310: signature, header digest and chunk count. -/
def rickManifest (key h m : List Byte) : Bool :=
  let signed := m.take (m.length - 114)
  decide (0x30 + 114 ≤ m.length) && Config.ed448Verify key signed (m.drop (m.length - 114)) &&
  decide (sliceAt m 0x10 32 = Config.shake256 (h.take (natAt h 8 4)) 32) && decide (natAt m 8 8 = natAt h 0x58 8)

/-- "NQRICK1". -/
def rickName : List Byte := [0x4E, 0x51, 0x52, 0x49, 0x43, 0x4B, 0x31]

/-- Chunk k is accepted (R310). -/
def chunkOk (key h m c : List Byte) (k : Nat) : Bool :=
  let tag := sliceAt c payloadSize 32
  let index := sliceAt c (payloadSize + 0x20) 8
  let plen := natAt c (payloadSize + 0x28) 4
  decide (tag = Config.kmac256 key rickName (sliceAt h 0x10 32 ++ index ++ c.take plen)) &&
  decide (tag = sliceAt m (0x30 + 32 * k) 32) && decide (leNat index = k) &&
  (decide (plen = payloadSize) || (decide (k + 1 = natAt h 0x58 8) && decide (1 ≤ plen ∧ plen ≤ payloadSize)))

/-- The command of a read: its place in its core's queue. -/
def State.readCommand (s : State) (r : NvmeRead) : Option (Nat × Command) :=
  let cs := (s.core r.core).commands
  match cs.findIdx? (fun c => c.handed && c.status.isNone && c.parked.isNone && c.slot == r.slot && c.sub.seq == r.seq) with
  | some k => (cs[k]?).map (fun c => (k, c))
  | none => none

/-- Writes bytes at an offset of the command's destination, at home; a page fault goes to the service (R304). -/
def State.storageWrite (s : State) (r : NvmeRead) (c : Command) (off : Nat) (bs : List Byte) : State × Moved :=
  let b := c.sub
  if bs = [] then (s, .ok)
  else match s.resolveAs (16 * r.core + r.slot) b.root (!b.priv) (b.seg b.dsg)
      ⟨b.dsg, b.doff + BitVec.ofNat 64 off, bs.length, 1, 0x02, 1, false, false⟩ with
    | (s, .fault x) => (s, .fail (statusOfCause x))
    | (s, .page reason va) => (s, .page reason va 1)
    | (s, .ok ps) =>
      ((splitParts ps bs none).foldl (fun s w => match w.loc with
        | .here a => if isDram a then s.unitWrite a w.bytes else s
        | .there _ _ => s) s, .ok)

/-- The first read of a CPYS (R307, R310): to the storage port, namespace and grate that it names. -/
def Submission.read (b : Submission) (core slot grate : Nat) : NvmeRead :=
  { port := getField (b.word 6) 32 1, nsid := getField (b.word 6) 0 32, grate := grate, core := core, seq := b.seq, slot := slot
    lba := (b.word 1).toNat, bytes := if b.rick then 4096 else b.rowLen, stage := if b.rick then 1 else 0, got := [], data := none }

/-- The storage engine of the grate that homes the destination's first byte gets the first read once the destination is mapped DRAM. -/
def State.handToStorage (s : State) (core k : Nat) (c : Command) : State :=
  let b := c.sub
  let n := if b.rick then getField (b.word 7) 32 32 * 2 ^ 20 else b.rowLen
  match s.resolveAs (16 * core + c.slot) b.root (!b.priv) (b.seg b.dsg) ⟨b.dsg, b.doff, n, 1, 0x02, 1, false, false⟩ with
  | (s, .fault x) => s.setCommand core k { c with status := some (statusOfCause x) }
  | (s, .page reason va) => s.collierFault core k c reason va 1
  | (s, .ok ps) =>
    if !ps.all (fun p => match p.loc with
        | .here a => isDram a
        | .there _ _ => false) then s.setCommand core k { c with status := some CStatus.badcmd }
    else
      let grate := match ps.head?.map (·.loc) with
        | some (.here a) => grateOf a
        | _ => 0
      { s.setCommand core k { c with handed := true } with pkg := { s.pkg with nvme := s.pkg.nvme ++ [b.read core c.slot grate] } }

/-- The next read of a rick load (R310). -/
def State.nextRead (s : State) (r : NvmeRead) (c : Command) (stage at_ bytes : Nat) (got : List Byte) : State :=
  let lba := (c.sub.word 1).toNat + at_ / 2 ^ getField (c.sub.word 6) 36 4
  let read : NvmeRead := { r with lba := lba, bytes := bytes, stage := stage, got := got, data := none }
  { s with pkg := { s.pkg with nvme := s.pkg.nvme ++ [read] } }

def Command.first (c : Command) : Nat := getField (c.sub.word 7) 0 32
def Command.count (c : Command) : Nat := getField (c.sub.word 7) 32 32

/-- Keys of the command's key slot: KMAC256 and Ed448. -/
def State.keysOf (s : State) (c : Command) : List Byte × List Byte :=
  Table.get ([], []) s.pkg.keySlots (getField (c.sub.word 6) 40 8)

/-- The chunks from the j-th on: accepted payloads are written, the others counted. -/
def State.takeChunks (s : State) (r : NvmeRead) (c : Command) (h m data : List Byte) : Nat → Nat → Nat → State × Nat × Moved
  | 0, _, bad => (s, bad, .ok)
  | n + 1, j, bad =>
    let chunk := sliceAt data (j * chunkSpan) chunkSpan
    if chunkOk (s.keysOf c).1 h m chunk (c.first + j) then
      match s.storageWrite r c (payloadSize * j) (chunk.take (natAt chunk (payloadSize + 0x28) 4)) with
      | (s, .ok) => s.takeChunks r c h m data n (j + 1) bad
      | (s, x) => (s, bad, x)
    else s.takeChunks r c h m data n (j + 1) (bad + 1)

/-- What became of the writes of a read: the status of the command, or the data waits while the service serves a page fault (R304). -/
def State.stored (s : State) (r : NvmeRead) (k : Nat) (c : Command) (data : List Byte) (status : Nat) (x : Moved) : State :=
  match x with
  | .ok => s.setCommand r.core k { c with status := some status }
  | .fail x => s.setCommand r.core k { c with status := some x }
  | .page reason va kind =>
    { s with pkg := { s.pkg with nvme := s.pkg.nvme ++ [{ r with data := some data }] } }.collierFault r.core k c reason va kind
  | .wait => s

/-- The last read of a rick load. -/
def State.finishRick (s : State) (r : NvmeRead) (k : Nat) (c : Command) (data : List Byte) : State :=
  let (s, bad, x) := s.takeChunks r c (r.got.take 4096) (r.got.drop 4096) data c.count 0 0
  s.stored r k { c with refusedChunks := bad } data (if bad = 0 then 0 else CStatus.ricktag) x

/-- The data of a read that has ended without error. -/
def State.takeRead (s : State) (r : NvmeRead) (k : Nat) (c : Command) (data : List Byte) : State :=
  match r.stage with
  | 0 =>
    let (s, x) := s.storageWrite r c 0 data
    s.stored r k c data 0 x
  | 1 =>
    match rickHeader data with
    | some x => s.setCommand r.core k { c with status := some x }
    | none => s.nextRead r c 2 (natAt data 0x60 8) (natAt data 0x68 8) data
  | 2 =>
    let h := r.got.take 4096
    if !rickManifest (s.keysOf c).2 h data then s.setCommand r.core k { c with status := some CStatus.ricksig }
    else if natAt h 0x58 8 < c.first + c.count then s.setCommand r.core k { c with status := some CStatus.badcmd }
    else s.nextRead r c 3 (4096 + c.first * chunkSpan) (c.count * chunkSpan) (h ++ data)
  | _ => s.finishRick r k c data

/-- NVME_READ_COMPLETE (R307, R310): the k-th outstanding read ends; the data fills as many bytes as the read names. -/
def execNvmeReadComplete (k : Nat) (error : Bool) (data : List Byte) (s : State) : Out :=
  .next (match s.pkg.nvme[k]? with
    | none => s
    | some r =>
      let t := { s with pkg := { s.pkg with nvme := s.pkg.nvme.eraseIdx k } }
      if r.data.isSome then s
      else match t.readCommand r with
      | none => t
      | some (j, c) =>
        if error then t.setCommand r.core j { c with status := some CStatus.storerr }
        else t.takeRead r j c ((data ++ List.replicate (r.bytes - data.length) 0).take r.bytes))

/-- A command handed to the storage engine ends with STORERR. -/
def Command.storageLost (c : Command) : Command :=
  if c.handed && c.status.isNone then { c with status := some CStatus.storerr } else c

/-- STORAGE_CONTROLLER_RESET (R354). -/
def execStorageControllerReset (s : State) : Out :=
  .next { s with
    cores := s.cores.map (fun (e : Nat × Core) => (e.1, { e.2 with commands := e.2.commands.map Command.storageLost }))
    pkg := { s.pkg with nvme := [] } }

/-- KEY_SLOT_INSTALL (R307): one of 16 key slots takes a KMAC256 key and an Ed448 public key. -/
def execKeySlotInstall (n : Nat) (kmac ed448 : List Byte) (s : State) : Out :=
  .next (if n < 16 then { s with pkg := { s.pkg with keySlots := Table.put s.pkg.keySlots n (kmac, ed448) } } else s)

end Sys2Proof.Machine
end

