-- ==== Sys2Proof/Machine/Commands.lean ====
section
/-! DEFINITION. A command of the collier runs and completes (19_collier R298 to R304). -/
namespace Sys2Proof.Machine

/-- The copy has been moved: it completes once its writes to other packages are resolved, with REMOTE when one was lost (R299). A CPYK
goes on to its kiln request. -/
def State.copyMoved (s : State) (core k : Nat) (c : Command) : State :=
  let pos := c.pos.getD 0
  if !s.streamDone core pos then (s.closeStream core pos).setCommand core k c
  else if c.lost then s.setCommand core k { c with status := some CStatus.remote }
  else if c.sub.form = 2 then s.setCommand core k c
  else s.completeCommand core k c 0

/-- A CPYS: handed to its storage engine; data that waited for a page fault of the destination is stored once that has been served. -/
def State.runStorage (s : State) (core k : Nat) (c : Command) : State :=
  if !c.handed then s.handToStorage core k c
  else match s.pkg.nvme.findIdx? (fun r => r.data.isSome && r.core == core && r.slot == c.slot && r.seq == c.sub.seq) with
    | none => s
    | some n => match s.pkg.nvme[n]? with
      | some r => { s with pkg := { s.pkg with nvme := s.pkg.nvme.eraseIdx n } }.takeRead r k c (r.data.getD [])
      | none => s

/-- One step of the k-th command (R298 to R302): it takes a running position, moves its bytes, or completes with the status it has. -/
def State.runCommand (s : State) (core k : Nat) (c : Command) : State :=
  if c.pos.isNone then s.startCommand core k c
  else match c.status with
  | some x => s.completeCommand core k c x
  | none =>
    if c.sub.form = 3 then s.runStorage core k c
    else if c.sub.form = 2 ∧ c.sub.total ≤ c.moved ∧ s.streamDone core (c.pos.getD 0) ∧ !c.lost then s
    else match s.copyRun core (c.sub.total + 1) c with
      | (s, .ok, c) => s.copyMoved core k c
      | (s, .fail x, c) => s.setCommand core k { c with status := some x }
      | (s, .page reason va kind, c) => s.collierFault core k c reason va kind
      | (s, .wait, c) => s.setCommand core k c

/-- The k-th command may run: it is not parked, and it has a running position or is the first of its slot (R298, R304). -/
def State.mayRun (s : State) (core k : Nat) : Option Command :=
  match (s.core core).commands[k]? with
  | none => none
  | some c => if c.parked.isNone && (c.pos.isSome || s.firstOfSlot core k) then some c else none

/-- COPY_COMPLETE (R302). -/
def execCopyComplete (core k : Nat) (s : State) : Out :=
  .next (match s.mayRun core k with
    | some c => s.runCommand core k c
    | none => s)

/-- COPY_FAULT_RESUME (R304). -/
def execCopyFaultResume (core k : Nat) (decline : Bool) (s : State) : Out :=
  .next (match (s.core core).commands[k]? with
    | some c => match c.parked with
      | some token => s.setCommand core k (c.wake token decline)
      | none => s
    | none => s)

/-- The two registers of a CPYK descriptor (R301): E and O. -/
def cpykDesc (x : Word) : Word × Word := (BitVec.ofNat 64 (getField x 0 24), BitVec.ofNat 64 (getField x 24 36))

/-- A CPYK whose bytes are all performed and whose kiln request is not made. -/
def State.kilnDue (s : State) (core k : Nat) : Option Command :=
  (s.mayRun core k).filter (fun c => c.sub.form == 2 && c.pos.isSome && c.status.isNone && !c.kilnIssued && !c.lost &&
    decide (c.sub.total ≤ c.moved) && s.streamDone core (c.pos.getD 0) && match kilnWord c.sub.kword with
      | some (_, t, _) => !(s.core core).kilnWaits false t
      | none => true)

/-- The request of a CPYK under the context of this moment, or the status that refuses it (R301). -/
def State.cpykRequest (s : State) (core : Nat) (c : Command) : KReq ⊕ Nat :=
  match kilnWord c.sub.kword with
  | none => .inr CStatus.badcmd
  | some (sparse, t, ctx, as, acc) =>
    let kind : KKind := if sparse then .mmas else .mma
    let (ea, oa) := cpykDesc (c.sub.word 6)
    let (eb, ob) := cpykDesc (c.sub.word 7)
    let w := (s.core core).kfmt.getD ctx.toNat 0
    if s.accFirst core c.ca then .inr CStatus.accown
    else if !matrixFormat w kind as oa ob then .inr CStatus.kilnfmt
    else if !(c.sub.seg 7).rights.getLsbD 6 then .inr CStatus.segrights
    else match s.matrixFault (core / 16) w kind as ea oa eb ob c.sub.ksc with
      | some (x, _) => .inr (statusOfCause x)
      | none => .inl ⟨16 * core + c.slot, kind, t, ea, oa, eb, ob, w, c.sub.ksc, as, acc, [], false, 0, 0, some c.sub.seq, [], [], none, 0⟩

/-- CPYK_KILN_ISSUE (R301): the bytes of the copy are performed at their pool ports and homes. -/
def execCpykKilnIssue (core k : Nat) (s : State) : Out :=
  .next (match s.kilnDue core k with
    | none => s
    | some c => match s.cpykRequest core c with
      | .inr x => s.setCommand core k { c with status := some x }
      | .inl r => (((s.releaseHome (collierSlot core)).setCommand core k { c with kilnIssued := true })).updCore core (fun x => x.place r))

end Sys2Proof.Machine
end

