-- ==== Sys2Proof/Machine/Embers.lean ====
section
/-! DEFINITION. Embers leave a slot, queue at a clamp and land in another slot (02_machine R25, R26; 10_ordering R166; 21_flue
R335). -/
namespace Sys2Proof.Machine

/-! ## Departure -/

/-- The packet of an ember that leaves with its PC at `pc` (R26). -/
def Slot.packet (p : Slot) (haddr pc : Word) : EmberPacket where
  rcba := p.ctl.rcba
  lid := p.ctl.lid
  haddr := haddr
  mseq := p.mseq + 1
  xfull := p.xf
  pc := pc
  status := p.ctl.status
  x := p.x.toList
  sg := p.sg.toList

/-- A segment of a packet: base, limit in bytes 8 to 13, rights in byte 14 (R26). -/
def segPacket (g : Seg) : List Byte := segBytes g

/-- The 384 bytes of the packet (R26). -/
def packetBytes (e : EmberPacket) : List Byte :=
  bytesOfNat 8 e.rcba.toNat ++ bytesOfNat 8 e.lid.toNat ++ bytesOfNat 8 e.haddr.toNat ++ bytesOfNat 8 e.mseq ++ bytesOfNat 8 0 ++
  bytesOfNat 8 e.xfull.toNat ++ bytesOfNat 8 e.pc.toNat ++ bytesOfNat 8 e.status.toNat ++
  wordsBytes ((List.range 16).map (fun i => (e.x[i]?).getD 0)) ++
  ((List.range 8).map (fun i => (e.sg[i]?).getD Seg.empty)).flatMap segPacket

/-- The packet that 384 bytes hold (R26). -/
def packetOf (bs : List Byte) : EmberPacket :=
  let w (o : Nat) : Word := BitVec.ofNat 64 (leNat ((bs.drop o).take 8))
  let g (o : Nat) : Seg := ⟨w o, BitVec.ofNat 48 (w (o + 8)).toNat, BitVec.ofNat 8 ((w (o + 8)).toNat / 2 ^ 48)⟩
  { rcba := w 0
    lid := w 8
    haddr := w 0x10
    mseq := (w 0x18).toNat
    xfull := BitVec.ofNat 16 (w 0x28).toNat
    pc := w 0x30
    status := w 0x38
    x := (List.range 16).map (fun i => w (0x40 + 8 * i))
    sg := (List.range 8).map (fun i => g (0xC0 + 24 * i)) }

/-- A clamp's arrival queue takes 64 packets; a packet accepted before is discarded (R25, R26). The answer: accepted. -/
def State.queueEmber (s : State) (clamp : Nat) (e : EmberPacket) : State × Bool :=
  if (s.clamp clamp).accepted.contains (e.rcba, e.lid, e.mseq) then (s, true)
  else if 64 ≤ (s.clamp clamp).embers.length then (s, false)
  else (s.updClamp clamp (fun c => { c with embers := c.embers ++ [e], accepted := (e.rcba, e.lid, e.mseq) :: c.accepted }), true)

/-- No slot: where a thread on its way between slots is noted. -/
def noSlot : Nat := 2 ^ 15

/-- The entry of a thread's group follows an ember from slot to slot, and its run has used the clamp (R357). -/
def Pend.moved (g : Pend) (lid : Word) (from_ to_ : Nat) : Pend :=
  let it (t : Placed) : Bool := decide (t.lid = lid.toNat % 2 ^ 32) && t.phase == 1 && t.slot == from_
  { g with
    threads := g.threads.map (fun (t : Placed) => if it t then { t with slot := to_ } else t)
    clamps := if to_ = noSlot ∨ g.threads.any it = false then g.clamps else (g.clamps ++ [clampOf to_]).eraseDups }

def State.moveThread (s : State) (rcba lid : Word) (from_ to_ : Nat) : State :=
  { s with hearths := s.hearths.map (fun (e : Nat × Hearth) => (e.1, { e.2 with pool := e.2.pool.map (fun (g : Pend) =>
    if g.rcba = rcba then g.moved lid from_ to_ else g) })) }

/-- The root of the domain of a slot's group is known from the core it leaves (R284). -/
def State.noteRoot (s : State) (slot : Nat) : State :=
  match (s.groupOf slot).bind (fun x => x.2.domain) with
  | some w => { s with pkg := { s.pkg with roots := Table.put s.pkg.roots w.toNat (s.core (coreOf slot)).ptroot } }
  | none => s

/-- The source slot is free: the reservation goes with an ember that stays in its package. The clamps keep the packets they have accepted,
so that one that comes twice is discarded (R26). -/
def State.freeSource (s : State) (slot : Nat) (away : Bool) : State :=
  let p := s.slot slot
  let s := s.chargeTime slot
  let s := if away then s.releaseReservation slot else s
  let s := s.noteRoot slot
  let s := match s.groupOf slot with
    | some (h, g) => if g.g.checked then
        s.updPend h g.lseq (fun q => { q with digests := Table.put q.digests (p.ctl.lid.toNat % 2 ^ 32) p.digest })
      else s
    | none => s
  (s.moveThread p.ctl.rcba p.ctl.lid slot noSlot).updSlot slot Slot.ended

/-- The record of R26, with the PC of the move. -/
def State.writeEmber (s : State) (slot : Nat) (pc : Word) : State :=
  (s.updSlot slot (fun p => { p with pc := pc })).writeContext slot false

/-- The packet leaves, once the record is performed where it lies and for a clamp that has room: a full queue leaves the ember where
it is (R25). -/
def State.settleDeparting (s : State) (pkg clamp : Nat) (haddr pc : Word) : State :=
  if s.sending s.cur then s.closeAll s.cur
  else
    let e := s.me.packet haddr pc
    if pkg = s.pkg.number then
      match s.queueEmber clamp e with
      | (t, true) => t.freeSource s.cur false
      | (_, false) => s
    else (s.upd (fun p => { p with barrier := some (.sent pkg clamp e false) })).emit (.ember pkg clamp s.pkg.number s.cur e)

/-- The departure of the issuing slot's ember, on its own turn: its accesses are performed, in other packages too as FENCES `.sys`
waits; then its dirty bytes go home and its record is written (R166; log 85). -/
def State.settleDepart (s : State) (pkg clamp : Nat) (haddr pc : Word) : State :=
  if !s.fenced s.cur .none then s
  else if s.me.written ≠ [] then ((s.performAtScope s.cur .none .sys).probeAll s.cur).upd (fun p => { p with written := [] })
  else if !s.remoteDone s.cur then s
  else
    (((s.releaseHome s.cur).writeEmber s.cur pc).upd (fun p => { p with
      barrier := some (.departing pkg clamp haddr pc) })).settleDeparting pkg clamp haddr pc

/-- EMBERACK (R335): an accepted packet frees its slot; one that met a full queue is sent again once room is reported. -/
def execEmberack (slot : Nat) (ok : Bool) (s : State) : Out :=
  .next (match (s.slot slot).barrier with
    | some (.sent pkg clamp e refused) =>
      if refused && ok then
        (s.updSlot slot (fun p => { p with barrier := some (.sent pkg clamp e false) })).emit (.ember pkg clamp s.pkg.number slot e)
      else if ok then s.freeSource slot true
      else s.updSlot slot (fun p => { p with barrier := some (.sent pkg clamp e true) })
    | _ => s)

/-! ## Arrival -/

/-- EMBER_ARRIVAL (R25, R335): the packet enters the queue; another package is told whether it did. -/
def execEmberArrival (clamp pkg slot : Nat) (p : EmberPacket) (s : State) : Out :=
  .next (let (s, ok) := s.queueEmber clamp p
    if pkg = s.pkg.number then s
    else
      let s := if ok then s else s.updClamp clamp (fun c => { c with refused := c.refused ++ [(pkg, slot)] })
      s.emit (.emberack pkg slot ok))

/-- The entry of the group an arriving ember belongs to. -/
def State.emberGroup (s : State) (e : EmberPacket) : Option Pend :=
  s.allPends.find? (fun g => decide (g.rcba = e.rcba) && g.threads.any (fun t =>
    decide (t.lid = e.lid.toNat % 2 ^ 32) && decide (t.phase = 1) && decide (t.slot = noSlot)))

/-- A core serves the ember's domain: its threads belong to it, or it holds none (R284), and every slot budget of its path holds one more
(R25). An ember of a group of another package shares a core with its own group's embers alone (log 83). -/
def State.servesEmber (s : State) (core : Nat) (e : EmberPacket) : Bool :=
  match s.emberGroup e with
  | some g => s.domainFits core g && g.chain.all (fun b => decide (s.slotsUnder b.rcba false ≤ b.bslots))
  | none =>
    (List.range 13).all (fun k =>
      let q := s.slot (16 * core + k + 1)
      !q.holds || q.ctl.rcba == e.rcba) && (s.entriesOn core).isEmpty &&
    (budgetsOf (s.path e.rcba).1).all (fun b => decide (s.slotsUnder b.rcba false + 1 ≤ b.bslots))

/-- The general slot that takes the ember, among the clamp's cores round-robin (R25). -/
def State.emberSlot (s : State) (clamp : Nat) (e : EmberPacket) : Option Nat :=
  (List.range 16).findSome? (fun k =>
    let core := 16 * clamp + ((s.clamp clamp).nextCore + k) % 16
    if (s.core core).closed || !s.servesEmber core e then none else (s.freeSlots core).head?)

/-- The root of the ember's domain: as its threads left it, or what the stoker writes (R284; log 83). -/
def State.emberRoot (s : State) (e : EmberPacket) : Word :=
  let w := ((s.emberGroup e).bind (·.domain)).getD e.rcba
  (Table.find s.pkg.roots w.toNat).getD (Config.domainRoot w)

/-- The stoker of an empty core writes the root of the arriving ember's domain (R284). -/
def State.takeDomain (s : State) (core : Nat) (e : EmberPacket) : State :=
  if (List.range 13).any (fun k => (s.slot (16 * core + k + 1)).holds) then s
  else s.updCore core (fun c => { c with ptroot := s.emberRoot e })

/-- A slot in which an ember has just been put. -/
def landed (e : EmberPacket) (dtime : Nat) (away : Bool) : Slot :=
  { Slot.free with
    mode := .running
    barrier := some (.landing e)
    startAt := dtime
    launcher := if away then .away else .stoker
    ctl := { Ctl.zero with status := e.status, lid := e.lid, rcba := e.rcba }
    pc := e.pc }

/-- The clamp's oldest ember and the slot it may be handed to. -/
def State.nextHandoff (s : State) (clamp : Nat) : Option (EmberPacket × Nat) :=
  match (s.clamp clamp).embers with
  | [] => none
  | e :: _ => if s.clampOff clamp then none else (s.emberSlot clamp e).map (fun k => (e, k))

/-- The freed place is offered to the first package that was refused. -/
def State.offerRoom (s : State) (clamp : Nat) : State :=
  match (s.clamp clamp).refused with
  | [] => s
  | (pkg, slot) :: rest => (s.updClamp clamp (fun c => { c with refused := rest })).emit (.emberack pkg slot true)

/-- EMBER_HANDOFF (R25). -/
def execEmberHandoff (clamp : Nat) (s : State) : Out :=
  .next (match s.nextHandoff clamp with
    | none => s
    | some (e, k) =>
      let s := (s.takeDomain (coreOf k) e).updClamp clamp (fun c => { c with embers := c.embers.tail, nextCore := (slotNo (coreOf k) + 1) % 16 })
      (((s.moveThread e.rcba e.lid noSlot k).setSlot k (landed e s.dtime (s.emberGroup e).isNone)).offerRoom clamp))

/-- The ember in its new slot: the record, with the packet's fields over it (R26). -/
def arrivedSlot (e : EmberPacket) (ws : List Nat) (ca : Word) (patches : List Nat) (me : Nat) : Slot :=
  let p := slotOfRecord ws ca patches me
  { p with
    x := Vector.ofFn (fun (i : Fin 16) => (e.x[i.val]?).getD 0)
    xf := e.xfull
    pc := e.pc
    sg := Vector.ofFn (fun (i : Fin 8) => (e.sg[i.val]?).getD Seg.empty)
    mseq := e.mseq
    ctl := { p.ctl with status := e.status, lid := e.lid, rcba := e.rcba } }

/-- The domain an arrived ember's record is reserved in: that of its group, or the one its FDOM names (R111). -/
def State.emberDomain (s : State) (slot : Nat) (g : Option (Nat × Pend)) (fdom : Word) : Option Word :=
  match g with
  | some (h, g) => ringOf (s.groupDomain h g.g)
  | none =>
    ringOf (if fdom = 0 then (s.hearth (hearthOf slot)).sysfdom else fdom)

/-- The ember takes its place: group, launch and reservation. -/
def State.land (s : State) (e : EmberPacket) (g : Rcb) (l : Nat) (p : Slot) : State :=
  let entry := (List.range 8).findSome? (fun h => ((s.hearth h).pool.find? (fun (q : Pend) => decide (q.rcba = e.rcba) &&
    q.threads.any (fun t => decide (t.lid = e.lid.toNat % 2 ^ 32) && decide (t.phase = 1) && decide (t.slot = s.cur)))).map (fun q => (h, q)))
  let dom := s.emberDomain s.cur entry p.ctl.fdom
  let s := if entry.isSome then s else match dom with
    | some d => s.addReserved d true 1
    | none => s
  (s.setSlot s.cur { p with
    extent := g.extt
    ntask := g.ntask
    lseq := (entry.map (fun x => x.2.lseq)).getD l
    launcher := (entry.map (fun x => Launcher.hearth x.1)).getD .away
    digest := (entry.map (fun x => Table.get [] x.2.digests (e.lid.toNat % 2 ^ 32))).getD []
    startAt := s.me.startAt
    reserved := dom }).takeMarks s.cur

/-- The record could not be read: the slot stops. -/
def State.landingFails (s : State) (a : Word) : State :=
  (s.upd (fun p => { p with barrier := none })).stopSlot s.cur Cause.eccunc false a (BitVec.ofNat 64 (sizeCode 8 * 2 ^ 21 + 2 ^ 24))

/-- The arriving slot reads the record before the ember's first instruction (R26): the path names the context area and the image. -/
def State.settleLanding (s : State) (e : EmberPacket) : State :=
  match s.readPath s.cur 8 e.rcba with
  | (s, .wait) => s
  | (s, .bad a) => s.landingFails a
  | (s, .ok (path, _)) =>
    let g := match s.allPends.find? (fun q => decide (q.rcba = e.rcba) && q.threads.any (fun t => decide (t.slot = s.cur))) with
      | some q => q.g
      | none => rcbOf path
    let ca := g.savea + BitVec.ofNat 64 (131072 * (e.lid.toNat % 2 ^ 32))
    match s.readWords s.cur (ca + 0x10000) recordWords with
    | (s, .wait) => s
    | (s, .bad a) => s.landingFails a
    | (s, .ok ws) =>
      match s.readImage s.cur g.kaddr with
      | (s, .wait) => s
      | (s, .bad a) => s.landingFails a
      | (s, .ok image) => s.land e g (pathLseq path) (arrivedSlot e ws ca image.patches s.cur)

end Sys2Proof.Machine
end

