-- ==== Sys2Proof/Machine/Arrival.lean ====
section
/-! DEFINITION. The arrival grate: global windows (18_translation R280), the stream table with its windows, withheld releases and
their recovery, probes, faults at the target, and requests that are answered (21_flue R328 to R332, R317). -/
namespace Sys2Proof.Machine

/-! ## Global windows (R280) -/

/-- Window i covers bytes a to a + n − 1, and grants the rights. -/
def State.windowCovers (s : State) (i a n : Nat) : Bool :=
  let b := Table.get 0 s.pkg.gwb i
  let l := Table.get 0 s.pkg.gwl i
  bitW b 0 && decide (getField b 16 35 ≤ a / 65536) && decide ((a + n - 1) / 65536 ≤ getField l 16 35)
def State.windowGrants (s : State) (i : Nat) (need : BitVec 8) : Bool :=
  decide ((Table.get 0 s.pkg.gwl i).setWidth 8 &&& 0x1F &&& need = need)

/-- Whether an access from another package is admitted. -/
inductive Admission where
  | ok
  | miss
  | denied
  deriving DecidableEq, Repr

/-- Bytes a to a + n − 1 need to be populated and to lie in a valid window that grants every right; a word with a tag must carry
one. -/
def State.admit280 (s : State) (a n : Nat) (need : BitVec 8) : Admission :=
  let ws := (List.range 64).filter (fun i => s.windowCovers i a n)
  if ws.isEmpty || !s.populated a || !s.populated (a + n - 1) then .miss
  else if (need.getLsbD 3 && !carriesTag a) || !ws.any (fun i => s.windowGrants i need) then .denied
  else .ok

/-- Local address of a request to this package. -/
def hereOf : Loc → Nat
  | .here a => a
  | .there _ a => a

/-- Rights that an atomic needs (R128, R136, R138). -/
def needOf (r : AtomicReq) : BitVec 8 :=
  match r.op with
  | .ldfe => 0x0B
  | .stef => 0x0A
  | _ => atomicNeed r.ret.isSome

/-- Admission of a WRITE or ATOMIC flit. -/
def State.admitFlit (s : State) (f : WriteFlit) : Admission :=
  match f.atomic, f.reduce with
  | some r, _ => s.admit280 (hereOf r.loc) r.size (needOf r)
  | none, some r => s.admit280 (hereOf r.loc) r.size 0x12
  | none, none => s.admit280 f.block 64 0x02

/-- Admission of what a release does. -/
def State.admitBody (s : State) (b : ReleaseBody) : Admission :=
  match b with
  | .none => .ok
  | .write a bs tag => s.admit280 a (max bs.length 1) (if tag.isSome then 0x0A else 0x02)
  | .atomic r => s.admit280 (hereOf r.loc) r.size (needOf r)
  | .contribute r | .close r => s.admit280 (hereOf r.loc) r.size 0x12

/-! ## Applying -/

/-- The answer to a request (R317). -/
def State.respond (s : State) (dst : Nat) (r : AtomicReq) (x : Performed) : State :=
  match r.ret with
  | none => s
  | some id =>
    match x with
    | .done w handler => s.emit (.resp dst id (bytesOf w r.size) true (if handler then .handler else .ok))
    | .redconf => s.emit (.resp dst id [] false .redconf)
    | .ecc => s.emit (.resp dst id [] false .ecc)
    | .tag => s.emit (.resp dst id [] false .tag)

/-- What the source learns of an atomic that returns nothing: that uncorrectable data or an open reduction refused it, or that its
handler is not loaded (R128, R141, R145). -/
def reportOf : Performed → Option RespStatus
  | .done _ true => some .handler
  | .redconf => some .redconf
  | .ecc => some .ecc
  | _ => none

/-- An atomic of another package at its word, from a stream's window. -/
def State.applyAtomic (s : State) (w : WindowName) (r : AtomicReq) : State :=
  let a := hereOf r.loc
  let (s, x) := s.performAt { r with loc := .here a } a
  match r.ret, reportOf x with
  | none, some st => s.emit (.report w st r.ea (deferInfo r.pc (atomicInfo r)))
  | _, _ => s.respond (sidPkg w.sid) r x

/-- A contribution of another package, with the SEQ of its flit: it counts as applied once it has arrived at its reduction. -/
def State.applyReduction (s : State) (w : WindowName) (seq : Nat) (r : RedReq) : State :=
  let a := hereOf r.loc
  s.admitRed (grateOf a) a { r with loc := .here a, slot := foreign + seq, origin := some w }

/-- Bytes of a unit that a WRITE flit covers. -/
def coveredBy (f : WriteFlit) (u : Nat) : Nat :=
  ((List.range (unitSize u)).filter (fun i => decide (f.block ≤ u + i) && bitOf (f.mask % 2 ^ 64) (u + i - f.block))).length

/-- A unit with an uncorrectable error refuses bytes of a block that do not cover it whole (R128, R355). -/
def State.blockRefused (s : State) (f : WriteFlit) : Bool :=
  s.bad.any (fun e => e.2 && decide (coveredBy f e.1 ≠ 0) && decide (coveredBy f e.1 ≠ unitSize e.1))

/-- The window a write came in. -/
def windowIn (f : WriteFlit) : WindowName := ⟨f.sid, f.dst, f.win⟩

/-- The bytes of a block under its mask. -/
def State.applyBlock (s : State) (f : WriteFlit) : State :=
  if s.blockRefused f then s.emit (.report (windowIn f) .ecc 0 0)
  else
    { s with
      home := (List.range 64).foldl (fun m i => if bitOf f.mask i then Table.set unlisted m (f.block + i) ((f.bytes[i]?).getD 0) else m) s.home
      bad := s.bad.filter (fun e => decide (coveredBy f e.1 ≠ unitSize e.1)) }

def State.applyFlit (s : State) (f : WriteFlit) : State :=
  match f.atomic, f.reduce with
  | some r, _ => s.applyAtomic (windowIn f) r
  | none, some r => s.applyReduction (windowIn f) f.seq r
  | none, none => s.applyBlock f

/-- The request is refused where it is applied, so that no release that covers it is applied (R168). -/
def State.flitRefused (s : State) (f : WriteFlit) : Bool :=
  match f.atomic, f.reduce with
  | some r, _ => r.ret.isNone && (match reportOf (s.performAt { r with loc := .here (hereOf r.loc) } (hereOf r.loc)).2 with
      | some .redconf | some .ecc => true
      | _ => false)
  | none, some r => (match (s.grate (grateOf (hereOf r.loc))).open_.find? (fun o => decide (o.addr < hereOf r.loc + r.size) &&
        decide (hereOf r.loc < o.addr + o.size)) with
      | some o => decide (o.addr ≠ hereOf r.loc ∨ o.size ≠ r.size)
      | none => s.badAt (hereOf r.loc) r.size)
  | none, none => s.blockRefused f

def State.applyBody (s : State) (w : WindowName) (b : ReleaseBody) : State :=
  match b with
  | .none => s
  | .write a bs tag =>
    if s.writeRefused a (max bs.length 1) then s.emit (.report w .ecc 0 0)
    else
      let s := if bs = [] then s else s.writeHome a bs
      match tag with
      | some t => s.setHomeTag a t
      | none => s
  | .atomic r => s.applyAtomic w r
  | .contribute r => s.applyReduction w 0 r
  | .close r => s.closeAt (hereOf r.loc) { r with slot := foreign, origin := some w }

/-! ## The stream table (R328) -/

/-- Entries of one grate's table, and writes its hold buffer of 8 MiB takes at 128 bytes each. -/
def tableSize : Nat := 65536
def holdSize : Nat := 65536

/-- The entry of a SID, allocated with its oldest open window if there is room. -/
def State.openEntry (s : State) (sid low : Nat) : Option (State × StreamEntry) :=
  match s.entryOf sid with
  | some e => some (s, e)
  | none =>
    if tableSize ≤ (s.flue.table.filter (fun e => e.grate == sid % 4)).length then none
    else
      let e : StreamEntry := ⟨sid % 4, sid, low, [], s.dtime, none⟩
      some (s.setEntry e, e)

/-- Window w is older than the oldest open window. -/
def olderThan (w oldest : Nat) : Bool := w != oldest && decide (2 ^ 15 ≤ (w + 2 ^ 16 - oldest) % 2 ^ 16)

/-- A write of the window was refused where it was applied. -/
def StreamEntry.spoil (e : StreamEntry) (w : Nat) (refused : Bool) : StreamEntry :=
  e.setWin { e.win w with failed := (e.win w).failed || refused }

/-- A duplicate (R328). -/
def StreamEntry.seen (e : StreamEntry) (f : WriteFlit) : Bool :=
  olderThan f.win e.oldest || (e.win f.win).applied.contains f.seq

/-- The oldest window is closed. -/
def StreamEntry.close (e : StreamEntry) (now : Nat) : StreamEntry :=
  { e with wins := e.wins.filter (fun x => x.win != e.oldest), oldest := (e.oldest + 1) % 2 ^ 16, idleSince := now }

/-- The 4,096-bit bitmap of a window (R328). -/
def ArrWindow.bitmap (x : ArrWindow) : Nat :=
  match x.base with
  | none => 0
  | some b => (x.applied.map (fun q => 2 ^ ((q + 2 ^ 32 - b) % 2 ^ 32 % 4096))).foldl (· + ·) 0

/-- The window is closed by a count that its applied writes reach. -/
def ArrWindow.complete (x : ArrWindow) : Bool := x.base.isSome && decide (x.applied.length = x.n)
def ArrWindow.short (x : ArrWindow) : Bool := x.base.isSome && decide (x.applied.length < x.n)

/-- Windows that a release closes: SID and record (R329). -/
def windowsOf (f : ReleaseFlit) : List (Nat × CountRec) :=
  let named := if f.recs.length = 4 then (List.range 4).zip f.recs |>.map (fun e => (f.sid / 4 * 4 + e.1, e.2))
    else f.recs.map (fun r => (f.sid, r))
  named.filter (fun e => e.2.n != 0)

def releaseCovers (f : ReleaseFlit) (sid w : Nat) : Bool := (windowsOf f).any (fun e => e.1 == sid && e.2.win == w)

/-- The same flit with the records of some windows taken out, and nothing left to do at its location. -/
def releaseWithout (f : ReleaseFlit) (drop : Nat → Nat → Bool) : ReleaseFlit :=
  { f with
    body := .none
    recs := (List.range 4).map (fun i => (((windowsOf f).find? (fun e => e.1 % 4 == i && !drop e.1 e.2.win)).map (·.2)).getD
      ⟨0, 0, 0, ((f.recs[i]?).map (·.low)).getD 0⟩) }

/-- LOW of a closing flit's own stream (R328). -/
def releaseLow (f : ReleaseFlit) : Nat := ((f.recs[f.sid % 4]?).map (·.low)).getD 0

/-! ## Faults at the target (R332) -/

/-- The spark of a fault; FZSVC.V says whether it is sent. -/
def State.freezeSpark (s : State) (sid l kind : Nat) (right : Bool) (token : Nat) : State :=
  s.tellStoker (fld s.pkg.fzsvc.toNat 16 13, fld s.pkg.fzsvc.toNat 4 11) (BitVec.ofNat 64 sid) (BitVec.ofNat 64 l)
    (BitVec.ofNat 64 (kind + (if right then 4 else 0))) (BitVec.ofNat 64 token)

def State.takeToken (s : State) : State × Nat :=
  ({ s with flue := { s.flue with nextToken := (s.flue.nextToken + 1) % 2 ^ 32 } }, s.flue.nextToken)

/-- The oldest window of a stream is refused: its held writes go, a release that covers it is never applied, and the source learns
what had been applied. -/
def State.refuseWindow (s : State) (sid dst : Nat) : State :=
  match s.entryOf sid with
  | none => s
  | some e =>
    let w := e.oldest
    let bits := ((e.win w).applied.map (fun q => 2 ^ (q % 4096))).foldl (· + ·) 0
    let drop (f : ReleaseFlit) : Bool := releaseCovers f sid w || (f.sid == sid && f.body != ReleaseBody.none)
    let s := s.setEntry { e.close s.dtime with frozen := none }
    let s := { s with flue := { s.flue with
      hold := s.flue.hold.filter (fun h => !(h.2.sid == sid && h.2.win == w))
      withheld := (s.flue.withheld.map (fun (x : Withheld) =>
        if drop x.flit then { x with flit := releaseWithout x.flit (fun a b => a == sid && b == w) } else x)).filter (fun x =>
          !(x.flit.body == ReleaseBody.none && !x.flit.probe && (windowsOf x.flit).isEmpty)) } }
    s.emit (.resume ⟨sid, dst, w⟩ (some bits))

/-- A withheld PROBE of the slot of a stream that freezes is answered at once, and closes its windows as a COUNTREL does (R331). -/
def State.answerProbes (s : State) (sid : Nat) : State :=
  let mine (x : Withheld) : Bool := x.flit.probe && x.flit.sid / 4 == sid / 4
  let probes := s.flue.withheld.filter mine
  let s := { s with flue := { s.flue with withheld := (s.flue.withheld.map (fun (x : Withheld) =>
    if mine x then { x with flit := { x.flit with probe := false, body := .none } } else x)).filter (fun x =>
      !(x.flit.body == ReleaseBody.none && !x.flit.probe && (windowsOf x.flit).isEmpty)) } }
  probes.foldl (fun s x => s.emit (.probeack ⟨x.flit.sid, x.flit.dst, 0⟩ true)) s

/-- The stream freezes at a request that is not admitted; while FZSVC.V = 0 it is refused at once. -/
def State.freeze (s : State) (sid dst seq l kind : Nat) (right : Bool) : State :=
  if !bitW s.pkg.fzsvc 63 then s.refuseWindow sid dst
  else match s.entryOf sid with
    | none => s
    | some e =>
      let (s, token) := s.takeToken
      (((s.setEntry { e with frozen := some token }).emit (.frozen ⟨sid, dst, e.oldest⟩ seq)).freezeSpark sid l kind right token).answerProbes
        sid

/-- A request that is answered is held with a token, or refused at once (R332). -/
def State.holdRequest (s : State) (grate src id sid l kind : Nat) (right : Bool) (body : FlitBody) : State :=
  if !bitW s.pkg.fzsvc 63 then s.emit (.resp src id [] false .refused)
  else
    let (s, token) := s.takeToken
    ({ s with flue := { s.flue with faulted := s.flue.faulted ++ [(⟨grate, token, body⟩ : Faulted)] } }).freezeSpark sid l kind right token

/-! ## Writes (R328) -/

/-- A write of the oldest window: applied and marked; or, not admitted, the stream freezes with it held. A returning atomic is held
alone. -/
def State.takeWrite (s : State) (f : WriteFlit) : State :=
  match s.entryOf f.sid with
  | none => s
  | some e =>
    match s.admitFlit f with
    | .ok =>
      let t := s.applyFlit f
      match t.entryOf f.sid with
      | some e => t.setEntry ((if f.reduce.isSome then e else e.mark f.win f.seq).spoil f.win (s.flitRefused f))
      | none => t.setEntry e
    | bad =>
      match f.atomic.bind (·.ret) with
      | some id =>
        let t := s.holdRequest (f.sid % 4) (sidPkg f.sid) id f.sid f.block 1 (bad == Admission.denied) (.atomic f)
        if bitW s.pkg.fzsvc 63 then t else t.setEntry (e.mark f.win f.seq)
      | none =>
        ({ s with flue := { s.flue with hold := (e.grate, f) :: s.flue.hold } }).freeze f.sid f.dst f.seq f.block
          (if writePlain f then 0 else 1) (bad == Admission.denied)

/-- The write is among those held. -/
def State.heldAlready (s : State) (f : WriteFlit) : Bool :=
  s.flue.hold.any (fun h => h.2.sid == f.sid && h.2.win == f.win && h.2.seq == f.seq) ||
  s.flue.faulted.any (fun h => match h.body with
    | .atomic g => g.sid == f.sid && g.win == f.win && g.seq == f.seq
    | _ => false) ||
  s.grates.any (fun g => g.2.held.any (fun r => r.origin == some (windowIn f) && r.slot == foreign + f.seq))

/-- Every window of a withheld flit is the oldest of its stream and complete, and neither it nor the flit's own stream is frozen. -/
def State.releasable (s : State) (f : ReleaseFlit) : Bool :=
  (windowsOf f).all (fun x => match s.entryOf x.1 with
    | some e => e.oldest == x.2.win && (e.win x.2.win).complete && e.frozen.isNone
    | none => false) &&
  (match s.entryOf f.sid with
    | some e => e.frozen.isNone
    | none => true)

/-- The acknowledgements of a flit that is done (R329, R331). -/
def State.acknowledge (s : State) (f : ReleaseFlit) : State :=
  if f.probe then s.emit (.probeack ⟨f.sid, f.dst, 0⟩ false)
  else if (windowsOf f).isEmpty then s.emit (.flagack ⟨f.sid, f.dst, 0⟩)
  else (windowsOf f).foldl (fun s x => s.emit (.flagack ⟨x.1, f.dst, x.2.win⟩)) s

/-- A withheld flit whose windows are complete: its effect, then its windows close. A release that covers a refused write is never
applied (R168). -/
def State.finishRelease (s : State) (x : Withheld) : State :=
  let spoiled := (windowsOf x.flit).any (fun y => match s.entryOf y.1 with
    | some e => (e.win y.2.win).failed
    | none => false)
  let f := if spoiled then { x.flit with body := .none } else x.flit
  match s.admitBody f.body with
  | .ok =>
    let s := { s with flue := { s.flue with withheld := s.flue.withheld.filter (fun y => y != x) } }
    let s := s.applyBody ⟨f.sid, f.dst, 2 ^ 16⟩ f.body
    let s := (windowsOf f).foldl (fun s y => match s.entryOf y.1 with
      | some e => s.setEntry (e.close s.dtime)
      | none => s) s
    s.acknowledge f
  | bad =>
    let l := match f.body with
      | .write a _ _ => a
      | .atomic r => hereOf r.loc
      | .contribute r | .close r => hereOf r.loc
      | .none => 0
    let kind := match f.body with
      | .atomic _ => 1
      | _ => 0
    match s.openEntry f.sid (releaseLow f) with
    | some (s, _) => s.freeze f.sid f.dst 0 l kind (bad == Admission.denied)
    | none => s

/-- The oldest window of a stream was given up: it closes with what was applied. -/
def State.abandoned (s : State) : Option StreamEntry :=
  s.flue.table.find? (fun e => (e.win e.oldest).complete && e.frozen.isNone && !s.flue.withheld.any (fun x => releaseCovers x.flit e.sid e.oldest))

/-- A held write that may be taken, or is a duplicate. -/
def State.nextHeld (s : State) : Option (Nat × WriteFlit) :=
  s.flue.hold.find? (fun h => match s.entryOf h.2.sid with
    | some e => e.frozen.isNone && (h.2.win == e.oldest || e.seen h.2)
    | none => true)

/-- Releases, closed windows and held writes as far as they go. -/
def State.settleStreams : Nat → State → State
  | 0, s => s
  | n + 1, s =>
    match s.flue.withheld.find? (fun x => s.releasable x.flit) with
    | some x => settleStreams n (s.finishRelease x)
    | none =>
      match s.abandoned with
      | some e => settleStreams n (s.setEntry (e.close s.dtime))
      | none =>
        match s.nextHeld with
        | none => s
        | some h =>
          let t := { s with flue := { s.flue with hold := s.flue.hold.filter (fun x => x != h) } }
          match t.entryOf h.2.sid with
          | some e => settleStreams n (if e.seen h.2 then t else t.takeWrite h.2)
          | none => settleStreams n t

/-- Everything that can happen at the arrival grates happens. -/
def State.settleArrivals (s : State) : State :=
  State.settleStreams (2 * (s.flue.hold.length + s.flue.withheld.length + s.flue.table.length) + 4) s

/-- Flits in the hold buffer of a grate. -/
def State.heldAt (s : State) (grate : Nat) : Nat := (s.flue.hold.filter (fun h => h.1 == grate)).length

/-- The hold buffer of a grate is nearly full: from here on the lossless class is paused, so that the ATOMICs on their way find room: 512 on
each of the 32 links (R320, R321). -/
def nearlyFull : Nat := holdSize - 32 * 512

/-- Flits of the lossless class must wait (R321). -/
def State.wantsPause (s : State) : Bool := (List.range 4).any (fun g => decide (nearlyFull ≤ s.heldAt g))

/-- The links that feed the grates are told to stop the lossless class, or to go on (R321). -/
def State.pauseStep (s : State) : State :=
  let want := s.wantsPause
  ((List.range 32).filter (fun p => (s.link p).live && (s.link p).pausing != want)).foldl (fun s p =>
    (s.updLink p (fun l => { l with pausing := want })).sendControl p (.pause want)) s

/-- A write that arrives in its stream. A lossless ATOMIC is never discarded (R321). -/
def State.arriveWrite (s : State) (e : StreamEntry) (f : WriteFlit) : State :=
  if e.seen f || s.heldAlready f then s
  else if e.frozen.isNone ∧ f.win = e.oldest then s.takeWrite f
  else if holdSize ≤ s.heldAt e.grate ∧ writePlain f then
    { s with pkg := { s.pkg with discards := s.pkg.discards + 1 } }
  else { s with flue := { s.flue with hold := s.flue.hold ++ [(e.grate, f)] } }

/-- WRITE_ARRIVAL (R328): all traffic of a SID enters at grate SID[1:0] (R324). -/
def execWriteArrival (grate : Nat) (f : WriteFlit) (s : State) : Out :=
  .next (if grate ≠ f.sid % 4 then s
    else match s.openEntry f.sid f.low with
      | none => s.emit (.notable ⟨f.sid, f.dst, f.win⟩ f.seq)
      | some (s, e) => (s.arriveWrite e f).settleArrivals)

/-! ## Releases and probes (R329, R331) -/

/-- Entries of every stream whose window the flit closes. -/
def State.openEntries (s : State) : List (Nat × CountRec) → Option State
  | [] => some s
  | (sid, r) :: rest =>
    match s.openEntry sid r.low with
    | some (s, _) => s.openEntries rest
    | none => none

/-- A window learns BASE and n. -/
def State.closeWindow (s : State) (x : Nat × CountRec) : State :=
  match s.entryOf x.1 with
  | some e => s.setEntry (e.setWin { e.win x.2.win with base := some x.2.base, n := x.2.n })
  | none => s

/-- A closing flit arrives: records of windows already closed are dropped, and what it does with them; a flit all of whose windows
are closed is a duplicate. -/
def State.arriveRelease (s : State) (grate : Nat) (f : ReleaseFlit) : State :=
  match s.openEntries (windowsOf f) with
  | none => match (windowsOf f) with
    | (sid, r) :: _ => s.emit (.notable ⟨sid, f.dst, r.win⟩ r.base)
    | [] => s
  | some s =>
    let gone (sid w : Nat) : Bool := match s.entryOf sid with
      | some e => olderThan w e.oldest
      | none => false
    let g := if (windowsOf f).any (fun x => gone x.1 x.2.win) then releaseWithout f gone else f
    if !(windowsOf f).isEmpty && (windowsOf g).isEmpty && !f.probe then s
    else if s.flue.withheld.any (fun x => x.flit == g) then s
    else
      let s := (windowsOf g).foldl State.closeWindow s
      ({ s with flue := { s.flue with withheld := s.flue.withheld ++ [(⟨grate, g, s.dtime⟩ : Withheld)] } }).settleArrivals

/-- RELEASE_ARRIVAL (R329). -/
def execReleaseArrival (grate : Nat) (f : ReleaseFlit) (s : State) : Out :=
  .next (if grate ≠ f.sid % 4 then s else s.arriveRelease grate f)

/-- PROBE (R331): a frozen stream is reported at once, and its windows close as by a COUNTREL. -/
def execProbe (grate : Nat) (f : ReleaseFlit) (s : State) : Out :=
  .next (if grate ≠ f.sid % 4 then s
    else if (List.range 4).any (fun i =>
        match s.entryOf (f.sid / 4 * 4 + i) with
        | some e => e.frozen.isSome
        | none => false) then
      let t := s.emit (.probeack ⟨f.sid, f.dst, 0⟩ true)
      if (windowsOf f).isEmpty then t else t.arriveRelease grate { f with probe := false, body := .none }
    else s.arriveRelease grate { f with probe := true })

/-! ## Recovery (R330) -/

/-- The window is short of its count, 100 µs after the flit that closes it or after the last round. -/
def State.shortDue (s : State) (a : WindowName) : Bool :=
  match s.entryOf a.sid with
  | none => false
  | some e =>
    (e.win a.win).short && e.frozen.isNone && !s.flue.faulted.any (fun h => match h.body with
      | .atomic g => g.sid == a.sid && g.win == a.win
      | _ => false) && !s.grates.any (fun g => g.2.held.any (fun r => r.origin == some a && !g.2.later r)) &&
    s.flue.withheld.any (fun x => releaseCovers x.flit a.sid a.win && x.flit.dst == a.dst &&
      decide (x.since + 100000 * ((e.win a.win).rounds + 1) ≤ s.dtime))

/-- The window closes with what was applied, and the release that covers it is discarded. -/
def State.giveUp (s : State) (a : WindowName) (e : StreamEntry) : State :=
  let w := e.win a.win
  let s := s.setEntry (e.setWin { w with n := w.applied.length })
  let s := { s with flue := { s.flue with
    hold := s.flue.hold.filter (fun h => !(h.2.sid == a.sid && h.2.win == a.win))
    withheld := (s.flue.withheld.map (fun (x : Withheld) =>
      if releaseCovers x.flit a.sid a.win then { x with flit := releaseWithout x.flit (fun p q => p == a.sid && q == a.win) } else x)).filter (fun x =>
        !(x.flit.body == ReleaseBody.none && (windowsOf x.flit).isEmpty)) } }
  (s.emit (.giveup a w.bitmap)).settleArrivals

/-- SHORTFALL_TIMEOUT (R330): a round, and after the third the GIVEUP. -/
def execShortfallTimeout (grate : Nat) (a : WindowName) (s : State) : Out :=
  .next (if !s.shortDue a || grate != a.sid % 4 then s
    else match s.entryOf a.sid with
      | none => s
      | some e =>
        let w := e.win a.win
        if w.rounds < 3 then
          (s.setEntry (e.setWin { w with rounds := w.rounds + 1 })).emit (.shortfall a (w.base.getD 0) w.n w.bitmap)
        else s.giveUp a e)

/-- The entry may be freed (R328). -/
def State.entryIdle (s : State) (e : StreamEntry) : Bool :=
  e.wins.isEmpty && e.frozen.isNone && decide (e.idleSince + 100000 ≤ s.dtime) && !s.flue.hold.any (fun h => h.2.sid == e.sid) &&
  !s.flue.withheld.any (fun x => x.flit.sid == e.sid)

/-- STREAM_ENTRY_FREE (R328). -/
def execStreamEntryFree (grate sid : Nat) (s : State) : Out :=
  .next { s with flue := { s.flue with table := s.flue.table.filter (fun e => !(e.grate == grate && e.sid == sid && s.entryIdle e)) } }

/-! ## Requests that are answered (R317, R332) -/

/-- Rights and length of a request. -/
def State.admitRead (s : State) (f : ReadFlit) : Admission :=
  match f.atomic with
  | some r => s.admit280 (hereOf r.loc) r.size (needOf r)
  | none => s.admit280 f.a f.size (if f.tagged then 0x09 else 0x01)

/-- The request is served. -/
def State.serve (s : State) (f : ReadFlit) : State :=
  match f.atomic with
  | some r => s.applyAtomic ⟨f.sid, f.dst, 2 ^ 16⟩ r
  | none =>
    if s.badAt f.a f.size then s.emit (.resp (sidPkg f.sid) f.id [] false .ecc)
    else s.emit (.resp (sidPkg f.sid) f.id (s.homeBytes f.a f.size) (s.homeTag f.a) .ok)

/-- REMOTE_READ (R317). -/
def execRemoteRead (grate : Nat) (f : ReadFlit) (s : State) : Out :=
  .next (match s.admitRead f with
    | .ok => s.serve f
    | bad => s.holdRequest grate (sidPkg f.sid) f.id f.sid f.a (if f.atomic.isSome then 1 else 2) (bad == Admission.denied) (.read f))

/-- The held request of a token. -/
def State.faultedBy (s : State) (token : Nat) : Option Faulted := s.flue.faulted.find? (fun h => h.token == token)

def State.dropFaulted (s : State) (h : Faulted) : State :=
  { s with flue := { s.flue with faulted := s.flue.faulted.filter (fun x => x != h) } }

/-- FZCTL_RETRY (R332): the held flits again in order, and RESUME; an unknown token is ignored. -/
def execFzctlRetry (grate token : Nat) (s : State) : Out :=
  match s.faultedBy token with
  | some h =>
    match h.body with
    | .read f => execRemoteRead h.grate f (s.dropFaulted h)
    | .atomic f => .next ((s.dropFaulted h).takeWrite f).settleArrivals
    | _ => .next (s.dropFaulted h)
  | none =>
    match s.flue.table.find? (fun e => e.frozen == some token && e.grate == grate) with
    | some e =>
      let s := s.setEntry { e with frozen := none }
      let s := { s with flue := { s.flue with withheld := s.flue.withheld.map (fun (x : Withheld) =>
        if x.flit.sid / 4 = e.sid / 4 then { x with since := s.dtime } else x) } }
      .next (s.emit (.resume ⟨e.sid, s.pkg.number, e.oldest⟩ none)).settleArrivals
    | none => .next s

/-- FZCTL_REFUSE (R332). -/
def execFzctlRefuse (grate token : Nat) (s : State) : Out :=
  .next (match s.faultedBy token with
    | some h =>
      match h.body with
      | .read f => match f.atomic.map (·.ret) with
        | some none => s.dropFaulted h
        | _ => (s.dropFaulted h).emit (.resp (sidPkg f.sid) f.id [] false .refused)
      | .atomic f =>
        let s := (s.dropFaulted h).emit (.resp (sidPkg f.sid) ((f.atomic.bind (·.ret)).getD 0) [] false .refused)
        (match s.entryOf f.sid with
          | some e => s.setEntry (e.mark f.win f.seq)
          | none => s).settleArrivals
      | _ => s.dropFaulted h
    | none =>
      match s.flue.table.find? (fun e => e.frozen == some token && e.grate == grate) with
      | some e => (s.refuseWindow e.sid s.pkg.number).settleArrivals
      | none => s)

end Sys2Proof.Machine
end

