-- ==== Sys2Proof/Machine/Acks.lean ====
section
/-! DEFINITION. What comes back to the source package: acknowledgements, recovery, probes and freezes (21_flue R327 to R332), lost
paths (R331), and the answers to requests (R317, 09_memory R124, R136). -/
namespace Sys2Proof.Machine

/-! ## Answers -/

/-- Runs an effect of the instruction a slot waits in, outside its turn. -/
def State.asSlot (s : State) (slot : Nat) (f : State → State) : State :=
  let t := f { s with cur := slot, inFrame := false }
  { t with cur := s.cur, inFrame := s.inFrame }

/-- A look at the tag of a parked slot: the park ends, or the slot looks again. -/
def State.pollAnswer (s : State) (slot : Nat) (t : RemoteTag) (tag : Bool) (x : RespStatus) : State :=
  let drop (s : State) : State := s.updSlot slot (fun p => { p with remoteTag := none })
  match (s.slot slot).park with
  | some ⟨.tag _ full _, _, false, _, _, _⟩ =>
    if x != .ok || tag == full then (drop s).wake slot false else s.asSlot slot (fun s => s.pollTag t)
  | _ => drop s

/-- The answer of an instruction that waits where it stands is kept for the slot's own turn (R105, R109). -/
def Slot.keepReply (p : Slot) (t : RemoteTag) (r : TagReply) : Slot := { p with remoteTag := some { t with answer := some r } }

/-- Cause and EADDR of a code read that failed: its offset or its address. -/
def fetchAddr (key : Nat) : Word := if key < 2 ^ 72 then BitVec.ofNat 64 (key / 2) else BitVec.ofNat 64 key

def causeOf : RespStatus → Nat
  | .ecc => Cause.eccunc
  | .redconf => Cause.redconf
  | _ => Cause.pagefail

/-- EINFO's access fields of a code, overlay or record read (R108). -/
def fetchInfo (key : Nat) : Word :=
  if key < 2 ^ 70 then (codeAccess (fetchAddr key) (if key % 2 = 1 then 8 else 4)).einfo
  else if key < 2 ^ 72 then (overlayAccess ⟨0, 0, key % 2, 0, (key - 2 ^ 70) / 2, 0, false⟩).einfo
  else BitVec.ofNat 64 (sizeCode 8 * 2 ^ 21 + 2 ^ 24)

/-- A collier's read is refused: its command learns of it (R303). -/
def State.failCopyRead (s : State) (slot id cause : Nat) : State :=
  s.updSlot slot (fun p => { p with remoteFetch := p.remoteFetch.map (fun (e : RemoteRead) =>
    if e.id = id then { e with answer := some 0, fail := some cause } else e) })

/-- A slot that reads code, an image or a record gets its answer; uncorrectable data is met by the read itself (R58, R107), and a
refusal is a deferred trap. -/
def State.fetchAnswer (s : State) (slot id : Nat) (bytes : List Byte) (tag : Bool) (x : RespStatus) : State :=
  match (s.slot slot).remoteFetch.find? (fun e => e.id == id) with
  | none => s
  | some r =>
    if x = .ok ∨ x = .handler ∨ x = .ecc then
      s.updSlot slot (fun p => { p with remoteFetch := p.remoteFetch.map (fun (e : RemoteRead) =>
        if e.id = id then { e with answer := some (BitVec.ofNat 64 (leNat bytes)), bad := decide (x = .ecc), tag := tag } else e) })
    else if slotNo slot = 15 then s.failCopyRead slot id (causeOf x)
    else s.updSlot slot (fun p => { p.defer (causeOf x) (fetchAddr r.key) (deferInfo (p.pc.toNat % 2 ^ 32) (fetchInfo r.key)) with
      remoteFetch := p.remoteFetch.filter (fun e => e.id != id) })

/-- The destination of a returning atomic of this package, by its answer's name. -/
def State.atomicOf (s : State) (id : Nat) : Option Nat :=
  match s.flue.store.find? (fun e => (e.flit.atomic.bind (·.ret)) == some id) with
  | some e => some e.flit.dst
  | none => (s.flue.releases.find? (fun r => match r.flit.body with
      | .atomic q => q.ret == some id
      | _ => false)).map (·.dst)

/-- A returning atomic that was refused is a write that was not applied: FENCES counts it, and no later release covers it (R128, R148,
R168). -/
def State.unwritten (s : State) (slot id : Nat) (x : RespStatus) : State :=
  match s.atomicOf id with
  | none => s
  | some d => match x with
    | .ecc => s.updSlot slot (fun p => (p.failWrites 1 Fence.eccloss).loses d)
    | .refused => s.updSlot slot (fun p => (p.failWrites 1 Fence.refused).loses d)
    | _ => s

/-- An answer for a fill, or for code. -/
def State.fillAnswer (s : State) (i id : Nat) (bytes : List Byte) (tag : Bool) (x : RespStatus) : State :=
  let s := s.fetchAnswer i id bytes tag x
  match x with
  | .ok => s.answer i id bytes tag
  | .handler => (s.answer i id bytes tag).updSlot i (fun p => p.fenceBit Fence.refused)
  | _ => match (s.slot i).fills.find? (fun f => f.waits.any (fun w => w.id == id)) with
    | some f => ((s.unwritten i id x).refuse i id (causeOf x)
        (((f.waits.find? (fun w => w.id == id)).bind (·.ea)).getD f.ea) f.einfo)
    | none => s

/-- The slot's tagged access waits for the answer. -/
def Slot.asks (p : Slot) (id : Nat) : Bool :=
  match p.remoteTag with
  | some t => t.id == id
  | none => false

/-- An answer reaches the slot that waits for it (R317). -/
def State.takeAnswer (s : State) (id : Nat) (bytes : List Byte) (tag : Bool) (x : RespStatus) : State :=
  match s.slots.find? (fun e => e.2.fills.any (fun f => f.waits.any (fun w => w.id == id)) || e.2.asks id ||
      e.2.remoteFetch.any (fun r => r.id == id)) with
  | none => match s.pkg.decrements.find? (fun e => e.1 == id) with
    | some e => s.tookDecrement id e.2 (leNat bytes) (x == .ok || x == .handler)
    | none => s
  | some (i, p) =>
    if p.asks id then
      match p.remoteTag with
      | some t => if t.poll then s.pollAnswer i t tag x else s.updSlot i (fun p => p.keepReply t (.got bytes tag x))
      | none => s
    else s.fillAnswer i id bytes tag x

/-! ## Lost and acknowledged windows -/

/-- The answer that a lost request would have brought does not come (R107, R331). -/
def State.loseAnswer (s : State) (slot id : Nat) (ea : Word) : State :=
  match (s.slot slot).remoteTag with
  | some t => if t.id = id then s.updSlot slot (fun p => p.keepReply t (.lost ea)) else s.refuse slot id Cause.remote ea 0
  | none => s.refuse slot id Cause.remote ea 0

/-- Entries of the send store in a window. -/
def State.windowEntries (s : State) (a : WindowName) : List SendEntry :=
  s.flue.store.filter (fun e => e.flit.sid == a.sid && e.flit.dst == a.dst && e.flit.win == a.win)

/-- The window's entries are freed, and the stream forgets it (R327). -/
def State.freeWindow (s : State) (a : WindowName) : State :=
  let t := s.stream a.sid a.dst
  let s := s.setStream { t with wins := t.wins.filter (fun w => w.win != a.win) }
  { s with flue := { s.flue with
    store := s.flue.store.filter (fun e => !(e.flit.sid == a.sid && e.flit.dst == a.dst && e.flit.win == a.win)) } }

/-- Requests of lost entries that would have been answered. -/
def State.loseEntries (s : State) (slot : Nat) (es : List SendEntry) : State :=
  es.foldl (fun s e => match e.flit.atomic with
    | some r => match r.ret with
      | some id => s.loseAnswer slot id (s.globalOf r.loc)
      | none => s
    | none => s) s

/-- A loss in a collier's stream is that of the command in its running position (R299, R324), but for what a unit of the package wrote on
it (log 47). -/
def State.loseCopy (s : State) (sid : Nat) (unit : Bool) : State :=
  if slotNo (sidSlot sid) = 15 ∧ unit = false then s.updCore (coreOf (sidSlot sid)) (fun c => { c with
    commands := c.commands.map (fun (k : Command) => if k.pos = some (sid % 4) then { k with lost := true } else k) })
  else s

/-- A release that had not left: the windows it was to close, as far as they are left, close by COUNTRELs. -/
def State.countInstead (s : State) (r : OutRelease) : State :=
  (windowsOf r.flit).foldl (fun s x =>
    if (s.stream x.1 r.dst).wins.any (fun w => w.win == x.2.win) then s.sendCount x.1 r.dst x.2 else s) s

/-- A decrement in another package that is lost has no answer. -/
def State.loseDecrement (s : State) (b : ReleaseBody) : State :=
  match b with
  | .atomic q => { s with pkg := { s.pkg with decrements := s.pkg.decrements.filter (fun e => q.ret != some e.1) } }
  | _ => s

/-- A release is never applied: its slot takes REMOTE (R168, R330); one of a unit of the package is nobody's. -/
def State.failRelease (s : State) (r : OutRelease) : State :=
  let s := s.loseCopy r.flit.sid r.unit
  let s := { s with flue := { s.flue with releases := s.flue.releases.filter (fun x => x != r) } }
  let s := if r.queued then s.countInstead r else s
  if r.unit then s.loseDecrement r.flit.body
  else match r.flit.body with
  | .atomic q => match q.ret with
    | some id => s.loseAnswer r.slot id r.ea
    | none => s.updSlot r.slot (fun p => p.defer Cause.remote r.ea (deferInfo r.pc 0))
  | _ => s.updSlot r.slot (fun p => p.defer Cause.remote r.ea (deferInfo r.pc 0))

/-- The release, or probe, that closed a window. -/
def State.closer (s : State) (a : WindowName) : Option OutRelease :=
  s.flue.releases.find? (fun r => r.slot == sidSlot a.sid && r.dst == a.dst && r.wins.contains a)

/-- A probe no longer waits for a window. -/
def State.probeWithout (s : State) (r : OutRelease) (a : WindowName) : State :=
  { s with flue := { s.flue with releases := (s.flue.releases.map (fun (x : OutRelease) =>
    if x = r then { x with wins := x.wins.filter (fun w => w != a) } else x)).filter (fun x => !(x.flit.probe && x.wins.isEmpty && x.slot == r.slot && x.dst == r.dst)) } }

/-- A window is lost but for the entries that had been applied: the count, the status bit, and REMOTE for a release that covers it
(R330, R332). -/
def State.loseWindow (s : State) (a : WindowName) (applied : SendEntry → Bool) (bit_ : Nat) : State :=
  let slot := sidSlot a.sid
  let lost := (s.windowEntries a).filter (fun e => !applied e)
  let mine := lost.filter (fun e => !e.unit)
  let s := if mine = [] then s else s.loseCopy a.sid false
  let s := if mine = [] ∧ lost ≠ [] then s
    else (s.updSlot slot (fun p => (p.failWrites mine.length bit_).loses a.dst)).loseEntries slot mine
  let closer := s.closer a
  let s := s.freeWindow a
  match closer with
  | some r => if r.flit.probe then s.probeWithout r a else s.failRelease r
  | none => s

/-- Base of a window at the source. -/
def State.windowBaseOf (s : State) (a : WindowName) : Nat :=
  (((s.stream a.sid a.dst).wins.find? (fun w => w.win == a.win)).map (·.base)).getD 0

/-- The bit of a bitmap for an entry. -/
def bitFor (bitmap base : Nat) (e : SendEntry) : Bool := bitOf bitmap ((e.flit.seq + 2 ^ 32 - base) % 2 ^ 32 % 4096)

/-- FLAGACK (R327, R329): a closed window's entries are freed, and its release is done once all its windows are acknowledged; a release
that closed none is done at once. -/
def State.flagack (s : State) (a : WindowName) : State :=
  if (s.stream a.sid a.dst).wins.any (fun w => w.win == a.win && w.closed) then
    let s := s.freeWindow a
    { s with flue := { s.flue with releases := (s.flue.releases.map (fun (x : OutRelease) =>
      { x with wins := x.wins.filter (fun w => w != a) })).filter (fun x =>
        !(x.wins.isEmpty && x.slot == sidSlot a.sid && x.dst == a.dst && !x.flit.probe && !(windowsOf x.flit).isEmpty)) } }
  else { s with flue := { s.flue with releases := s.flue.releases.filter (fun x =>
    !(x.sids == [a.sid] && x.dst == a.dst && !x.flit.probe && (windowsOf x.flit).isEmpty)) } }

def execFlagack (a : WindowName) (s : State) : Out := .next (s.flagack a)

/-- Two entries are the same write: its place in its stream is. -/
def SendEntry.same (e x : SendEntry) : Bool :=
  x.flit.sid == e.flit.sid && x.flit.dst == e.flit.dst && x.flit.win == e.flit.win && x.flit.seq == e.flit.seq

/-- The entry goes, and its write is counted: one of a unit of the package is nobody's (log 47). -/
def State.dropEntry (s : State) (e : SendEntry) (bit_ : Nat) : State :=
  let s := { s with flue := { s.flue with store := s.flue.store.filter (fun x => !e.same x) } }
  if e.unit then s
  else ((s.loseCopy e.flit.sid false).updSlot e.slot (fun p => (p.failWrites 1 bit_).loses e.flit.dst)).loseEntries e.slot [e]

/-- An entry whose bytes are uncorrectable cannot be sent: its write is refused and counted (R128, R355). -/
def State.spoilEntry (s : State) (e : SendEntry) : State := s.dropEntry e Fence.eccloss

/-- A send-store entry goes out again. -/
def State.resend (s : State) (e : SendEntry) : State :=
  if e.bad then s.spoilEntry e else s.emit (if writePlain e.flit then .write e.flit else .atomic e.flit)

/-- SHORTFALL (R330): every write whose bit is clear is sent again. -/
def State.shortfall (s : State) (a : WindowName) (bitmap : Nat) : State :=
  let base := s.windowBaseOf a
  let es := s.windowEntries a
  let s := { s with flue := { s.flue with store := s.flue.store.map (fun (e : SendEntry) =>
    if es.contains e ∧ bitFor bitmap base e then { e with applied := true } else e) } }
  (es.filter (fun e => !bitFor bitmap base e)).foldl State.resend s

def execShortfall (a : WindowName) (bitmap : Nat) (s : State) : Out := .next (s.shortfall a bitmap)

/-- GIVEUP (R330). -/
def State.giveup (s : State) (a : WindowName) (bitmap : Nat) : State :=
  if (s.stream a.sid a.dst).wins.any (fun w => w.win == a.win) then
    s.loseWindow a (bitFor bitmap (s.windowBaseOf a)) Fence.exhaust
  else s

def execGiveup (a : WindowName) (bitmap : Nat) (s : State) : Out := .next (s.giveup a bitmap)

/-! ## Reports of refusals (R141, R145, R148, R152) -/

/-- A write of a window was refused: a release that closed the window is never applied, nor is a later one (R168). -/
def State.uncover (s : State) (a : WindowName) : State :=
  match s.closer a with
  | some r => if r.flit.probe then s.updSlot (sidSlot a.sid) (fun p => p.loses a.dst)
    else (s.failRelease r).updSlot (sidSlot a.sid) (fun p => p.loses a.dst)
  | none => s.updSlot (sidSlot a.sid) (fun p => p.loses a.dst)

/-- What a report of a window tells of was a unit's: every entry of the window, and every release on its stream, is one. -/
def State.unitWindow (s : State) (a : WindowName) : Bool :=
  let es := s.windowEntries a
  let rs := s.flue.releases.filter (fun r => r.flit.sid == a.sid && r.dst == a.dst)
  !(es.isEmpty && rs.isEmpty) && es.all (fun e => e.unit) && rs.all (fun r => r.unit)

/-- What became of a write, an atomic, a contribution or a message at its target. -/
def State.takeReport (s : State) (a : WindowName) (x : RespStatus) (ea einfo : Word) : State :=
  let i := sidSlot a.sid
  if s.unitWindow a then s
  else match x with
  | .ecc => ((s.loseCopy a.sid false).updSlot i (fun p => p.failWrites 1 Fence.eccloss)).uncover a
  | .redconf => (s.updSlot i (fun p => p.defer Cause.redconf ea einfo)).uncover a
  | .handler | .refused => s.updSlot i (fun p => p.fenceBit Fence.refused)
  | _ => s

/-! ## A full table (R328) -/

/-- The entry of a window with a SEQ. -/
def State.entryAt (s : State) (a : WindowName) (seq : Nat) : Option SendEntry := (s.windowEntries a).find? (fun e => e.flit.seq == seq)

def State.setBackoff (s : State) (e : SendEntry) (b : Option (Nat × Nat × Nat)) : State :=
  { s with flue := { s.flue with store := s.flue.store.map (fun (x : SendEntry) => if x = e then { x with backoff := b } else x) } }

/-- The write is declared lost: its entry is freed and counted. -/
def State.loseEntry (s : State) (e : SendEntry) : State := s.dropEntry e Fence.exhaust

/-- NOTABLE: the next try after 1 µs, doubling up to 64 µs; after 10 ms of refusals the write is lost. -/
def State.notable (s : State) (a : WindowName) (seq : Nat) : State :=
  match s.entryAt a seq with
  | none => s
  | some e =>
    match e.backoff with
    | none => s.setBackoff e (some (s.dtime, 1000, s.dtime + 1000))
    | some (since, wait, _) =>
      if since + 10 ^ 7 ≤ s.dtime then s.loseEntry e
      else s.setBackoff e (some (since, min (2 * wait) 64000, s.dtime + min (2 * wait) 64000))

def execNotable (a : WindowName) (seq : Nat) (s : State) : Out := .next (s.notable a seq)

/-- A back-off that has expired. -/
def SendEntry.retryDue (e : SendEntry) (dtime : Nat) : Bool :=
  match e.backoff with
  | some (_, _, at_) => decide (at_ ≠ 0 ∧ at_ ≤ dtime)
  | none => false

/-- The flit that closed a window goes out again. -/
def State.recount (s : State) (a : WindowName) : State :=
  match s.closer a with
  | some r => s.emit (if r.flit.probe then .probe r.flit else .release r.flit)
  | none => match (s.stream a.sid a.dst).wins.find? (fun w => w.win == a.win && w.closed) with
    | some w => s.sendCount a.sid a.dst ⟨w.win, w.n, w.base, (s.stream a.sid a.dst).low⟩
    | none => s

/-- NOTABLE_RETRY: the write is sent again, with the flit that closed its window, which may have been refused too. -/
def execNotableRetry (a : WindowName) (seq : Nat) (s : State) : Out :=
  .next (match s.entryAt a seq with
    | none => s
    | some e =>
      if !e.retryDue s.dtime then s
      else match e.backoff with
        | none => s
        | some (since, wait, _) =>
          if since + 10 ^ 7 ≤ s.dtime then s.loseEntry e
          else ((s.setBackoff e (some (since, wait, 0))).resend e).recount a)

/-! ## Probes (R331) -/

/-- PROBEACK: the probe's windows are resolved and freed, or the stream was frozen. -/
def State.probeack (s : State) (a : WindowName) (frozen : Bool) : State :=
  match s.flue.releases.find? (fun r => r.flit.probe && r.slot == sidSlot a.sid && r.dst == a.dst) with
  | none => s
  | some r =>
    let s := { s with flue := { s.flue with releases := s.flue.releases.filter (fun x => x != r) } }
    if frozen then s.updSlot r.slot (fun p => p.fenceBit Fence.frozen) else r.wins.foldl State.freeWindow s

def execProbeack (a : WindowName) (frozen : Bool) (s : State) : Out := .next (s.probeack a frozen)

/-! ## Freezes (R332) -/

/-- FROZEN: the stream sends nothing more. -/
def State.freezeStream (s : State) (a : WindowName) : State := s.setStream { s.stream a.sid a.dst with frozen := true }

def execFrozen (a : WindowName) (s : State) : Out := .next (s.freezeStream a)

/-- Queued requests of a stream go out in order. -/
def State.sendQueue (s : State) (sid dst : Nat) : State :=
  let mine (e : SendEntry) : Bool := e.flit.sid == sid && e.flit.dst == dst && !e.sent
  let es := s.flue.store.filter mine
  let s := { s with flue := { s.flue with store := s.flue.store.map (fun (e : SendEntry) => if mine e then { e with sent := true } else e) } }
  es.foldl State.resend s

/-- Queued closing flits of a stream none of whose streams is frozen go out in order; a COUNTREL is not kept. -/
def State.sendQueuedReleases (s : State) (sid dst : Nat) : State :=
  let ready (r : OutRelease) : Bool := r.queued && r.slot == sidSlot sid && r.dst == dst &&
    !(r.flit.sid :: (windowsOf r.flit).map (·.1)).any (fun x => (s.stream x dst).frozen)
  let rs := s.flue.releases.filter ready
  let s := { s with flue := { s.flue with releases := (s.flue.releases.map (fun (r : OutRelease) =>
    if ready r then { r with queued := false } else r)).filter (fun r => !(r.flit.recs.length == 1 && !r.queued && !r.flit.probe)) } }
  rs.foldl (fun s r => s.emit (if r.flit.recs.length = 1 then .countrel r.flit else .release r.flit)) s

/-- A window refused at the target (R332): its writes that were not applied count in FAILED, and a release that covers them, or that
was refused itself, is never applied. -/
def State.refusedWindow (s : State) (a : WindowName) (bits : Nat) : State :=
  let own := s.flue.releases.find? (fun r => r.slot == sidSlot a.sid && r.dst == a.dst && r.flit.sid == a.sid && !r.flit.probe && !r.queued &&
    r.flit.body != .none && !releaseCovers r.flit a.sid a.win)
  let s := s.loseWindow a (fun e => bitOf bits (e.flit.seq % 4096)) Fence.refused
  let s := match own with
    | some r => (s.failRelease r).updSlot r.slot (fun p => p.failWrites 1 Fence.refused)
    | none => s
  let s := { s with flue := { s.flue with releases := s.flue.releases.filter (fun r =>
    !(r.queued && r.flit.sid == a.sid && r.dst == a.dst && r.flit.recs.any (fun x => r.flit.recs.length == 1 && x.win == a.win))) } }
  let t := s.stream a.sid a.dst
  if t.nextWin = a.win then s.setStream { t with nextWin := (a.win + 1) % 2 ^ 16 } else s

/-- RESUME. -/
def State.resumeStream (s : State) (a : WindowName) (refused : Option Nat) : State :=
  let s := match refused with
    | some bits => s.refusedWindow a bits
    | none => s
  ((s.setStream { s.stream a.sid a.dst with frozen := false }).sendQueue a.sid a.dst).sendQueuedReleases a.sid a.dst

def execResume (a : WindowName) (refused : Option Nat) (s : State) : Out := .next (s.resumeStream a refused)

/-! ## No path (R331) -/

/-- Package and address of a code read. -/
def State.fetchPkg (s : State) (p : Slot) (key : Nat) : Nat :=
  if key < 2 ^ 72 then globalPkg (p.seg (keySeg key)).base else globalPkg (BitVec.ofNat 64 key)

/-- Global address of a code or overlay read: the segment's base and the offset; that of a read by address (R107, R331). -/
def Slot.fetchGlobal (p : Slot) (key : Nat) : Word :=
  if key < 2 ^ 72 then (p.seg (keySeg key)).base + fetchAddr key else fetchAddr key

/-- Answers that a slot awaits from a package: names and global addresses. -/
def State.awaited (s : State) (p : Slot) (pkg : Nat) : List (Nat × Word) :=
  (p.fills.flatMap (fun f => (f.waits.filter (fun w => decide (globalPkg w.addr = pkg) && !p.sb.any (fun e => match e.kind with
    | .atomic r => r.ret == some w.id
    | _ => false))).map (fun w => (w.id, w.addr)))) ++
  (match p.remoteTag with
    | some t => match t.loc with
      | .there d _ => if d = pkg ∧ !t.poll ∧ t.answer = none then [(t.id, s.globalOf t.loc)] else []
      | .here _ => []
    | none => []) ++
  ((p.remoteFetch.filter (fun e => e.answer.isNone && decide (s.fetchPkg p e.key = pkg))).map (fun e => (e.id, p.fetchGlobal e.key)))

/-- Something of this package is on its way to a package, or awaited from it. -/
def State.reaches (s : State) (pkg : Nat) : Bool :=
  s.flue.store.any (fun e => e.flit.dst == pkg) || s.flue.releases.any (fun r => r.dst == pkg) ||
  s.slots.any (fun e => !(s.awaited e.2 pkg).isEmpty)

/-- A slot's reads from the package are refused. -/
def State.loseReads (s : State) (slot pkg : Nat) : State :=
  let l := s.awaited (s.slot slot) pkg
  if l.isEmpty then s
  else l.foldl (fun s x =>
    let s := s.loseAnswer slot x.1 x.2
    if slotNo slot = 15 then s.failCopyRead slot x.1 Cause.remote
    else s.updSlot slot (fun p => if p.remoteFetch.any (fun e => e.id == x.1) then
      { p.defer Cause.remote x.2 (deferInfo (p.pc.toNat % 2 ^ 32) 0) with remoteFetch := p.remoteFetch.filter (fun e => e.id != x.1) }
      else p)) (s.updSlot slot (fun p => p.fenceBit Fence.deadlink))

/-- The slot whose message a flit carries. -/
def messageSlot : FlitBody → Option Nat
  | .msg _ _ _ i _ _ => some i
  | _ => none

/-- The package's outstanding writes, messages among them, are declared lost, and its remote loads and returning atomics are refused. -/
def State.losePackage (s : State) (pkg : Nat) : State :=
  let es := s.flue.store.filter (fun e => e.flit.dst == pkg)
  let rs := s.flue.releases.filter (fun r => r.dst == pkg)
  let gone := (s.flue.waiting.filter (fun f => flitDest f.body == some pkg)).filterMap (fun f => messageSlot f.body)
  let s := { s with flue := { s.flue with
    store := s.flue.store.filter (fun e => e.flit.dst != pkg)
    waiting := s.flue.waiting.filter (fun f => flitDest f.body != some pkg)
    streams := s.flue.streams.map (fun (t : SrcStream) => if t.dst = pkg then { t with wins := [], frozen := false } else t)
    dead := if s.flue.dead.contains pkg then s.flue.dead else pkg :: s.flue.dead } }
  let s := es.foldl (fun s e => s.dropEntry e Fence.deadlink) s
  let s := gone.foldl (fun s i => s.updSlot i (fun p => p.failWrites 1 Fence.deadlink)) s
  let s := rs.foldl (fun s r =>
    let s := if r.unit then s else s.updSlot r.slot (fun p => p.fenceBit Fence.deadlink)
    if r.flit.probe then { s with flue := { s.flue with releases := s.flue.releases.filter (fun x => x != r) } } else s.failRelease r) s
  s.slots.foldl (fun s e => s.loseReads e.1 pkg) s

/-- DEADLINK_TIMEOUT (R331): 50 ms have passed without a path to the package. -/
def execDeadlinkTimeout (pkg : Nat) (s : State) : Out := .next (s.losePackage pkg)

end Sys2Proof.Machine
end

