-- ==== Sys2Proof/Machine/Frame.lean ====
section
/-! DEFINITION. The repeat sequencer issues a frame's instructions (05_flow_and_burns R84 to R87, 14_vector R221). -/
namespace Sys2Proof.Machine

/-- m0, when mk is set (R222). -/
def m0 (mk : Bool) : List MReg := if mk then [0] else []

/-- Mask registers an instruction reads (R221, R228). -/
def maskReads : Instr → List MReg
  | .vadd _ _ _ _ mk => m0 mk
  | .vsub _ _ _ _ mk => m0 mk
  | .vmul _ _ _ _ mk => m0 mk
  | .vmulh _ _ _ _ mk => m0 mk
  | .vadds _ _ _ _ mk => m0 mk
  | .vsubs _ _ _ _ mk => m0 mk
  | .vmin _ _ _ _ mk => m0 mk
  | .vmax _ _ _ _ mk => m0 mk
  | .vand _ _ _ _ mk => m0 mk
  | .vor _ _ _ _ mk => m0 mk
  | .vxor _ _ _ _ mk => m0 mk
  | .vshl _ _ _ _ mk => m0 mk
  | .vshr _ _ _ _ mk => m0 mk
  | .vsra _ _ _ _ mk => m0 mk
  | .vabs _ _ _ mk => m0 mk
  | .vfadd _ _ _ _ mk => m0 mk
  | .vfsub _ _ _ _ mk => m0 mk
  | .vfmul _ _ _ _ mk => m0 mk
  | .vfmin _ _ _ _ mk => m0 mk
  | .vfmax _ _ _ _ mk => m0 mk
  | .vfabs _ _ _ mk => m0 mk
  | .vfneg _ _ _ mk => m0 mk
  | .vfma _ _ _ _ mk => m0 mk
  | .vfms _ _ _ _ mk => m0 mk
  | .vfnma _ _ _ _ mk => m0 mk
  | .vbcast _ _ _ mk => m0 mk
  | .vaddx _ _ _ _ mk => m0 mk
  | .vfmulx _ _ _ _ mk => m0 mk
  | .vcmp _ _ _ _ _ mk => m0 mk
  | .vsel _ _ _ _ => [0]
  | .mand _ a b => [a, b]
  | .mor _ a b => [a, b]
  | .mnot _ a => [a]
  | .mpopc _ a _ mk => a :: m0 mk
  | .vcvt _ _ _ _ _ _ _ mk => m0 mk
  | .vcvts _ _ _ _ _ _ mk => m0 mk
  | .vexp2 _ _ _ mk => m0 mk
  | .vlog2 _ _ _ mk => m0 mk
  | .vrcp _ _ _ mk => m0 mk
  | .vrsq _ _ _ mk => m0 mk
  | .vsqrt _ _ _ mk => m0 mk
  | .vtanh _ _ _ mk => m0 mk
  | .vsigm _ _ _ mk => m0 mk
  | .vradd _ _ _ mk => m0 mk
  | .vrmax _ _ _ mk => m0 mk
  | .vrmin _ _ _ mk => m0 mk
  | .vrmaxi _ _ _ mk => m0 mk
  | .vscan _ _ _ mk => m0 mk
  | .vperm _ _ _ _ mk => m0 mk
  | .vslide _ _ _ _ mk => m0 mk
  | .vslideUp _ _ _ _ mk => m0 mk
  | .vrot _ _ _ _ mk => m0 mk
  | .vdot4 _ _ _ _ mk => m0 mk
  | .vdotf8 _ _ _ _ mk => m0 mk
  | .vsortk _ _ _ _ mk => m0 mk
  | .vrnd _ _ mk => m0 mk
  | _ => []

/-- The instruction reads a mask register whose result latency still runs (R29, R221). -/
def State.late (s : State) (i : Instr) : Bool :=
  (maskReads i).any (fun m => !s.me.ran (s.cycleOf (coreOf s.cur)) (48 + m.toNat))

/-- The meaning of a captured word; no other word is captured (R84). -/
def captured (i : Instr) (s : State) : Out :=
  match i with
  | .vadd d a b ty mk => execVadd d a b ty mk s
  | .vsub d a b ty mk => execVsub d a b ty mk s
  | .vmul d a b ty mk => execVmul d a b ty mk s
  | .vmulh d a b ty mk => execVmulh d a b ty mk s
  | .vadds d a b ty mk => execVadds d a b ty mk s
  | .vsubs d a b ty mk => execVsubs d a b ty mk s
  | .vmin d a b ty mk => execVmin d a b ty mk s
  | .vmax d a b ty mk => execVmax d a b ty mk s
  | .vand d a b ty mk => execVand d a b ty mk s
  | .vor d a b ty mk => execVor d a b ty mk s
  | .vxor d a b ty mk => execVxor d a b ty mk s
  | .vshl d a b ty mk => execVshl d a b ty mk s
  | .vshr d a b ty mk => execVshr d a b ty mk s
  | .vsra d a b ty mk => execVsra d a b ty mk s
  | .vabs d a ty mk => execVabs d a ty mk s
  | .vfadd d a b ty mk => execVfadd d a b ty mk s
  | .vfsub d a b ty mk => execVfsub d a b ty mk s
  | .vfmul d a b ty mk => execVfmul d a b ty mk s
  | .vfmin d a b ty mk => execVfmin d a b ty mk s
  | .vfmax d a b ty mk => execVfmax d a b ty mk s
  | .vfabs d a ty mk => execVfabs d a ty mk s
  | .vfneg d a ty mk => execVfneg d a ty mk s
  | .vfma d a b ty mk => execVfma d a b ty mk s
  | .vfms d a b ty mk => execVfms d a b ty mk s
  | .vfnma d a b ty mk => execVfnma d a b ty mk s
  | .vbcast d b ty mk => execVbcast d b ty mk s
  | .vins d k b ty => execVins d k b ty s
  | .vext v k b ty => execVext v k b ty s
  | .vaddx d a b ty mk => execVaddx d a b ty mk s
  | .vfmulx d a b ty mk => execVfmulx d a b ty mk s
  | .vcmp n a b c ty mk => execVcmp n a b c ty mk s
  | .vsel d a b ty => execVsel d a b ty s
  | .mand n a b => execMand n a b s
  | .mor n a b => execMor n a b s
  | .mnot n a => execMnot n a s
  | .mpopc x a ty mk => execMpopc x a ty mk s
  | .vcvt d a nan rm src p dst mk => execVcvt d a nan rm src p dst mk s
  | .vcvts d a k src p dst mk => execVcvts d a k src p dst mk s
  | .vexp2 d a ty mk => execVexp2 d a ty mk s
  | .vlog2 d a ty mk => execVlog2 d a ty mk s
  | .vrcp d a ty mk => execVrcp d a ty mk s
  | .vrsq d a ty mk => execVrsq d a ty mk s
  | .vsqrt d a ty mk => execVsqrt d a ty mk s
  | .vtanh d a ty mk => execVtanh d a ty mk s
  | .vsigm d a ty mk => execVsigm d a ty mk s
  | .vradd d a ty mk => execVradd d a ty mk s
  | .vrmax d a ty mk => execVrmax d a ty mk s
  | .vrmin d a ty mk => execVrmin d a ty mk s
  | .vrmaxi d a ty mk => execVrmaxi d a ty mk s
  | .vscan d a ty mk => execVscan d a ty mk s
  | .vperm d a b ty mk => execVperm d a b ty mk s
  | .vslide d a k ty mk => execVslide d a k ty mk s
  | .vslideUp d a k ty mk => execVslideUp d a k ty mk s
  | .vrot d a k ty mk => execVrot d a k ty mk s
  | .vdot4 d a b ty mk => execVdot4 d a b ty mk s
  | .vdotf8 d a b ty mk => execVdotf8 d a b ty mk s
  | .kmma t a b c as acc => execKmma t a b c as acc s
  | .kmmas t a b c as acc => execKmmas t a b c as acc s
  | .kmmv t b c as acc => execKmmv t b c as acc s
  | .kzero t => execKzero t s
  | .klda t a acc => execKlda t a acc s
  | .ksta t a => execKsta t a s
  | .kcvt t a c => execKcvt t a c s
  | _ => .next s

/-- The slot that issues is the frame's owner, through the sequencer. -/
def State.asFrame (s : State) (f : Frame) : State := { s with cur := f.owner, inFrame := true, lent := false }

/-- The frame's instruction at (j, i). -/
def Frame.instr (f : Frame) : Instr := stagger f.j f.dv f.dx (f.words.getD f.i .nop)

/-- The frame of a core may issue in this cycle (R85): it is neither frozen nor done, its owner is not halted or stopped, it has not
issued in this cycle, the pipe is not taken by the rotation, and its sources are ready. -/
def State.frameReady (s : State) (core : Nat) (f : Frame) : Bool :=
  let t := s.asFrame f
  !f.frozen && !f.done && decide ((s.slot f.owner).mode = .running ∨ (s.slot f.owner).mode = .leaving) &&
  decide (f.at_ < s.cycleOf core) && !(vectorPipe f.instr && decide ((s.core core).vpipe = s.cycleOf core + 1)) &&
  !t.late f.instr && (!t.legalIn f.owner f.instr || t.ready f.instr)

/-- The issue of the frame's instruction. -/
def State.frameIssue (s : State) (core : Nat) : State :=
  match (s.core core).frame with
  | none => s
  | some f =>
    if s.frameReady core f then
      match captured f.instr (s.asFrame f) with
      | .next t => { t with cur := s.cur, inFrame := s.inFrame, lent := s.lent }
      | _ => s
    else s

/-- FRAME_ISSUE. -/
def execFrameIssue (core : Nat) (s : State) : Out := .next (s.frameIssue core)

end Sys2Proof.Machine
end

