-- ==== Sys2Proof/Machine/Ports.lean ====
section
/-! DEFINITION. The flue ports: received flits, acknowledgement and replay, links that fail, pause, and keys (21_flue R320 to
R323). -/
namespace Sys2Proof.Machine

/-- The 32 flue ports of a package (R317). -/
def portCount : Nat := 32

/-! ## Acknowledgement and replay (R320) -/

/-- Flits up to an LSEQ leave the replay buffer. -/
def dropAcked (l : List (Nat × QueuedFlit)) (seq : Nat) : List (Nat × QueuedFlit) :=
  if l.any (fun e => e.1 == seq) then (l.dropWhile (fun e => e.1 != seq)).tail else l

/-- The flits of a replay buffer again, each under the current key with a fresh counter value (R323). Where the counter ends first, the
link makes the whole replay under its next key: the receiver drops what it has (R320). -/
def State.replayAll (s : State) (port : Nat) : State :=
  (s.link port).replay.foldl (fun s e =>
    let l := s.link port
    if l.fctr < lastCounter then (s.setLink port { l with fctr := l.fctr + 1 }).wire port (l.frame (flitAge s.dtime e.2.since) e.1 e.2.body)
    else s.setLink port { l with stalled := true }) s

/-- LACK: acknowledged flits are freed; after a failure the rest is replayed. -/
def State.lack (s : State) (port seq : Nat) (nak : Bool) : State :=
  let l := s.link port
  let kept := dropAcked l.replay seq
  let l := { l with replay := kept, replays := if kept.length = l.replay.length then l.replays else 0 }
  let s := s.setLink port l
  let s := if nak && !kept.isEmpty then (s.setLink port { l with replays := l.replays + 1 }).replayAll port else s
  s.flush port

def execLack (port seq : Nat) (nak : Bool) (s : State) : Out := .next (if port < portCount then s.lack port seq nak else s)

/-- The link that takes over from a failed one: the least occupied live link of its bundle; where the bundle has none, of the others
(log 91; R317). -/
def State.heir (s : State) (port : Nat) : Option Nat :=
  match s.leastOf ((List.range portCount).filter (fun p => Config.bundleOf p == Config.bundleOf port)) with
  | some p => some p
  | none => s.bestLink

/-- Flits of a failed link go to the link that takes over, before its own held flits and in their order. -/
def State.handOver (s : State) (port : Nat) (fs : List QueuedFlit) : State :=
  match s.heir port with
  | some q => (s.updLink q (fun l => { l with again := l.again ++ fs })).flush q
  | none => { s with flue := { s.flue with waiting := s.flue.waiting ++ fs } }

/-- A link is down: its unacknowledged and held flits go out on another live link of the bundle, in LSEQ order. -/
def State.linkDown (s : State) (port : Nat) : State :=
  let l := s.link port
  if l.down then s
  else
    let s := s.setLink port { l with
      down := true, replay := [], again := [], held := [], owed := [], replays := 0, keyoutAt := none, stalled := false,
      paused := false, pausing := false, rekeying := false, signed := false }
    let s := s.handOver port (l.replay.map (·.2) ++ l.again ++ l.held)
    if s.bestLink.isNone ∧ s.flue.cutSince.isNone then { s with flue := { s.flue with cutSince := some s.dtime } } else s

/-- LINK_DOWN: a flit replayed 16 times, or a failure from outside. -/
def execLinkDown (port : Nat) (s : State) : Out := .next (if port < portCount then s.linkDown port else s)

/-- A link whose oldest flit has been replayed 16 times. -/
def Link.failing (l : Link) : Bool := decide (16 ≤ l.replays) && !l.down

/-- PAUSE (R321): the lossless class stops, or goes on. -/
def State.pauseLink (s : State) (port : Nat) (on : Bool) : State :=
  let s := s.updLink port (fun l => { l with paused := on })
  if on then s else s.flush port

def execPause (port : Nat) (on : Bool) (s : State) : Out := .next (if port < portCount then s.pauseLink port on else s)

/-! ## Keys (R322, R323) -/

/-- "NQFLUE1". -/
def flueName : List Byte := [0x4E, 0x51, 0x46, 0x4C, 0x55, 0x45, 0x31]

/-- Byte strings in lexicographic order. -/
def bytesLess : List Byte → List Byte → Bool
  | [], [] => false
  | [], _ :: _ => true
  | _ :: _, [] => false
  | a :: as, b :: bs => if a = b then bytesLess as bs else decide (a.toNat < b.toNat)

/-- The transcript that both ends sign: public values, nonces and identities, the lower identity first. -/
def transcript (port epoch : Nat) (m : KeyExchange) : List Byte :=
  let mine := Config.x448Public port epoch ++ Config.linkNonce port epoch ++ Config.identityKey
  let theirs := m.public_ ++ m.nonce ++ m.identity
  if bytesLess Config.identityKey m.identity then mine ++ theirs else theirs ++ mine

/-- The 72 bytes of keys and salts. -/
def linkKeys (port epoch : Nat) (m : KeyExchange) : List Byte :=
  let z := Config.x448Shared port epoch m.public_
  let mine := Config.linkNonce port epoch
  let lower := bytesLess Config.identityKey m.identity
  Config.shake256 (flueName ++ z ++ (if lower then mine ++ m.nonce else m.nonce ++ mine) ++
    (if lower then Config.identityKey ++ m.identity else m.identity ++ Config.identityKey) ++ bytesOfNat 8 epoch) 72

/-- The 72 bytes in order: the key and, after both keys, the salt from the lower identity to the higher, and those of the other direction. -/
def keysFrom (bs : List Byte) (lower : Bool) : KeySet :=
  let part (o n : Nat) : List Byte := (bs.drop o).take n
  if lower then ⟨part 0 32, part 32 32, part 64 4, part 68 4⟩ else ⟨part 32 32, part 0 32, part 68 4, part 64 4⟩

/-- The keys and salts that this end installs. -/
def keySetOf (port epoch : Nat) (m : KeyExchange) : KeySet :=
  keysFrom (linkKeys port epoch m) (bytesLess Config.identityKey m.identity)

/-- What this end offers: a fresh public value, its nonce and its identity. -/
def offerOf (port epoch : Nat) (signature : List Byte) : KeyExchange :=
  ⟨Config.x448Public port epoch, Config.linkNonce port epoch, Config.identityKey, signature⟩

/-- This end's offer goes out, once in an exchange; KEYX flits are not counted. -/
def State.sendKeyx (s : State) (port : Nat) : State :=
  if (s.link port).rekeying then s
  else (s.updLink port (fun l => { l with rekeying := true, signed := false })).wire port
    ((s.link port).frame 0 0 (.keyx (offerOf port (s.link port).epoch [])))

/-- This end's signature over the transcript goes out, once in an exchange. -/
def State.signKeyx (s : State) (port : Nat) (m : KeyExchange) : State :=
  let l := s.link port
  if l.signed then s
  else (s.updLink port (fun l => { l with signed := true })).wire port
    (l.frame 0 0 (.keyx (offerOf port l.epoch (Config.ed448Sign (transcript port l.epoch m)))))

/-- Keys are installed: the counter restarts, and after the first exchange the key phase turns over. The link is live: a replay that had
no counter value left is made, and what was owed and what waited goes out. -/
def State.install (s : State) (port : Nat) (keys : KeySet) : State :=
  let l := s.link port
  let s := s.setLink port { l with
    stalled := false
    owed := []
    keys := some keys
    oldKeys := l.keys
    kph := if l.keys.isNone then l.kph else !l.kph
    fctr := 0
    epoch := l.epoch + 1
    down := false
    rekeying := false
    signed := false
    keyoutAt := none }
  let s := l.owed.foldl (fun s f => s.sendControl port f) (if l.stalled then s.replayAll port else s)
  ({ s with flue := { s.flue with cutSince := none, dead := [] } }.flush port).emitWaiting

/-- The peer's offer has come: this end makes its own, if it has not, and signs (R322). -/
def State.answerOffer (s : State) (port : Nat) (m : KeyExchange) : State := (s.sendKeyx port).signKeyx port m

/-- The peer's signature ends the exchange. A peer whose signature fails leaves a new link down; a link in use keeps its key. -/
def State.keyx (s : State) (port : Nat) (m : KeyExchange) : State :=
  let s := s.answerOffer port m
  let l := s.link port
  if Config.ed448Verify m.identity (transcript port l.epoch m) m.signature then s.install port (keySetOf port l.epoch m)
  else s.setLink port { l with down := l.down || l.keys.isNone, rekeying := false, signed := false }

def execKeyx (port : Nat) (m : KeyExchange) (s : State) : Out := .next (if port < portCount then s.keyx port m else s)

/-- A KEYX flit: the peer's offer, or its signature, which names the offer too. -/
def State.takeKeyx (s : State) (port : Nat) (m : KeyExchange) : State :=
  if m.signature = [] then s.answerOffer port m else s.keyx port m

/-- A re-key begins when the counter reaches 2^39. -/
def Link.rekeyDue (l : Link) : Bool := l.live && !l.rekeying && decide (2 ^ 39 ≤ l.fctr)

/-- REKEY_START. -/
def execRekeyStart (port : Nat) (s : State) : Out := .next (if (s.link port).rekeyDue then s.sendKeyx port else s)

/-- The counter is used up and no new key is installed. -/
def Link.exhausted (l : Link) : Bool := l.live && l.keyoutAt.isNone && decide (lastCounter ≤ l.fctr)

/-- KEYOUT: sent under the last counter value; data flits are held from now on. -/
def execKeyout (port : Nat) (s : State) : Out :=
  .next (if (s.link port).exhausted then
    ((s.updLink port (fun l => { l with keyoutAt := some s.dtime })).wire port ((s.link port).frame 0 0 .keyout))
  else s)

/-- 50 ms after the KEYOUT no new key is installed. -/
def Link.keyLost (l : Link) (dtime : Nat) : Bool :=
  !l.down && match l.keyoutAt with
    | some t => decide (t + 50000000 ≤ dtime)
    | none => false

/-- KEYOUT_TIMEOUT. -/
def execKeyoutTimeout (port : Nat) (s : State) : Out :=
  .next (if (s.link port).keyLost s.dtime then s.linkDown port else s)

/-! ## Received flits (R319, R320) -/

/-- The next state of an outcome. -/
def nextOr (o : Out) (s : State) : State :=
  match o with
  | .next t => t
  | _ => s

/-- This package answers to a number, its own or one that is mapped onto it (R358), once it has booted (R361). -/
def State.answersTo (s : State) (n : Nat) : Bool :=
  !s.recovering && (n == s.pkg.number || Table.find s.flue.remap n == some s.pkg.number)

/-- A message from another package (R152): a wake, or one for a queue. -/
def State.foreignMessage (s : State) (slot src sender : Nat) (m : Message) (spark : Bool) : State :=
  { s with flights := s.flights ++ [(⟨foreignSlot src sender, slot, true, spark, m, none⟩ : Flight)] }

/-- What a good flit does at the package. -/
def State.takeFlit (s : State) (port : Nat) : FlitBody → State
  | .write f | .atomic f => nextOr (execWriteArrival (f.sid % 4) f s) s
  | .release f | .countrel f => nextOr (execReleaseArrival (f.sid % 4) f s) s
  | .probe f => nextOr (execProbe (f.sid % 4) f s) s
  | .flagack w => s.flagack w
  | .shortfall w _ _ bitmap => s.shortfall w bitmap
  | .notable w seq => s.notable w seq
  | .frozen w _ => s.freezeStream w
  | .resume w refused => s.resumeStream w refused
  | .giveup w bitmap => s.giveup w bitmap
  | .probeack w frozen => s.probeack w frozen
  | .read f => nextOr (execRemoteRead (grateOf f.a) f s) s
  | .resp _ id bytes tag status => s.takeAnswer id bytes tag status
  | .msg _ slot src sender m spark => s.foreignMessage slot src sender m spark
  | .spark _ core w0 w1 w2 w3 => if core < 2048 then s.sendSpark core (.words w0 w1 w2 w3) else s
  | .report w x ea einfo => s.takeReport w x ea einfo
  | .ember _ clamp src slot p => nextOr (execEmberArrival clamp src slot p s) s
  | .emberack _ slot ok => nextOr (execEmberack slot ok s) s
  | .lack seq nak => s.lack port seq nak
  | .pause on => s.pauseLink port on
  | .keyx m => s.takeKeyx port m
  | .keyout | .idle | .piece _ _ _ => s

/-- The package a flit comes from, where its fields name it. -/
def flitSource : FlitBody → Option Nat
  | .write f | .atomic f => some (sidPkg f.sid)
  | .release f | .countrel f | .probe f => some (sidPkg f.sid)
  | .flagack w | .shortfall w _ _ _ | .notable w _ | .frozen w _ | .resume w _ | .giveup w _ | .probeack w _ => some w.dst
  | .read f => some (sidPkg f.sid)
  | .msg _ _ src _ _ _ => some src
  | .report w _ _ _ => some w.dst
  | .ember _ _ src _ _ => some src
  | _ => none

/-- A package that is heard from has a live path. -/
def State.heard (s : State) (f : FlitBody) : State :=
  match flitSource f with
  | some p => { s with flue := { s.flue with dead := s.flue.dead.filter (fun d => d != p) } }
  | none => s

/-- A flit that fails its checks: it and every later flit are discarded, and a LACK names the last good LSEQ (R319, R320). -/
def State.badFlit (s : State) (port : Nat) : State :=
  { s with pkg := { s.pkg with crcFails := s.pkg.crcFails + 1 } }.sendControl port
    (.lack (((s.link port).rxNext + 2 ^ 16 - 1) % 2 ^ 16) true)

/-- A good data flit of the expected LSEQ: acknowledged, then taken; one for another package is counted and goes no further. -/
def State.goodFlit (s : State) (port : Nat) (f : LinkFlit) : State :=
  let l := s.link port
  let s := s.setLink port { l with
    rxNext := (l.rxNext + 1) % 2 ^ 16
    oldKeys := if f.kph = l.kph then none else l.oldKeys }
  let s := (s.sendControl port (.lack f.lseq false)).heard f.body
  if s.answersTo f.dpkg then s.takeFlit port f.body else { s with pkg := { s.pkg with discards := s.pkg.discards + 1 } }

/-- The key of an arriving flit: the old one until the peer's phase has turned over (R323). -/
def Link.keyFor (l : Link) (kph : Bool) : Option KeySet := if kph = l.kph then l.keys else l.oldKeys

/-- The GCM tag holds: of a flit that was sealed under the key, the salt and the counter of its header, and over that header (R322). KEYX
brings the keys and is not under them. -/
def Link.sealHolds (l : Link) (f : LinkFlit) : Bool :=
  f.tagOk && f.aad == flitAad f && (f.type == 0x22 || (match l.keyFor f.kph with
    | some k => f.iv == flitIv k.saltIn f.fctr
    | none => false))

/-- FLIT_RECEIVE (R320): flits after a discarded one have an unexpected LSEQ until the replay. A link without keys takes KEYX alone
(R322). -/
def execFlitReceive (port : Nat) (f : LinkFlit) (s : State) : Out :=
  .next (if portCount ≤ port ∨ (!(s.link port).live ∧ f.type ≠ 0x22) then s
    else if !f.crcOk || !(s.link port).sealHolds f || !legalFlit f then s.badFlit port
    else if (flitDest f.body).isNone then s.takeFlit port f.body
    else if f.lseq = (s.link port).rxNext then s.goodFlit port f
    else s)

end Sys2Proof.Machine
end

