-- ==== Sys2Proof/Machine/Registers.lean ====
section
/-! DEFINITION. The control registers (02_machine R37, R38; 05_flow_and_burns R92; 07_traps R108; 09_memory; 18_translation R280;
21_flue R333, R334; 22_media R338, R341; 23_host R359, R360, R365): MFC, MTC and the units that a write reaches. -/
namespace Sys2Proof.Machine

/-! ## The map (R37) -/

/-- The control registers of a slot, in the record of R253's order and by number: none for a number outside it. -/
def ctlGet (c : Ctl) (crn : Nat) : Option Word :=
  match crn with
  | 0x000 => some c.status
  | 0x002 => some c.lid
  | 0x003 => some c.rcba
  | 0x020 => some c.epc
  | 0x021 => some c.ecause
  | 0x022 => some c.eaddr
  | 0x023 => some c.einfo
  | 0x024 => some c.evec
  | 0x025 => some c.estat
  | 0x030 => some c.burnst
  | 0x031 => some c.bstart
  | 0x032 => some c.bmin
  | 0x033 => some c.bmax
  | 0x034 => some c.bhnd
  | 0x035 => some c.bepc
  | 0x040 => some c.uivec
  | 0x041 => some c.uixid
  | 0x042 => some c.uipc
  | 0x050 => some c.waitlim
  | 0x070 => some c.kscba
  | 0x071 => some c.kscsa
  | 0x072 => some c.kscbb
  | 0x073 => some c.kscsb
  | 0x080 => some c.rngklo
  | 0x081 => some c.rngkhi
  | 0x090 => some c.fpst
  | 0x0A0 => some c.fltst
  | 0x801 => some c.fdom
  | 0x812 => some c.islsel
  | _ => none

def ctlPut (c : Ctl) (crn : Nat) (w : Word) : Ctl :=
  match crn with
  | 0x000 => { c with status := w }
  | 0x002 => { c with lid := w }
  | 0x003 => { c with rcba := w }
  | 0x020 => { c with epc := w }
  | 0x021 => { c with ecause := w }
  | 0x022 => { c with eaddr := w }
  | 0x023 => { c with einfo := w }
  | 0x024 => { c with evec := w }
  | 0x025 => { c with estat := w }
  | 0x030 => { c with burnst := w }
  | 0x031 => { c with bstart := w }
  | 0x032 => { c with bmin := w }
  | 0x033 => { c with bmax := w }
  | 0x034 => { c with bhnd := w }
  | 0x035 => { c with bepc := w }
  | 0x040 => { c with uivec := w }
  | 0x041 => { c with uixid := w }
  | 0x042 => { c with uipc := w }
  | 0x050 => { c with waitlim := w }
  | 0x070 => { c with kscba := w }
  | 0x071 => { c with kscsa := w }
  | 0x072 => { c with kscbb := w }
  | 0x073 => { c with kscsb := w }
  | 0x080 => { c with rngklo := w }
  | 0x081 => { c with rngkhi := w }
  | 0x090 => { c with fpst := w }
  | 0x0A0 => { c with fltst := w }
  | 0x801 => { c with fdom := w }
  | 0x812 => { c with islsel := w }
  | _ => c

/-- The RW bits of a register that keeps what is written (R8). -/
def rwMask (crn : Nat) : Word :=
  match crn with
  | 0x000 => 0x70
  | 0x002 => 0x0000FFFFFFFFFFFF
  | 0x021 => 0xFF
  | 0x023 => 0xFFFFFFFFFFFF7F1F
  | 0x024 => 0xFFFFFFFFFFFFFFFC
  | 0x025 => 0xFF
  | 0x030 => 0xFFFFFFFFFFFFFEE3
  | 0x050 => 0x00000000FFFFFFFF
  | 0x060 => 0xFFFFFFFFFFFE0001
  | 0x061 => 0xFFFFFFFFFFFFF000
  | 0x070 | 0x072 => 0xF7FFFF
  | 0x071 | 0x073 => 0x3F
  | 0x090 => 0x1F
  | 0x0A0 => 0x7
  | 0x800 => 0x0007FFFFFFFC0001
  | 0x812 => 0x1FF
  | 0x820 => 0x0007FFFFFFFFF000
  | 0x823 => 0x800000001FFFFFFF
  | 0x831 => 0x0007FFFFFFFFF0FF
  | _ => 0xFFFFFFFFFFFFFFFF

/-- RW bits of a global window's registers (R280). -/
def windowMask (limit : Bool) : Word := if limit then 0x0007FFFFFFFFFF1B else 0x0007FFFFFFFF0001

/-! ## Islands (R360, R365) -/

/-- The island ISLSEL selects: none for a bad index. -/
def State.selected (s : State) (slot : Nat) : Option Nat :=
  let w := (s.slot slot).ctl.islsel
  if bitW w 8 then (if getField w 0 8 ≤ 155 then some (getField w 0 8) else none) else some (clampOf slot)

/-- A slot of the clamp burns; the burn of a stopped slot has escalated (R97). -/
def State.clampBurns (s : State) (clamp : Nat) : Bool :=
  s.slots.any (fun e => clampOf e.1 == clamp && e.2.holds && e.2.burning && decide (e.2.mode ≠ .stopped))

/-- A burn floor is held for the island (R97). -/
def State.floorHeld (s : State) (i : Nat) : Bool :=
  (List.range 128).any (fun c => (burnIslands c).contains i && s.clampBurns c)

/-- The island is gated. -/
def State.islandGated (s : State) (i : Nat) : Bool := decide (i < 128) && s.clampOff i

/-- ISLST of an island. -/
def State.islandStatus (s : State) (i : Nat) : Word :=
  BitVec.ofNat 64 ((if s.islandGated i then 0 else s.islandFreq i % 2 ^ 32) + (if s.floorHeld i then 2 ^ 32 else 0))

/-- The rating of an island in mW (R359). -/
def islandRating (i : Nat) : Nat :=
  if i < 128 then 19500
  else if i < 136 then 12500
  else if i < 152 then [25000, 112500, 20000, 15000].getD ((i - 136) % 4) 0
  else [220000, 50000, 5000, 10000].getD (i - 152) 0

/-- What the ceilings may draw, in mW: a clamp, L2 or grate island under a burn floor goes up to its rating (R359). -/
def State.powerSum (s : State) : Nat :=
  ((List.range 156).map (fun i =>
    let c := (Table.get 0 s.pkg.islceil i).toNat
    if i < 152 then max c (islandRating i) else c)).foldl (· + ·) 0

/-- Every ceiling is written: boot goes on only within 3,600 W (R359). -/
def State.checkCeilings (s : State) : State :=
  if s.pkg.bootState = 1 ∧ (List.range 156).all (fun i => (Table.find s.pkg.islceil i).isSome) ∧ 3600000 < s.powerSum then
    { s with pkg := { s.pkg with bootState := 3 } }
  else s

/-- Each island's ceiling takes its first write after reset (R365). -/
def State.writeCeiling (s : State) (i : Nat) (v : Word) : State :=
  if (Table.find s.pkg.islceil i).isSome then s
  else { s with pkg := { s.pkg with islceil := Table.put s.pkg.islceil i v } }.checkCeilings

/-- ISLCEIL_WRITE (R365). -/
def execIslceilWrite (island : Nat) (v : Word) (s : State) : Out := .next (if island ≤ 155 then s.writeCeiling island v else s)

/-- An island's frequency after a sample: nominal under a burn floor, lower above the ceiling, and otherwise rising toward nominal;
how far it moves is a free value. -/
def nextFreq (step cur nominal : Nat) (above floor : Bool) : Nat :=
  if floor then nominal
  else if above then cur - 1 - step % cur
  else min nominal (cur + 1 + step % (nominal - cur))

/-- The island stays at nominal: it holds a burn floor (R360), or keeps the media unit and time (R337). -/
def State.staysNominal (s : State) (i : Nat) : Bool := i == 154 || s.floorHeld i

/-- Measurements of 1 µs that the average of R360 is over. -/
def powerSpan : Nat := 100

/-- The average of an island's power over its last 100 µs; before that, over the measurements since reset (R360; log 72). -/
def averagePower (l : List Nat) : Nat := l.foldl (· + ·) 0 / max l.length 1

/-- ISLAND_POWER_SAMPLE (R360): the island's measurement of the last microsecond, in mW, enters the average, and that moves its frequency. -/
def execIslandPowerSample (island power : Nat) (s : State) : Out :=
  .next (if 155 < island then s
    else
      let l := (power :: Table.get [] s.pkg.samples island).take powerSpan
      let cur := s.islandFreq island
      let nominal := islandNominal island
      let ceil := (Table.get 0 s.pkg.islceil island).toNat
      let f := nextFreq (Config.freqStep s.fresh) cur nominal (decide (ceil < averagePower l)) (s.staysNominal island)
      { s with
        fresh := s.fresh + 1
        pkg := { s.pkg with
          samples := Table.put s.pkg.samples island l
          islfreq := if f = nominal then Table.del s.pkg.islfreq island else Table.put s.pkg.islfreq island f } })

/-! ## Handlers (R333, R334) -/

/-- The entry of handler 16 + i at AHBASE. -/
def State.handlerWords (s : State) (i : Nat) : List Nat :=
  let a := getField s.pkg.ahbase 12 39 * 4096 + 128 * i
  handlerBody ((List.range 32).map (fun k => s.homeNat (a + 4 * k) 4))

/-- A load or an unload goes out to every engine, each of which switches between two of its operations (R334). -/
def State.sendHandler (s : State) (n : Nat) (load : Bool) (words : Option (List Nat)) : State :=
  { s with
    fresh := s.fresh + 1
    pkg := { s.pkg with
      ahPending := s.pkg.ahPending.filter (fun e => e != (n, load))
      handlers := Table.put s.pkg.handlers (16 + n) (⟨words, s.cycle, s.fresh⟩ :: Table.get [] s.pkg.handlers (16 + n)) } }

/-- AHLOAD_LOAD (R334): handler 16 + n is checked and goes out to the engines, or BAD is set and nothing else changes. -/
def execAhloadLoad (n : Nat) (s : State) : Out :=
  .next (if 16 ≤ n then s
    else
      let ws := s.handlerWords n
      if ws.all handlerWord && !s.badAt (getField s.pkg.ahbase 12 39 * 4096 + 128 * n) (4 * min 32 (ws.length + 1)) then
        let t := s.sendHandler n true (some ws)
        { t with pkg := { t.pkg with ahBad := setMask t.pkg.ahBad n false } }
      else { s with pkg := { s.pkg with
        ahPending := s.pkg.ahPending.filter (fun e => e != (n, true))
        ahBad := setMask s.pkg.ahBad n true } })

/-- AHLOAD_UNLOAD (R333). -/
def execAhloadUnload (n : Nat) (s : State) : Out := .next (if 16 ≤ n then s else s.sendHandler n false none)

/-- A write of AHLOAD: the unloads, then the loads, are on their way to the engines. -/
def State.writeAhload (s : State) (v : Word) : State :=
  let unloads := ((List.range 16).filter (fun i => bitW v (16 + i))).map (fun i => (i, false))
  let loads := ((List.range 16).filter (fun i => bitW v i)).map (fun i => (i, true))
  { s with pkg := { s.pkg with ahPending := s.pkg.ahPending ++ unloads ++ loads } }

/-- A load or an unload is still reaching some engine (R333). -/
def State.ahBusy (s : State) : Bool :=
  !s.pkg.ahPending.isEmpty || s.pkg.handlers.any (fun e => (List.range engineCount).any (fun g => (e.2.take 1).any (fun v => !s.switched g v)))

/-- The latest of what was asked for handler n is a load. -/
def State.handlerLoaded (s : State) (n : Nat) : Bool := (Table.get [] s.pkg.handlers n).head?.any (fun v => v.words.isSome)

/-- AHST. -/
def State.ahst (s : State) : Word :=
  BitVec.ofNat 64 (((List.range 16).map (fun i => if s.handlerLoaded (16 + i) then 2 ^ i else 0)).foldl (· + ·) 0 +
    s.pkg.ahBad.toNat * 2 ^ 16 + (if s.ahBusy then 2 ^ 32 else 0))

/-- A write of FZCTL: the retry or the refusal of whatever holds the token. -/
def State.writeFzctl (s : State) (v : Word) : State :=
  let token := getField v 0 32
  let grate := ((s.flue.table.find? (fun e => e.frozen == some token)).map (·.grate)).getD 0
  nextOr (if bitW v 32 then execFzctlRefuse grate token s else execFzctlRetry grate token s) s

/-! ## Reading and writing (R8, R37) -/

/-- TICKCTL as it is kept: an N above 64 reads as 64 (R341). -/
def tickctlWord (v : Word) : Word :=
  let w := v &&& rwMask 0x831
  if 64 < getField w 1 7 then putField w 1 7 64 else w

/-- A register of the map as a slot reads it: none when ISLSEL names no island. -/
def State.readReg (s : State) (slot crn : Nat) : Option Word :=
  let now := s.cycleOf (coreOf slot)
  match ctlGet (s.slot slot).ctl crn with
  | some w => some (if crn = 0x090 then (s.slot slot).fpstAt now else if crn = 0x0A0 then (s.slot slot).fltstAt now else w)
  | none =>
    match windowReg crn with
    | some (i, limit) => some (Table.get 0 (if limit then s.pkg.gwl else s.pkg.gwb) i)
    | none =>
      let c := s.core (coreOf slot)
      match crn with
      | 0x001 => some (s.slotid slot)
      | 0x004 => some c.part
      | 0x010 => some (BitVec.ofNat 64 s.dtime)
      | 0x060 => some c.accown
      | 0x061 => some c.accsave
      | 0x800 => some c.ptroot
      | 0x802 => some (s.hearth (hearthOf slot)).sysfdom
      | 0x810 => (s.selected slot).map (fun i => Table.get 0 s.pkg.islceil i)
      | 0x811 => (s.selected slot).map s.islandStatus
      | 0x813 => some s.pkg.harvest
      | 0x820 => some s.pkg.ahbase
      | 0x822 => some s.ahst
      | 0x823 => some s.pkg.fzsvc
      | 0x830 => some s.pkg.timest
      | 0x831 => some s.pkg.tickctl
      | _ => some 0

/-- A register without behaviour of its own takes its RW bits (R8). -/
def State.plainWrite (s : State) (slot crn : Nat) (v : Word) : State :=
  match ctlGet (s.slot slot).ctl crn with
  | some w => s.updSlot slot (fun p =>
      let p := if crn = 0x090 ∨ crn = 0x0A0 then p.settleSticks (s.cycleOf (coreOf slot)) else p
      { p with ctl := ctlPut p.ctl crn (merge (rwMask crn) w v) })
  | none =>
    match windowReg crn with
    | some (i, true) => { s with pkg := { s.pkg with gwl := Table.put s.pkg.gwl i (v &&& windowMask true) } }
    | some (i, false) => { s with pkg := { s.pkg with gwb := Table.put s.pkg.gwb i (v &&& windowMask false) } }
    | none =>
      match crn with
      | 0x060 => s.updCore (coreOf slot) (fun c => { c with accown := v &&& rwMask crn })
      | 0x061 => s.updCore (coreOf slot) (fun c => { c with accsave := v &&& rwMask crn })
      | 0x800 => s.updCore (coreOf slot) (fun c => { c with ptroot := v &&& rwMask crn })
      | 0x820 => { s with pkg := { s.pkg with ahbase := v &&& rwMask crn } }
      | 0x823 => { s with pkg := { s.pkg with fzsvc := v &&& rwMask crn } }
      | 0x831 => { s with pkg := { s.pkg with tickctl := tickctlWord v } }
      | _ => s

/-- SYSFDOM takes its first write after reset (R37). -/
def State.writeSysfdom (s : State) (h : Nat) (v : Word) : State :=
  s.updHearth h (fun x => if x.sysfdomSet then x else { x with sysfdom := v, sysfdomSet := true })

/-- TIMEST: writing one clears REFUSED and STEPPED (R338). -/
def State.writeTimest (s : State) (v : Word) : State := { s with pkg := { s.pkg with timest := s.pkg.timest &&& ~~~(v &&& 0x30#64) } }

/-- A register write at supervisor privilege: none when it takes ILL (R34, R365). -/
def State.writeReg (s : State) (slot crn : Nat) (v : Word) : Option State :=
  match crn with
  | 0x004 => if s.residentThread (coreOf slot) then none else some (s.setPart (coreOf slot) v)
  | 0x802 => some (s.writeSysfdom (hearthOf slot) v)
  | 0x810 => (s.selected slot).map (fun i => s.writeCeiling i v)
  | 0x811 => (s.selected slot).map (fun _ => s)
  | 0x821 => some (s.writeAhload v)
  | 0x824 => some (s.writeFzctl v)
  | 0x830 => some (s.writeTimest v)
  | 0x833 => some (nextOr (execDtadjStep v s) s)
  | _ => some (s.plainWrite slot crn v)

/-- MFC (R37). -/
def execMfc (d : Reg) (crn : BitVec 12) (s : State) : Out :=
  .next (gate (.mfc d crn) s (fun s =>
    match userAccess crn.toNat with
    | none => s.ill (.mfc d crn)
    | some u =>
      if u = .no ∧ !s.me.priv then s.privFault (.mfc d crn)
      else match s.readReg s.cur crn.toNat with
        | none => s.ill (.mfc d crn)
        | some w => (s.writeX d w 2).advance))

/-- MTC (R37): at user privilege a register that is RO there ignores the write. PART takes ILL at either privilege while a resident
thread is on the core (R34). -/
def execMtc (a : Reg) (crn : BitVec 12) (s : State) : Out :=
  .next (gate (.mtc a crn) s (fun s =>
    match userAccess crn.toNat with
    | none => s.ill (.mtc a crn)
    | some u =>
      if u = .no ∧ !s.me.priv then s.privFault (.mtc a crn)
      else if u = .read ∧ !s.me.priv ∧ !(crn = 4 ∧ s.residentThread (coreOf s.cur)) then s.advance
      else match s.writeReg s.cur crn.toNat (s.me.getX a) with
        | none => s.ill (.mtc a crn)
        | some s => s.advance))

/-- REGISTER_WRITE (R8): RW fields take the value, W1C bits are cleared by ones, a WO register has its effect, and what is RO stays.
The index names the slot that the register belongs to, or one of its core. -/
def execRegisterWrite (crn idx : Nat) (v : Word) (s : State) : Out :=
  .next (if idx < 2 ^ 15 then (s.writeReg idx crn v).getD s else s)

end Sys2Proof.Machine
end

