-- ==== Sys2Proof/Machine/Sampling.lean ====
section
/-! DEFINITION. Sorting, random numbers and the depth stack (16_rollback R258, 17_generation R267 to R272). -/
namespace Sys2Proof.Machine

/-! ## VSORTK and VMERGEK (R258, R267) -/

/-- A key as an integer in its order: for f32, NaN below every number and −0 below +0. -/
def sortKey (ty : Ty) (b : Nat) : Int :=
  if tyInt ty then intValue ty b
  else if (fmtF32.read b).isNan then -(2 ^ 40)
  else if bitOf b 31 then -((b % 2 ^ 31 : Nat) : Int) - 1
  else b

/-- Inserts a pair before the first of a smaller key. -/
def insertPair (ty : Ty) (p : Nat × Nat) : List (Nat × Nat) → List (Nat × Nat)
  | [] => [p]
  | q :: r => if sortKey ty q.1 < sortKey ty p.1 then p :: q :: r else q :: insertPair ty p r

/-- Pairs by descending key; equal keys keep their order. -/
def rankPairs (ty : Ty) (ps : List (Nat × Nat)) : List (Nat × Nat) := ps.foldl (fun l p => insertPair ty p l) []

/-- The pair that fills ranks without a lane. -/
def fillerPair (ty : Ty) : Nat × Nat :=
  (if ty = .s32 then 0x80000000 else if ty = .f32 then 0x7FC00000 else 0, 0xFFFFFFFF)

/-- The top eight pairs as a vector: key in lane 2r, tag in lane 2r + 1. -/
def topEight (ty : Ty) (ps : List (Nat × Nat)) : VWord :=
  ofLanes 32 ((List.range 8).flatMap (fun r => (let p := ((rankPairs ty ps)[r]?).getD (fillerPair ty); [p.1, p.2])))

/-- VSORTK. -/
def execVsortk (d a b : VReg) (ty : Ty) (mk : Bool) (s : State) : Out :=
  .next (vgate (.vsortk d a b ty mk) s (fun s =>
    let ls := (List.range 16).filter (fun k => !s.me.excludes mk k)
    (s.putV d (topEight ty (ls.map (fun k => (lane 32 (s.me.getV a) k, lane 32 (s.me.getV b) k)))) 8).advance))

/-- The eight pairs of a list register. -/
def listPairs (v : VWord) : List (Nat × Nat) := (List.range 8).map (fun r => (lane 32 v (2 * r), lane 32 v (2 * r + 1)))

/-- VMERGEK. -/
def execVmergek (d a b : VReg) (ty : Ty) (s : State) : Out :=
  .next (vgate (.vmergek d a b ty) s (fun s =>
    (s.putV d (topEight ty (listPairs (s.me.getV a) ++ listPairs (s.me.getV b))) 8).advance))

/-! ## VRND (R268) -/

/-- Rounds of Philox4x32-10 on a counter under a key. -/
def philox : Nat → Nat × Nat × Nat × Nat → Nat → Nat → Nat × Nat × Nat × Nat
  | 0, c, _, _ => c
  | n + 1, (c0, c1, c2, c3), k0, k1 =>
    let p := 0xD2511F53 * c0
    let q := 0xCD9E8D57 * c2
    philox n (q / 2 ^ 32 ^^^ c1 ^^^ k0, q % 2 ^ 32, p / 2 ^ 32 ^^^ c3 ^^^ k1, p % 2 ^ 32)
      ((k0 + 0x9E3779B9) % 2 ^ 32) ((k1 + 0xBB67AE85) % 2 ^ 32)

/-- The words of group g. -/
def philoxGroup (v : VWord) (k0 k1 g : Nat) : List Nat :=
  let (a, b, c, d) := philox 10 (lane 32 v (4 * g), lane 32 v (4 * g + 1), lane 32 v (4 * g + 2), lane 32 v (4 * g + 3)) k0 k1
  [a, b, c, d]

/-- VRND. -/
def execVrnd (d a : VReg) (mk : Bool) (s : State) : Out :=
  .next (vgate (.vrnd d a mk) s (fun s =>
    let k0 := s.me.ctl.rngklo.toNat % 2 ^ 32
    let k1 := s.me.ctl.rngkhi.toNat % 2 ^ 32
    let ws := (List.range 4).flatMap (philoxGroup (s.me.getV a) k0 k1)
    s.laneOp d 32 mk 12 (fun k => ((ws[k]?).getD 0, .clear))))

/-! ## The depth stack (R271, R272) -/

/-- Bytes of a stack area. -/
def stackSize : Nat := 0x440

/-- The access of a stack area through sg7: DSTKA needs no W. -/
def stackAccess (o : Word) (write : Bool) : Access :=
  ⟨7, o, stackSize, 64, if write then 0x03 else 0x01, if write then 3 else 0, false, false⟩

/-- The place of a byte of an access. -/
def pieceAt : List Piece → Nat → Option Nat
  | [], _ => none
  | p :: ps, o =>
    if o < p.len then (match p.loc with
      | .here a => some (a + o)
      | .there _ _ => none)
    else pieceAt ps (o - p.len)

/-- An entry of the slot's store buffer overlaps the pieces. -/
def Slot.buffered (p : Slot) (ps : List Piece) : Bool :=
  ps.any (fun q => p.sb.any (fun e => match e.kind with
    | .write ws => ws.any (fun w => overlaps q.loc q.len w.loc (if w.tag.isSome then 8 else w.bytes.length))
    | .atomic r => overlaps q.loc q.len r.loc r.size
    | .reduce r => overlaps q.loc q.len r.loc r.size
    | _ => false))

/-- A depth-stack form: an ember takes ILL; the checks; the wait for the slot's own stores; then the step on the words of the area,
or ECCUNC when one that it reads is uncorrectable; what it writes, it writes whole. An area outside this package takes SEGRIGHTS (assumption 30). -/
def State.stackOp (s : State) (i : Instr) (o : Word) (write : Bool) (read written : State → (Nat → Nat) → List Nat)
    (k : State → (Nat → Nat) → State) : State :=
  gate i s (fun s =>
    if s.me.ember then s.ill i
    else
      let acc := stackAccess o write
      s.access acc (fun s ps =>
        if s.me.buffered ps || ps.any (fun p => s.atomicAhead s.cur p.loc p.len) then s
        else if anyRemote ps then s.raise Cause.segrights acc.o acc.einfo
        else
          let place := fun (n : Nat) => (pieceAt ps n).getD 0
          let s := s.mergeWord (place 0)
          if (read s place).any (fun n => s.badAt (place n) 8) then s.raise Cause.eccunc acc.o acc.einfo
          else (k ((read s place ++ written s place).foldl (fun s n => s.mergeWord (place n)) s) place).advance))

/-- CTL fields: N and TOP. -/
def stackN (c : Nat) : Nat := fld c 0 7
def stackTop (c : Nat) : Nat := fld c 8 7

/-- Words DSTKP reads: CTL, and when the push is not refused PATH[d − 1]. A count above 64, which R271 does
not have, refuses as 64 does (assumption 30). -/
def pushRefused (c d : Nat) : Bool := decide (stackTop c < d) || decide (63 < d) || decide (64 ≤ stackN c)
def pushTouches (c d : Nat) : List Nat :=
  if pushRefused c d then [0]
  else 0 :: (if d = 0 then [] else [0x40 + 8 * (d - 1)])

/-- Words DSTKP writes whole, beside CTL: PATH[d] and MASK[N]. A write that covers a word clears its error (R355). -/
def pushWrites (c d : Nat) : List Nat :=
  if pushRefused c d then [] else [0x40 + 8 * d, 0x240 + 8 * stackN c]

/-- The step of DSTKP on the area. -/
def State.push (s : State) (place : Nat → Nat) (d : Nat) : State × Word :=
  let c := s.homeNat (place 0) 8
  if pushRefused c d then (s.writeHomeNat (place 0) 8 (c ||| 2 ^ 15), 0)
  else
    let n := stackN c
    let m := (if d = 0 then 0 else s.homeNat (place (0x40 + 8 * (d - 1))) 8) ||| 2 ^ n
    let s := (s.writeHomeNat (place (0x40 + 8 * d)) 8 m).writeHomeNat (place (0x240 + 8 * n)) 8 m
    (s.writeHomeNat (place 0) 8 (c / 2 ^ 15 * 2 ^ 15 + (d + 1) * 2 ^ 8 + fld c 7 1 * 2 ^ 7 + (n + 1)), BitVec.ofNat 64 m)

/-- Words of the area that DSTKP and DSTKC have written are hashed (R357). -/
def State.hashWords (s : State) (place : Nat → Nat) (ns : List Nat) : State :=
  s.hash s.cur (fun p => p.hashLater (some (ns.flatMap (fun n => writeBytes (s.global (place n)) (s.homeBytes (place n) 8)))))

/-- DSTKP. -/
def execDstkp (d a b : Reg) (s : State) : Out :=
  .next (s.stackOp (.dstkp d a b) (s.me.getX b) true
    (fun s place => pushTouches (s.homeNat (place 0) 8) (s.me.getX a).toNat)
    (fun s place => pushWrites (s.homeNat (place 0) 8) (s.me.getX a).toNat)
    (fun s place =>
      let ns := pushWrites (s.homeNat (place 0) 8) (s.me.getX a).toNat ++ [0]
      let (t, w) := s.push place (s.me.getX a).toNat
      (t.hashWords place ns).writeX d w 16))

/-- DSTKA. -/
def execDstka (d a b : Reg) (s : State) : Out :=
  .next (s.stackOp (.dstka d a b) (s.me.getX b) false
    (fun s place => 0 :: (if (s.me.getX a).toNat < stackN (s.homeNat (place 0) 8) then [0x240 + 8 * ((s.me.getX a).toNat % 64)] else []))
    (fun _ _ => [])
    (fun s place =>
      let n := (s.me.getX a).toNat
      s.writeX d (if n < stackN (s.homeNat (place 0) 8) then s.homeWord (place (0x240 + 8 * (n % 64))) else 0) 16))

/-- DSTKC. -/
def execDstkc (b : Reg) (s : State) : Out :=
  .next (s.stackOp (.dstkc b) (s.me.getX b) true (fun _ _ => []) (fun _ _ => [0])
    (fun s place => (s.writeHomeNat (place 0) 8 0).hashWords place [0]))

end Sys2Proof.Machine
end

