-- ==== Sys2Proof/Machine/Service.lean ====
section
/-! DEFINITION. The host, the launch rings, errors, recovery, reset, boot and attestation (23_host R350 to R364; 10_ordering R169;
07_traps R110, R112; 18_translation R293; 02_machine R39). -/
namespace Sys2Proof.Machine

/-! ## Launch rings (R351 to R353) -/

/-- The package has 128 rings; ring n feeds hearth n / 16. -/
def ringCount : Nat := 128

def State.ring (s : State) (n : Nat) : Ring := Table.get Ring.reset s.pkg.rings n
def State.setRing (s : State) (n : Nat) (r : Ring) : State := { s with pkg := { s.pkg with rings := Table.put s.pkg.rings n r } }

/-- RING_TAIL_WRITE (R351, R352): a smaller value is ignored. -/
def execRingTailWrite (n : Nat) (v : Word) (s : State) : Out :=
  .next (if s.recovering ∨ ringCount ≤ n ∨ v.toNat < (s.ring n).tail then s else s.setRing n { s.ring n with tail := v.toNat })

/-- RING_RESUME (R353). -/
def execRingResume (n : Nat) (s : State) : Out :=
  .next (if !s.recovering ∧ n < ringCount ∧ (s.ring n).state = 2 then s.setRing n { s.ring n with state := 0, cause := 0 } else s)

/-- A write of RCTL (R351): LOG2N only while EN = 0; EN from 0 to 1 starts the ring afresh. -/
def Ring.control (r : Ring) (v : Word) : Ring :=
  let r := if r.en then r else { r with log2n := getField v 0 5 }
  let on := bitW v 8
  if on ∧ !r.en then { r with en := true, tail := 0, accept := 0, state := 0, cause := 0 } else { r with en := on }

/-- RING_ENABLE (R351): a write of RCTL, its RESUME bit included. -/
def execRingEnable (n : Nat) (v : Word) (s : State) : Out :=
  let t := if !s.recovering ∧ n < ringCount then s.setRing n ((s.ring n).control v) else s
  if bitW v 9 then execRingResume n t else .next t

/-- Address of the record at ACCEPT. -/
def Ring.recordAt (r : Ring) : Nat := r.rbase.toNat + 128 * (r.accept % 2 ^ r.log2n)

/-- A reserved byte of a record is not zero. -/
def State.recordReserved (s : State) (a : Nat) : Bool :=
  decide (s.homeNat (a + 0x18) 1 / 2 ≠ 0) || (s.homeBytes (a + 0x19) 0x67).any (fun b => b != 0)

/-- Submits the record at ACCEPT: the result of R187. -/
def State.submitRecord (s : State) (n : Nat) (a : Nat) : State × Nat :=
  let rcba := s.homeWord (a + 8)
  let h := n / 16
  if s.recordReserved a then
    let (path, _) := s.path rcba
    (if path = [] then s else s.refuseLaunch h rcba (rcbOf path) none 0x03, 2 ^ 63 + 0x03)
  else if bitOf (s.homeNat (a + 0x18) 1) 0 then s.submitReplay h rcba (s.homeWord (a + 0x10)) true
  else s.submit h rcba true none

/-- The ring has a record to read: it is served, not stopped, and ACCEPT is below TAIL. -/
def Ring.open (r : Ring) : Bool := r.en && r.state != 2 && decide (r.accept < r.tail)

/-- RING_RECORD (R352).
DESIGN CHOICE (log 93): a record that an uncorrectable error hides is read again once it has been rewritten (R355). -/
def State.readRecord (s : State) (n : Nat) : State :=
  let r := s.ring n
  let a := r.recordAt
  let seq := s.homeNat a 8
  if s.badAt a 128 then s
  else if seq ≠ r.accept + 1 then s.setRing n { r with state := 2, cause := if r.accept + 1 < seq then 1 else 2 }
  else match s.submitRecord n a with
    | (t, x) =>
      if x = fullResult then s.setRing n { r with state := 1 }
      else t.setRing n { r with state := 0, accept := r.accept + 1 }

def execRingRecord (n : Nat) (s : State) : Out := .next (if n < ringCount ∧ (s.ring n).open then s.readRecord n else s)

/-- The record can be read with an effect: a ring that waits for room needs some. -/
def State.ringDue (s : State) (n : Nat) : Bool :=
  (s.ring n).open && (decide ((s.ring n).state = 0) || decide ((s.submitRecord n (s.ring n).recordAt).2 ≠ fullResult))

/-! ## The host (R169, R350) -/

/-- Addresses of the host from here on are BAR0 offsets; below, they are local addresses of device DRAM. -/
def barBase : Nat := 2 ^ 51

/-- A BAR0 offset: ring and register (R351). -/
def ringReg (off : Nat) : Option (Nat × Nat) :=
  if 0x10000 ≤ off ∧ off < 0x10000 + 64 * ringCount then some ((off - 0x10000) / 64, (off - 0x10000) % 64) else none

/-- A host write to a ring register. -/
def State.writeRingReg (s : State) (n reg : Nat) (v : Word) : State :=
  match reg with
  | 0x00 => s.setRing n { s.ring n with rbase := v &&& 0x0007FFFFFFFFFF80 }
  | 0x08 => nextOr (execRingEnable n v s) s
  | 0x10 => nextOr (execRingTailWrite n v s) s
  | _ => s

/-- A ring register as the host reads it. -/
def Ring.read (r : Ring) (reg : Nat) : Word :=
  match reg with
  | 0x00 => r.rbase
  | 0x08 => BitVec.ofNat 64 (r.log2n + (if r.en then 2 ^ 8 else 0))
  | 0x10 => BitVec.ofNat 64 r.tail
  | 0x18 => BitVec.ofNat 64 r.accept
  | 0x20 => BitVec.ofNat 64 (r.state + r.cause * 4)
  | _ => 0

/-- Where HOST_READ reads the management port's words, 8 bytes each, and where HOST_WRITE places BAR2 (log 82). -/
def managementBase : Nat := barBase + 2 ^ 32

/-- The bytes lie in DRAM, under the 64 GiB window of BAR2 of a host port (R350). -/
def State.inBar2 (s : State) (port a n : Nat) : Bool :=
  decide (port < 2) && decide (0 < n) && decide (Table.get 0 s.pkg.bar2 port ≤ a) && decide (a + n ≤ Table.get 0 s.pkg.bar2 port + 2 ^ 36) &&
  isDram a && isDram (a + n - 1)

/-- HOST_WRITE (R169): performed at home in order of receipt; a block with an uncorrectable error takes only a write that covers it
(R355). The management port places the window of a host port (log 82). -/
def execHostWrite (place : HostAddr) (data : List Byte) (s : State) : Out :=
  let port := place.port
  let addr := place.addr
  .next (if addr = managementBase then { s with pkg := { s.pkg with bar2 := Table.put s.pkg.bar2 port (leNat (data.take 8)) } }
    else if s.recovering ∨ 2 ≤ port then s
    else if barBase ≤ addr then
      match ringReg (addr - barBase) with
      | some (n, reg) => s.writeRingReg n reg (BitVec.ofNat 64 (leNat (data.take 8)))
      | none => s
    else if !s.inBar2 port addr data.length ∨ s.writeRefused addr data.length then s
    else s.writeHome addr data)

/-- An answer to the host or the management port. -/
def State.answerHost (s : State) (bs : List Byte) : State := { s with pkg := { s.pkg with reports := s.pkg.reports ++ [bs] } }

/-- What the management port reports (R319, R321, R355, R364): HARVEST, corrected errors, CRC failures, discarded flits. -/
def State.management (s : State) : List Word :=
  [s.pkg.harvest, BitVec.ofNat 64 s.pkg.corrected, BitVec.ofNat 64 s.pkg.crcFails, BitVec.ofNat 64 s.pkg.discards]

/-- HOST_READ (R169): what the home holds; a read that meets an uncorrectable error, or no DRAM, or a package in recovery mode, is
answered without data. -/
def execHostRead (place : HostAddr) (size : Nat) (s : State) : Out :=
  let port := place.port
  let addr := place.addr
  .next (if managementBase ≤ addr then
      match s.management[(addr - managementBase) / 8]? with
      | some w => s.answerHost (bytesOf w 8)
      | none => s.answerHost []
    else if s.recovering ∨ 2 ≤ port then s.answerHost []
    else if barBase ≤ addr then
      match ringReg (addr - barBase) with
      | some (n, reg) => s.answerHost (bytesOf ((s.ring n).read reg) 8)
      | none => s.answerHost []
    else if !s.inBar2 port addr size ∨ s.badAt addr size then s.answerHost []
    else s.answerHost (s.homeBytes addr size))

/-! ## Errors and recovery (R355, R358) -/

/-- What a scrub finds uncorrectable stays bad until a write covers it whole (R355): a unit at home, a word that an L2 holds dirty, an entry
of the send store. -/
def State.spoilAt (s : State) (place : ScrubAt) : State :=
  match place with
  | .home addr => if s.populated addr || (isPool addr && s.clampExists (poolCore addr / 16)) then { s with bad := Table.set false s.bad (unitOf addr) true } else s
  | .l2 h addr => if s.holdsWord h addr then s.updHearth h (fun x => { x with bad := addr / 8 :: x.bad.filter (fun w => w != addr / 8) }) else s
  | .store sid dst seq => { s with flue := { s.flue with store := s.flue.store.map (fun (e : SendEntry) =>
      if e.flit.sid = sid ∧ e.flit.dst = dst ∧ e.flit.seq = seq then { e with bad := true } else e) } }

/-- SCRUB (R355): a corrected error is counted; an uncorrectable one stays. -/
def execScrub (place : ScrubAt) (found : Option Bool) (s : State) : Out :=
  .next (match found with
    | none => s
    | some false => { s with pkg := { s.pkg with corrected := s.pkg.corrected + 1 } }
    | some true => s.spoilAt place)

/-- PACKAGE_FAILOVER (R358): the failed number is mapped onto the spare, and its stream-table entries are freed. -/
def execPackageFailover (pkg spare : Nat) (s : State) : Out :=
  .next { s with flue := { s.flue with
    remap := Table.put s.flue.remap pkg spare
    table := s.flue.table.filter (fun e => sidPkg e.sid != pkg)
    hold := s.flue.hold.filter (fun h => sidPkg h.2.sid != pkg)
    withheld := s.flue.withheld.filter (fun x => sidPkg x.flit.sid != pkg)
    faulted := s.flue.faulted.filter (fun h => flitSource h.body != some pkg) } }

/-! ## Reset, boot and attestation -/

/-- The package registers after a device reset: what the part is made with stays (R364). -/
def Pkg.afterReset (p : Pkg) : Pkg := { Pkg.reset with harvest := p.harvest, number := p.number, bar2 := p.bar2, reports := p.reports }

/-- DEVICE_RESET (R37, R36, R39): registers at their reset values and tags full; memory keeps its bytes, and DTIME goes on. -/
def execDeviceReset (s : State) : Out :=
  .next { State.reset with
    agenda := s.agenda
    fresh := s.fresh
    cycle := s.cycle
    clock := s.clock
    home := s.home
    bad := s.bad
    pkg := s.pkg.afterReset }

/-- A firmware image is accepted (R361). -/
def imageOk (image : List Byte) : Bool :=
  decide (Config.shake256 (Config.imageKey image) 32 = Config.fusedKeyDigest) &&
  Config.ed448Verify (Config.imageKey image) (Config.shake256 (Config.imageBody image) 64) (Config.imageSignature image) &&
  decide (Config.fusedVersion ≤ Config.imageVersion image)

/-- BOOT (R361): a package that has not booted runs an accepted image, or stays in recovery mode. The firmware that then runs writes the
ceilings, and halts the boot when their sum is too high (`State.checkCeilings`, R359); a halted boot lasts until the device is reset. -/
def execBoot (image : List Byte) (s : State) : Out :=
  .next (if s.pkg.bootState = 1 ∨ s.pkg.bootState = 3 then s
    else if imageOk image then { s with pkg := { s.pkg with
      bootState := 1, fwDigest := Config.shake256 (Config.imageBody image) 64, fwVersion := Config.imageVersion image } }.checkCeilings
    else { s with pkg := { s.pkg with bootState := 2 } })

/-- `n` bytes of a list, filled up with zeros. -/
def padTo (n : Nat) (bs : List Byte) : List Byte := (bs ++ List.replicate n 0).take n

/-- The report without its signature (R362). -/
def State.attestation (s : State) (nonce : List Byte) : List Byte :=
  padTo 32 nonce ++ padTo 57 Config.identityKey ++ [if getField s.pkg.harvest 32 8 = 0 then 0 else 1] ++ List.replicate 6 0 ++
  padTo 64 s.pkg.fwDigest ++ bytesOfNat 8 Config.fusedVersion

/-- ATTESTATION_REQUEST (R362). -/
def execAttestationRequest (nonce : List Byte) (s : State) : Out :=
  .next (s.answerHost (s.attestation nonce ++ padTo 114 (Config.ed448Sign (s.attestation nonce))))

/-- A slot of a core that is reset: a general thread ends as reaped; the others are free. The entry of a stopped slot 0 or 14 in the
system fault domain is reserved again (R112). -/
def State.resetSlot (s : State) (slot : Nat) : State :=
  let p := s.slot slot
  let s := if (slotNo slot = 0 ∨ slotNo slot = 14) ∧ p.mode = .stopped then
      s.addReserved (s.hearth (hearthOf slot)).sysfdom true 1 else s
  if !p.holds then s
  else if 1 ≤ slotNo slot ∧ slotNo slot ≤ 13 then s.endThread slot false
  else s.setSlot slot Slot.free

/-- Threads that placements promised slots of a core, and that its stoker has not spawned, count as reaped (R6, R181, R182). -/
def State.losePlaced (s : State) (core h : Nat) : State :=
  (s.hearth h).pool.foldl (fun s (g : Pend) =>
    (g.threads.filter (fun t => t.phase == 0 && coreOf t.slot == core)).foldl (fun s (t : Placed) =>
      s.spawnFailed t.lid 0x20 (some (h, g))) s) s

/-- What waits in the queues of a core that is reset ends with its report (R6): a message for a handler is refused at its sender, and
threads that were promised a slot count as reaped. -/
def State.loseQueues (s : State) (core : Nat) : State :=
  (List.range 8).foldl (fun s h => s.losePlaced core h) ((s.core core).handlers.foldl (fun s f => s.refuseMessage f.src) s)

/-- The core after its reset: the launch unit may place on it again (R110). -/
def State.resetCore (s : State) (core : Nat) : State :=
  let s := ((List.range 16).foldl (fun s k => s.resetSlot (16 * core + k)) s).loseQueues core
  (s.setCore core { Core.reset with closed := (s.clamp (core / 16)).out }).poolTagsFull core

/-- CORE_RESET (R110, R112, R188): a running stoker may first end its work with EXIT; the next request, or a stoker that does not run,
resets the core. -/
def execCoreReset (core : Nat) (s : State) : Out :=
  .next (if 2048 ≤ core then s
    else if (s.slot (16 * core)).mode = .running ∧ !(s.core core).resetting then s.updCore core (fun c => { c with resetting := true })
    else s.resetCore core)

/-- A clamp's port goes out of service on an uncorrectable error in its caches: it translates nothing more until reset, its slots are
stopped with fault records, and its cores take no more work (R293). -/
def State.portFails (s : State) (clamp : Nat) : State :=
  let s := s.updClamp clamp (fun c => { c with out := true, tlb := [] })
  (List.range 16).foldl (fun s k =>
    let core := 16 * clamp + k
    let s := (List.range 16).foldl (fun s n =>
      let p := s.slot (16 * core + n)
      if p.holds && decide (p.mode ≠ .stopped) then (s.dropFrame (16 * core + n)).stopSlot (16 * core + n) Cause.eccunc false 0 0 else s) s
    s.updCore core (fun c => { c with closed := true })) s

/-- POWER_GATE (R293): a clamp that gates loses its port's translations; one that wakes walks afresh. -/
def execPowerGate (clamp : Nat) (on : Bool) (s : State) : Out :=
  .next (if 128 ≤ clamp then s
    else s.updClamp clamp (fun c => { c with gated := on, tlb := if on then [] else c.tlb }))

end Sys2Proof.Machine
end

