-- ==== Sys2Proof/Machine/Dispatch.lean ====
section
/-! DEFINITION. One arm for each row of spec/opcode_table.json, in the table's order: the instructions, then the hardware steps. -/
namespace Sys2Proof.Machine

def exec (i : Instr) (s : State) : Host.Outcome State Fault Refusal :=
  match i with
  | .add d a b sz => Sys2Proof.Machine.execAdd d a b sz s
  | .sub d a b sz => Sys2Proof.Machine.execSub d a b sz s
  | .mul d a b sz => Sys2Proof.Machine.execMul d a b sz s
  | .mulh d a b sz => Sys2Proof.Machine.execMulh d a b sz s
  | .mulhn d a b sz => Sys2Proof.Machine.execMulhn d a b sz s
  | .div d a b sz => Sys2Proof.Machine.execDiv d a b sz s
  | .divn d a b sz => Sys2Proof.Machine.execDivn d a b sz s
  | .rem d a b sz => Sys2Proof.Machine.execRem d a b sz s
  | .remn d a b sz => Sys2Proof.Machine.execRemn d a b sz s
  | .and d a b sz => Sys2Proof.Machine.execAnd d a b sz s
  | .andn d a b sz => Sys2Proof.Machine.execAndn d a b sz s
  | .or d a b sz => Sys2Proof.Machine.execOr d a b sz s
  | .xor d a b sz => Sys2Proof.Machine.execXor d a b sz s
  | .shl d a b sz => Sys2Proof.Machine.execShl d a b sz s
  | .shr d a b sz => Sys2Proof.Machine.execShr d a b sz s
  | .sra d a b sz => Sys2Proof.Machine.execSra d a b sz s
  | .rol d a b sz => Sys2Proof.Machine.execRol d a b sz s
  | .ror d a b sz => Sys2Proof.Machine.execRor d a b sz s
  | .min d a b sz => Sys2Proof.Machine.execMin d a b sz s
  | .max d a b sz => Sys2Proof.Machine.execMax d a b sz s
  | .minn d a b sz => Sys2Proof.Machine.execMinn d a b sz s
  | .maxn d a b sz => Sys2Proof.Machine.execMaxn d a b sz s
  | .sel d a b => Sys2Proof.Machine.execSel d a b s
  | .cmpeq d a b sz => Sys2Proof.Machine.execCmpeq d a b sz s
  | .cmpne d a b sz => Sys2Proof.Machine.execCmpne d a b sz s
  | .cmplt d a b sz => Sys2Proof.Machine.execCmplt d a b sz s
  | .cmpltn d a b sz => Sys2Proof.Machine.execCmpltn d a b sz s
  | .cmple d a b sz => Sys2Proof.Machine.execCmple d a b sz s
  | .cmplen d a b sz => Sys2Proof.Machine.execCmplen d a b sz s
  | .abs d a sz => Sys2Proof.Machine.execAbs d a sz s
  | .neg d a sz => Sys2Proof.Machine.execNeg d a sz s
  | .clz d a sz => Sys2Proof.Machine.execClz d a sz s
  | .ctz d a sz => Sys2Proof.Machine.execCtz d a sz s
  | .popc d a sz => Sys2Proof.Machine.execPopc d a sz s
  | .brev d a sz => Sys2Proof.Machine.execBrev d a sz s
  | .bfx d a b => Sys2Proof.Machine.execBfx d a b s
  | .bfxs d a b => Sys2Proof.Machine.execBfxs d a b s
  | .bfi d a b => Sys2Proof.Machine.execBfi d a b s
  | .sext d a sz => Sys2Proof.Machine.execSext d a sz s
  | .zext d a sz => Sys2Proof.Machine.execZext d a sz s
  | .mov d a => Sys2Proof.Machine.execMov d a s
  | .addi d a imm => Sys2Proof.Machine.execAddi d a imm s
  | .andi d a imm => Sys2Proof.Machine.execAndi d a imm s
  | .ori d a imm => Sys2Proof.Machine.execOri d a imm s
  | .xori d a imm => Sys2Proof.Machine.execXori d a imm s
  | .muli d a imm => Sys2Proof.Machine.execMuli d a imm s
  | .shli d a k => Sys2Proof.Machine.execShli d a k s
  | .shri d a k => Sys2Proof.Machine.execShri d a k s
  | .srai d a k => Sys2Proof.Machine.execSrai d a k s
  | .cmpi d a c m => Sys2Proof.Machine.execCmpi d a c m s
  | .movw d hw keep imm => Sys2Proof.Machine.execMovw d hw keep imm s
  | .lea t a g sz off => Sys2Proof.Machine.execLea t a g sz off s
  | .b c a disp => Sys2Proof.Machine.execB c a disp s
  | .bc c a b disp => Sys2Proof.Machine.execBc c a b disp s
  | .loop a disp => Sys2Proof.Machine.execLoop a disp s
  | .call disp => Sys2Proof.Machine.execCall disp s
  | .jr a => Sys2Proof.Machine.execJr a s
  | .ret => Sys2Proof.Machine.execRet s
  | .callr a => Sys2Proof.Machine.execCallr a s
  | .repf n len dv dx => Sys2Proof.Machine.execRepf n len dv dx s
  | .burn h un mn mx => Sys2Proof.Machine.execBurn h un mn mx s
  | .burnr h a b => Sys2Proof.Machine.execBurnr h a b s
  | .burnq d => Sys2Proof.Machine.execBurnq d s
  | .burne => Sys2Proof.Machine.execBurne s
  | .ld t a g sz acq off => Sys2Proof.Machine.execLd t a g sz acq off s
  | .ldn t a g sz acq off => Sys2Proof.Machine.execLdn t a g sz acq off s
  | .st t a g sz rel off => Sys2Proof.Machine.execSt t a g sz rel off s
  | .ldv v a g sz acq off => Sys2Proof.Machine.execLdv v a g sz acq off s
  | .stv v a g sz rel off => Sys2Proof.Machine.execStv v a g sz rel off s
  | .ldvg v ix b g ty mk => Sys2Proof.Machine.execLdvg v ix b g ty mk s
  | .stvs v ix b g ty mk => Sys2Proof.Machine.execStvs v ix b g ty mk s
  | .ldf t a g sc => Sys2Proof.Machine.execLdf t a g sc s
  | .ldfe t a g sc => Sys2Proof.Machine.execLdfe t a g sc s
  | .stf t a g sc => Sys2Proof.Machine.execStf t a g sc s
  | .stef t a g sc => Sys2Proof.Machine.execStef t a g sc s
  | .tagrd t a g sc => Sys2Proof.Machine.execTagrd t a g sc s
  | .tagset v a g sc => Sys2Proof.Machine.execTagset v a g sc s
  | .aadd t a g b w ret o sc => Sys2Proof.Machine.execAadd t a g b w ret o sc s
  | .aand t a g b w ret o sc => Sys2Proof.Machine.execAand t a g b w ret o sc s
  | .aor t a g b w ret o sc => Sys2Proof.Machine.execAor t a g b w ret o sc s
  | .axor t a g b w ret o sc => Sys2Proof.Machine.execAxor t a g b w ret o sc s
  | .amin t a g b w ret o sc => Sys2Proof.Machine.execAmin t a g b w ret o sc s
  | .amax t a g b w ret o sc => Sys2Proof.Machine.execAmax t a g b w ret o sc s
  | .aminn t a g b w ret o sc => Sys2Proof.Machine.execAminn t a g b w ret o sc s
  | .amaxn t a g b w ret o sc => Sys2Proof.Machine.execAmaxn t a g b w ret o sc s
  | .axch t a g b w ret o sc => Sys2Proof.Machine.execAxch t a g b w ret o sc s
  | .afadd t a g b w ret o sc => Sys2Proof.Machine.execAfadd t a g b w ret o sc s
  | .acas t a g b w o sc => Sys2Proof.Machine.execAcas t a g b w o sc s
  | .ahx t a g b ret o sc => Sys2Proof.Machine.execAhx t a g b ret o sc s
  | .dredfF64 a g b sc => Sys2Proof.Machine.execDredfF64 a g b sc s
  | .dredfF32 a g b sc => Sys2Proof.Machine.execDredfF32 a g b sc s
  | .dcloseF64 a g sc => Sys2Proof.Machine.execDcloseF64 a g sc s
  | .dcloseF32 a g sc => Sys2Proof.Machine.execDcloseF32 a g sc s
  | .fence o sc => Sys2Proof.Machine.execFence o sc s
  | .fences t sc => Sys2Proof.Machine.execFences t sc s
  | .dcwb a g sc => Sys2Proof.Machine.execDcwb a g sc s
  | .pf a g sc => Sys2Proof.Machine.execPf a g sc s
  | .putn d a core slot => Sys2Proof.Machine.execPutn d a core slot s
  | .xclr d => Sys2Proof.Machine.execXclr d s
  | .xpres d a => Sys2Proof.Machine.execXpres d a s
  | .send d a b phys spark n => Sys2Proof.Machine.execSend d a b phys spark n s
  | .recv d a b n => Sys2Proof.Machine.execRecv d a b n s
  | .spkret => Sys2Proof.Machine.execSpkret s
  | .spawn d a b ember sl => Sys2Proof.Machine.execSpawn d a b ember sl s
  | .reap d sl => Sys2Proof.Machine.execReap d sl s
  | .launch d a b graph => Sys2Proof.Machine.execLaunch d a b graph s
  | .exit => Sys2Proof.Machine.execExit s
  | .migr d a => Sys2Proof.Machine.execMigr d a s
  | .dtask d => Sys2Proof.Machine.execDtask d s
  | .slotq d a => Sys2Proof.Machine.execSlotq d a s
  | .nop => Sys2Proof.Machine.execNop s
  | .halt => Sys2Proof.Machine.execHalt s
  | .wfi => Sys2Proof.Machine.execWfi s
  | .yield => Sys2Proof.Machine.execYield s
  | .isync => Sys2Proof.Machine.execIsync s
  | .eret => Sys2Proof.Machine.execEret s
  | .uiret => Sys2Proof.Machine.execUiret s
  | .trap code => Sys2Proof.Machine.execTrap code s
  | .brk code => Sys2Proof.Machine.execBrk code s
  | .mfc d crn => Sys2Proof.Machine.execMfc d crn s
  | .mtc a crn => Sys2Proof.Machine.execMtc a crn s
  | .segld b a n => Sys2Proof.Machine.execSegld b a n s
  | .segrd d p n => Sys2Proof.Machine.execSegrd d p n s
  | .tlbi a k sc => Sys2Proof.Machine.execTlbi a k sc s
  | .vadd d a b ty mk => Sys2Proof.Machine.execVadd d a b ty mk s
  | .vsub d a b ty mk => Sys2Proof.Machine.execVsub d a b ty mk s
  | .vmul d a b ty mk => Sys2Proof.Machine.execVmul d a b ty mk s
  | .vmulh d a b ty mk => Sys2Proof.Machine.execVmulh d a b ty mk s
  | .vadds d a b ty mk => Sys2Proof.Machine.execVadds d a b ty mk s
  | .vsubs d a b ty mk => Sys2Proof.Machine.execVsubs d a b ty mk s
  | .vmin d a b ty mk => Sys2Proof.Machine.execVmin d a b ty mk s
  | .vmax d a b ty mk => Sys2Proof.Machine.execVmax d a b ty mk s
  | .vand d a b ty mk => Sys2Proof.Machine.execVand d a b ty mk s
  | .vor d a b ty mk => Sys2Proof.Machine.execVor d a b ty mk s
  | .vxor d a b ty mk => Sys2Proof.Machine.execVxor d a b ty mk s
  | .vshl d a b ty mk => Sys2Proof.Machine.execVshl d a b ty mk s
  | .vshr d a b ty mk => Sys2Proof.Machine.execVshr d a b ty mk s
  | .vsra d a b ty mk => Sys2Proof.Machine.execVsra d a b ty mk s
  | .vabs d a ty mk => Sys2Proof.Machine.execVabs d a ty mk s
  | .vfadd d a b ty mk => Sys2Proof.Machine.execVfadd d a b ty mk s
  | .vfsub d a b ty mk => Sys2Proof.Machine.execVfsub d a b ty mk s
  | .vfmul d a b ty mk => Sys2Proof.Machine.execVfmul d a b ty mk s
  | .vfmin d a b ty mk => Sys2Proof.Machine.execVfmin d a b ty mk s
  | .vfmax d a b ty mk => Sys2Proof.Machine.execVfmax d a b ty mk s
  | .vfabs d a ty mk => Sys2Proof.Machine.execVfabs d a ty mk s
  | .vfneg d a ty mk => Sys2Proof.Machine.execVfneg d a ty mk s
  | .vfma d a b ty mk => Sys2Proof.Machine.execVfma d a b ty mk s
  | .vfms d a b ty mk => Sys2Proof.Machine.execVfms d a b ty mk s
  | .vfnma d a b ty mk => Sys2Proof.Machine.execVfnma d a b ty mk s
  | .vbcast d b ty mk => Sys2Proof.Machine.execVbcast d b ty mk s
  | .vins d k b ty => Sys2Proof.Machine.execVins d k b ty s
  | .vext v k b ty => Sys2Proof.Machine.execVext v k b ty s
  | .vaddx d a b ty mk => Sys2Proof.Machine.execVaddx d a b ty mk s
  | .vfmulx d a b ty mk => Sys2Proof.Machine.execVfmulx d a b ty mk s
  | .vcmp n a b c ty mk => Sys2Proof.Machine.execVcmp n a b c ty mk s
  | .vsel d a b ty => Sys2Proof.Machine.execVsel d a b ty s
  | .mand n a b => Sys2Proof.Machine.execMand n a b s
  | .mor n a b => Sys2Proof.Machine.execMor n a b s
  | .mnot n a => Sys2Proof.Machine.execMnot n a s
  | .mpopc x a ty mk => Sys2Proof.Machine.execMpopc x a ty mk s
  | .vcvt d a nan rm src p dst mk => Sys2Proof.Machine.execVcvt d a nan rm src p dst mk s
  | .vcvts d a k src p dst mk => Sys2Proof.Machine.execVcvts d a k src p dst mk s
  | .vexp2 d a ty mk => Sys2Proof.Machine.execVexp2 d a ty mk s
  | .vlog2 d a ty mk => Sys2Proof.Machine.execVlog2 d a ty mk s
  | .vrcp d a ty mk => Sys2Proof.Machine.execVrcp d a ty mk s
  | .vrsq d a ty mk => Sys2Proof.Machine.execVrsq d a ty mk s
  | .vsqrt d a ty mk => Sys2Proof.Machine.execVsqrt d a ty mk s
  | .vtanh d a ty mk => Sys2Proof.Machine.execVtanh d a ty mk s
  | .vsigm d a ty mk => Sys2Proof.Machine.execVsigm d a ty mk s
  | .vradd d a ty mk => Sys2Proof.Machine.execVradd d a ty mk s
  | .vrmax d a ty mk => Sys2Proof.Machine.execVrmax d a ty mk s
  | .vrmin d a ty mk => Sys2Proof.Machine.execVrmin d a ty mk s
  | .vrmaxi d a ty mk => Sys2Proof.Machine.execVrmaxi d a ty mk s
  | .vscan d a ty mk => Sys2Proof.Machine.execVscan d a ty mk s
  | .vperm d a b ty mk => Sys2Proof.Machine.execVperm d a b ty mk s
  | .vslide d a k ty mk => Sys2Proof.Machine.execVslide d a k ty mk s
  | .vslideUp d a k ty mk => Sys2Proof.Machine.execVslideUp d a k ty mk s
  | .vrot d a k ty mk => Sys2Proof.Machine.execVrot d a k ty mk s
  | .vdot4 d a b ty mk => Sys2Proof.Machine.execVdot4 d a b ty mk s
  | .vdotf8 d a b ty mk => Sys2Proof.Machine.execVdotf8 d a b ty mk s
  | .vsortk d a b ty mk => Sys2Proof.Machine.execVsortk d a b ty mk s
  | .vmergek d a b ty => Sys2Proof.Machine.execVmergek d a b ty s
  | .vrnd d a mk => Sys2Proof.Machine.execVrnd d a mk s
  | .dstkp d a b => Sys2Proof.Machine.execDstkp d a b s
  | .dstka d a b => Sys2Proof.Machine.execDstka d a b s
  | .dstkc b => Sys2Proof.Machine.execDstkc b s
  | .kfmt c nan strict fb fa => Sys2Proof.Machine.execKfmt c nan strict fb fa s
  | .kmma t a b c as acc => Sys2Proof.Machine.execKmma t a b c as acc s
  | .kmmas t a b c as acc => Sys2Proof.Machine.execKmmas t a b c as acc s
  | .kmmv t b c as acc => Sys2Proof.Machine.execKmmv t b c as acc s
  | .kzero t => Sys2Proof.Machine.execKzero t s
  | .klda t a acc => Sys2Proof.Machine.execKlda t a acc s
  | .ksta t a => Sys2Proof.Machine.execKsta t a s
  | .kcvt t a c => Sys2Proof.Machine.execKcvt t a c s
  | .ksync => Sys2Proof.Machine.execKsync s
  | .kscaleA a b => Sys2Proof.Machine.execKscaleA a b s
  | .kscaleB a b => Sys2Proof.Machine.execKscaleB a b s
  | .ctxsv keep sl => Sys2Proof.Machine.execCtxsv keep sl s
  | .ctxld a sl => Sys2Proof.Machine.execCtxld a sl s
  | .accspill => Sys2Proof.Machine.execAccspill s
  | .accfill => Sys2Proof.Machine.execAccfill s
  | .cpyw a b k => Sys2Proof.Machine.execCpyw a b k s
  | .cpyq d => Sys2Proof.Machine.execCpyq d s
  | .cpyx d => Sys2Proof.Machine.execCpyx d s
  | .cpy d o sc => Sys2Proof.Machine.execCpy d o sc s
  | .cpyt d o sc => Sys2Proof.Machine.execCpyt d o sc s
  | .cpyk d o sc => Sys2Proof.Machine.execCpyk d o sc s
  | .cpys d o sc => Sys2Proof.Machine.execCpys d o sc s
  | .mwinCount d => Sys2Proof.Machine.execMwinCount d s
  | .mwin d a => Sys2Proof.Machine.execMwin d a s
  | .mtick d => Sys2Proof.Machine.execMtick d s
  | .mack a => Sys2Proof.Machine.execMack a s
  | .frameIssue core => Sys2Proof.Machine.execFrameIssue core s
  | .sequencerRelease core => Sys2Proof.Machine.execSequencerRelease core s
  | .burneComplete slot => Sys2Proof.Machine.execBurneComplete slot s
  | .burnHandlerEntry slot => Sys2Proof.Machine.execBurnHandlerEntry slot s
  | .handlerOverrun slot => Sys2Proof.Machine.execHandlerOverrun slot s
  | .atomicPerform k => Sys2Proof.Machine.execAtomicPerform k s
  | .reductionContribution k => Sys2Proof.Machine.execReductionContribution k s
  | .reductionAdmit grate k => Sys2Proof.Machine.execReductionAdmit grate k s
  | .reductionClose k => Sys2Proof.Machine.execReductionClose k s
  | .putnDelivery slot => Sys2Proof.Machine.execPutnDelivery slot s
  | .messageDelivery k => Sys2Proof.Machine.execMessageDelivery k s
  | .sparkHandlerStart core => Sys2Proof.Machine.execSparkHandlerStart core s
  | .illegalWord w => Sys2Proof.Machine.execIllegalWord w s
  | .deferredTrap slot => Sys2Proof.Machine.execDeferredTrap slot s
  | .tlbiAck slot => Sys2Proof.Machine.execTlbiAck slot s
  | .partWrite core v => Sys2Proof.Machine.execPartWrite core v s
  | .userInterruptEntry slot => Sys2Proof.Machine.execUserInterruptEntry slot s
  | .tagwait slot => Sys2Proof.Machine.execTagwait slot s
  | .slotWake slot => Sys2Proof.Machine.execSlotWake slot s
  | .loadFill slot k => Sys2Proof.Machine.execLoadFill slot k s
  | .vectorLoadFill slot k => Sys2Proof.Machine.execVectorLoadFill slot k s
  | .storeBufferDrain slot => Sys2Proof.Machine.execStoreBufferDrain slot s
  | .l2Eviction hearth line => Sys2Proof.Machine.execL2Eviction hearth line s
  | .homeMerge hearth line => Sys2Proof.Machine.execHomeMerge hearth line s
  | .emberArrival clamp pkg slot p => Sys2Proof.Machine.execEmberArrival clamp pkg slot p s
  | .emberHandoff clamp => Sys2Proof.Machine.execEmberHandoff clamp s
  | .emberack slot ok => Sys2Proof.Machine.execEmberack slot ok s
  | .haltRequest slot => Sys2Proof.Machine.execHaltRequest slot s
  | .resumeRequest slot => Sys2Proof.Machine.execResumeRequest slot s
  | .sparkDelivery core => Sys2Proof.Machine.execSparkDelivery core s
  | .launchAccept hearth rcba => Sys2Proof.Machine.execLaunchAccept hearth rcba s
  | .overflowMove hearth => Sys2Proof.Machine.execOverflowMove hearth s
  | .priorityAging hearth => Sys2Proof.Machine.execPriorityAging hearth s
  | .placement hearth => Sys2Proof.Machine.execPlacement hearth s
  | .preempt hearth rcba => Sys2Proof.Machine.execPreempt hearth rcba s
  | .groupComplete hearth rcba => Sys2Proof.Machine.execGroupComplete hearth rcba s
  | .checkedRerun hearth rcba => Sys2Proof.Machine.execCheckedRerun hearth rcba s
  | .l2WritebackFail hearth line => Sys2Proof.Machine.execL2WritebackFail hearth line s
  | .pageWalk clamp root va write => Sys2Proof.Machine.execPageWalk clamp root va write s
  | .pageFaultWake slot token decline => Sys2Proof.Machine.execPageFaultWake slot token decline s
  | .kilnGrant clamp => Sys2Proof.Machine.execKilnGrant clamp s
  | .kilnRetire core => Sys2Proof.Machine.execKilnRetire core s
  | .commandAccept core => Sys2Proof.Machine.execCommandAccept core s
  | .cpykKilnIssue core k => Sys2Proof.Machine.execCpykKilnIssue core k s
  | .copyComplete core k => Sys2Proof.Machine.execCopyComplete core k s
  | .copyFaultResume core k decline => Sys2Proof.Machine.execCopyFaultResume core k decline s
  | .nvmeReadComplete k error data => Sys2Proof.Machine.execNvmeReadComplete k error data s
  | .storageControllerReset => Sys2Proof.Machine.execStorageControllerReset s
  | .keySlotInstall n kmac ed448 => Sys2Proof.Machine.execKeySlotInstall n kmac ed448 s
  | .tick n => Sys2Proof.Machine.execTick n s
  | .slippedTickLaunch n => Sys2Proof.Machine.execSlippedTickLaunch n s
  | .recordPresent n => Sys2Proof.Machine.execRecordPresent n s
  | .recordExpire n => Sys2Proof.Machine.execRecordExpire n s
  | .dtadjStep v => Sys2Proof.Machine.execDtadjStep v s
  | .timeReferenceInput r => Sys2Proof.Machine.execTimeReferenceInput r s
  | .flitReceive port f => Sys2Proof.Machine.execFlitReceive port f s
  | .lack port seq nak => Sys2Proof.Machine.execLack port seq nak s
  | .linkDown port => Sys2Proof.Machine.execLinkDown port s
  | .pause port on => Sys2Proof.Machine.execPause port on s
  | .keyx port m => Sys2Proof.Machine.execKeyx port m s
  | .rekeyStart port => Sys2Proof.Machine.execRekeyStart port s
  | .keyout port => Sys2Proof.Machine.execKeyout port s
  | .keyoutTimeout port => Sys2Proof.Machine.execKeyoutTimeout port s
  | .writeArrival grate f => Sys2Proof.Machine.execWriteArrival grate f s
  | .releaseArrival grate f => Sys2Proof.Machine.execReleaseArrival grate f s
  | .flagack a => Sys2Proof.Machine.execFlagack a s
  | .shortfallTimeout grate a => Sys2Proof.Machine.execShortfallTimeout grate a s
  | .shortfall a bitmap => Sys2Proof.Machine.execShortfall a bitmap s
  | .giveup a bitmap => Sys2Proof.Machine.execGiveup a bitmap s
  | .notable a seq => Sys2Proof.Machine.execNotable a seq s
  | .notableRetry a seq => Sys2Proof.Machine.execNotableRetry a seq s
  | .streamEntryFree grate sid => Sys2Proof.Machine.execStreamEntryFree grate sid s
  | .probe grate f => Sys2Proof.Machine.execProbe grate f s
  | .probeack a frozen => Sys2Proof.Machine.execProbeack a frozen s
  | .deadlinkTimeout pkg => Sys2Proof.Machine.execDeadlinkTimeout pkg s
  | .frozen a => Sys2Proof.Machine.execFrozen a s
  | .fzctlRetry grate token => Sys2Proof.Machine.execFzctlRetry grate token s
  | .fzctlRefuse grate token => Sys2Proof.Machine.execFzctlRefuse grate token s
  | .resume a refused => Sys2Proof.Machine.execResume a refused s
  | .remoteRead grate f => Sys2Proof.Machine.execRemoteRead grate f s
  | .ahloadLoad n => Sys2Proof.Machine.execAhloadLoad n s
  | .ahloadUnload n => Sys2Proof.Machine.execAhloadUnload n s
  | .ringTailWrite n v => Sys2Proof.Machine.execRingTailWrite n v s
  | .ringRecord n => Sys2Proof.Machine.execRingRecord n s
  | .ringResume n => Sys2Proof.Machine.execRingResume n s
  | .ringEnable n v => Sys2Proof.Machine.execRingEnable n v s
  | .hostWrite place data => Sys2Proof.Machine.execHostWrite place data s
  | .hostRead place size => Sys2Proof.Machine.execHostRead place size s
  | .registerWrite crn idx v => Sys2Proof.Machine.execRegisterWrite crn idx v s
  | .islceilWrite island v => Sys2Proof.Machine.execIslceilWrite island v s
  | .islandPowerSample island power => Sys2Proof.Machine.execIslandPowerSample island power s
  | .scrub place found => Sys2Proof.Machine.execScrub place found s
  | .packageFailover pkg spare => Sys2Proof.Machine.execPackageFailover pkg spare s
  | .deviceReset => Sys2Proof.Machine.execDeviceReset s
  | .boot image => Sys2Proof.Machine.execBoot image s
  | .attestationRequest nonce => Sys2Proof.Machine.execAttestationRequest nonce s
  | .coreReset core => Sys2Proof.Machine.execCoreReset core s
  | .powerGate clamp on => Sys2Proof.Machine.execPowerGate clamp on s

end Sys2Proof.Machine
end

