-- ==== Sys2Proof/Machine/Due.lean ====
section
/-! DEFINITION. Which hardware step is due: every internal step happens as soon as its condition holds (assumption 3). Inputs from
outside are never due. -/
namespace Sys2Proof.Machine

/-- A hardware step with its parameters: the arm of `exec` for it. -/
abbrev Step := State → Out

/-- The hardware step would change the machine. -/
def State.moves (s : State) (f : Step) : Bool :=
  match f s with
  | .next t => decide (t ≠ s)
  | _ => false

/-- Steps of a slot: its wake, its fills, its oldest store, a PUTN value, a shoot-down. -/
def slotEvents (i : Nat) (p : Slot) : List Step :=
  (if p.park.isSome then [execSlotWake i] else []) ++
  (match p.fills.findIdx? (fun f => f.waits.isEmpty) with
    | some k => [execLoadFill i k, execVectorLoadFill i k]
    | none => []) ++
  (if p.sb.isEmpty then [] else [execStoreBufferDrain i]) ++
  (if p.putn.isSome then [execPutnDelivery i] else []) ++
  (match p.barrier with
    | some (.tlbi _ _ _ _) => [execTlbiAck i]
    | _ => []) ++
  (if p.sub.isSome then [execCommandAccept (coreOf i)] else [])

/-- Steps of the requests on their way. -/
def State.wayEvents (s : State) : List Step :=
  (List.range s.atomics.length).map execAtomicPerform ++
  (List.range s.reductions.length).flatMap (fun k => [execReductionContribution k, execReductionClose k]) ++
  s.grates.flatMap (fun e => (List.range e.2.held.length).map (fun k => execReductionAdmit e.1 k)) ++
  (List.range s.flights.length).map execMessageDelivery

/-- Steps of a core: its sequencer, its kiln requests, its sparks, its collier. -/
def State.coreEvents (s : State) (c : Nat) (x : Core) : List Step :=
  (if x.sparksHeld.isEmpty then [] else [execSparkDelivery c]) ++
  (if x.frame.isSome then [execSequencerRelease c] ++ (if s.todo.contains c then [] else [execFrameIssue c]) else []) ++
  (if x.kRun.isEmpty then [] else [execKilnRetire c]) ++
  (if x.kTimed.isSome || x.kUntimed.isSome then [execKilnGrant (c / 16)] else []) ++
  (List.range x.commands.length).flatMap (fun k => [execCpykKilnIssue c k, execCopyComplete c k])

def clampEvents (c : Nat) (x : Clamp) : List Step := if x.embers.isEmpty then [] else [execEmberHandoff c]

/-- The line of the first byte or tag that an eviction has sent home. -/
def Hearth.sentLine (x : Hearth) : Option Nat :=
  match x.dirty.find? (fun e => e.2.sent) with
  | some e => some (lineOf e.1)
  | none => (x.dtags.find? (fun e => e.2.sent)).map (fun e => lineOf (8 * e.1))

/-- Steps of a hearth: evicted lines and lines that cannot go home, the launch unit. -/
def State.hearthEvents (s : State) (h : Nat) (x : Hearth) : List Step :=
  (match x.sentLine with
    | some l => [execHomeMerge h l]
    | none => []) ++
  x.failing.map (execL2WritebackFail h) ++
  (if x.overflow.isEmpty then [] else [execOverflowMove h]) ++
  (if (s.unaccepted h).isEmpty then [] else [fun (t : State) => (.next (t.acceptHeld h) : Out)]) ++
  (if x.pool.isEmpty then []
    else x.pool.flatMap (fun p => [execGroupComplete h p.rcba.toNat, execCheckedRerun h p.rcba.toNat]) ++
      [execPriorityAging h, execPlacement h] ++
      (x.pool.filter (fun p => p.state == 4)).map (fun p => execPreempt h p.rcba.toNat) ++
      (if x.pool.any (fun p => p.state == 4) then [] else match s.victim h with
        | some v => [execPreempt h v.rcba.toNat]
        | none => []))

/-- No live path to a package for 50 ms (R331). -/
def State.cutOff (s : State) (pkg : Nat) : Bool :=
  s.reaches pkg && (s.flue.dead.contains pkg || !s.inTree pkg ||
    (s.bestLink.isNone && decide (s.flue.cutSince.getD 0 + 50000000 ≤ s.dtime)))

/-- Packages that the slots and the send store address. -/
def State.peers (s : State) : List Nat :=
  (s.flue.store.map (fun e => e.flit.dst) ++ s.flue.releases.map (fun r => r.dst) ++
    s.slots.flatMap (fun e => e.2.fills.flatMap (fun f => f.waits.map (fun w => globalPkg w.addr)) ++
      (match e.2.remoteTag with
        | some t => [globalPkg (s.globalOf t.loc)]
        | none => []) ++ e.2.remoteFetch.map (fun r => s.fetchPkg e.2 r.key))).eraseDups

/-- Steps of a flue port. -/
def linkEvents (n : Nat) (l : Link) : List Step :=
  [execRekeyStart n, execKeyout n, execKeyoutTimeout n] ++ (if l.failing then [execLinkDown n] else [])

/-- Steps of the flue: arrivals, timeouts, retries and pauses. -/
def State.flueEvents (s : State) : List Step :=
  (if s.flue.withheld.isEmpty then [] else [fun s => .next s.settleArrivals]) ++
  s.flue.withheld.flatMap (fun x => (windowsOf x.flit).map (fun w => execShortfallTimeout (w.1 % 4) ⟨w.1, x.flit.dst, w.2.win⟩)) ++
  (s.flue.store.filter (fun e => e.backoff.isSome)).map (fun e => execNotableRetry ⟨e.flit.sid, e.flit.dst, e.flit.win⟩ e.flit.seq) ++
  s.flue.table.map (fun e => execStreamEntryFree e.grate e.sid) ++
  s.flue.links.flatMap (fun e => linkEvents e.1 e.2) ++
  (if s.flue.links.isEmpty then [] else [fun (t : State) => (.next t.pauseStep : Out)]) ++
  (s.peers.filter s.cutOff).map execDeadlinkTimeout

/-- Steps of the units of the package, of the atomic engines, of the rings and of the media unit. -/
def State.packageEvents (s : State) : List Step :=
  (if s.pkg.units.isEmpty then [] else [fun (t : State) => (.next t.unitStep : Out)]) ++
  (match s.pkg.ahPending with
    | [] => []
    | (i, load) :: _ => [if load then execAhloadLoad i else execAhloadUnload i]) ++
  s.pkg.rings.map (fun e => execRingRecord e.1) ++
  (if bitW s.pkg.tickctl 0 then (List.range 64).flatMap (fun n => [execRecordPresent n, execRecordExpire n, execSlippedTickLaunch n]) else [])

/-- Ticks come last in a cycle. -/
def State.tickEvents (s : State) : List Step :=
  if bitW s.pkg.tickctl 0 && s.todo.isEmpty then (List.range 64).map execTick else []

/-- Every hardware step that may be due, in the order in which one is looked for. -/
def State.candidates (s : State) : List Step :=
  s.slots.flatMap (fun e => slotEvents e.1 e.2) ++ s.wayEvents ++ s.cores.flatMap (fun e => s.coreEvents e.1 e.2) ++
  s.clamps.flatMap (fun e => clampEvents e.1 e.2) ++ s.hearths.flatMap (fun e => s.hearthEvents e.1 e.2) ++ s.flueEvents ++
  s.packageEvents ++ s.tickEvents

/-- The hardware step that is due, if any. -/
def due (s : State) : Option Step := s.candidates.find? s.moves

end Sys2Proof.Machine
end

