-- ==== Sys2Proof/Machine/Settle.lean ====
section
/-! DEFINITION. What a slot's next instruction waits for after an instruction that has issued. -/
namespace Sys2Proof.Machine

/-- The thread's first fetch follows its overlay reads (R58, R186). A page fault in one parks the slot, and the reads are made again
after the wake; a declined one traps. -/
def State.settleOverlays (s : State) : State :=
  let ready (s : State) : State := s.upd (fun p => { p with barrier := none })
  let read (s : State) : State :=
    match s.readOverlays s.cur s.me.overlays with
    | (s, .wait) => s
    | (s, .fault c a) => (ready s).raise c a.o a.einfo
    | (s, .page a r va) => s.pageFault a r va
    | (s, .ok os) => (ready s).upd (fun p => { p with overlays := os, remoteFetch := [] })
  match s.me.park with
  | none => read s
  | some ⟨.page _ ea info, _, true, declined, _, _⟩ =>
    let s := s.upd (fun p => { p with park := none })
    if declined then (ready s).trap ⟨Cause.pagefail, s.me.pc, ea, info⟩ else read s
  | some _ => s

/-- The stoker's wait for a CTXSV (R198). -/
def State.settleSave (s : State) (slot : Nat) (keep : Bool) : State :=
  match s.trySave slot keep with
  | (s, true) => s.upd (fun p => { p with barrier := none })
  | (s, false) => s

/-- A departure that meets a deferred trap is made again after it (R107). -/
def State.settleLeave (s : State) (go : State → State) : State :=
  if s.me.deferred = [] then go s else s.upd (fun p => { p with mode := .running, barrier := none })

/-- The wait of the issuing slot, on its own turn. An instruction that waits where it stands completes in that turn. -/
def State.settleBarrier (s : State) (b : Barrier) : State :=
  match b with
  | .fence _ _ | .performed | .fences _ _ | .probed _ => s.settleFence b
  | .exit | .ending => s.settleExit b
  | .reap => s.endReap s.cur
  | .ksync =>
    if (s.myCore.kilnOf s.cur).all (fun r => r.cmd.isSome) && decide (s.me.kDone ≤ s.cycle) then s.upd (fun p => { p with barrier := none }) else s
  | .overlays => s.settleOverlays
  | .ctxsv slot keep => s.settleSave slot keep
  | .cpyx d => s.settleCpyx d
  | .depart pkg clamp haddr pc => s.settleLeave (fun s => s.settleDepart pkg clamp haddr pc)
  | .departing pkg clamp haddr pc => s.settleLeave (fun s => s.settleDeparting pkg clamp haddr pc)
  | .sentAll => s.settleSent
  | .landing p => s.settleLanding p
  | .tlbi _ _ _ _ | .sent _ _ _ _ | .recorded => s

/-- What the slot waits for after its instruction is settled if it can be. -/
def State.settleWait (s : State) : State × Bool :=
  match s.me.barrier with
  | none => (s, true)
  | some b =>
    let t := s.settleBarrier b
    (t, t.me.barrier.isNone && decide (t.me.mode = .running) && !b.standing && (t.me.traph == s.me.traph) && t.me.trapWait.isNone)

/-- The wait of a slot is settled if it can be; answers whether the slot's next instruction may issue in this turn. An instruction that
waits for another package's answer completes, parks or faults on the own turn that finds the answer (R105, R124). -/
def State.settle (s : State) : State × Bool :=
  match s.me.remoteTag with
  | some t =>
    if t.poll then s.settleWait
    else match t.answer with
      | none => (s, false)
      | some a => (s.tagAnswer t a, false)
  | none => s.settleWait

end Sys2Proof.Machine
end

