-- ==== Sys2Proof/Machine/Turn.lean ====
section
/-! DEFINITION. One turn of a core: the order of R109, the issue of the instruction at the PC, parks and wakes (02_machine R16 to
R23), lending (R19, R20). -/
namespace Sys2Proof.Machine

/-- A vector-pipe instruction of the rotation enters the pipe in this cycle (R85). -/
def State.markPipe (s : State) (i : Instr) : State :=
  if vectorPipe i && s.ready i then
    s.updCore (coreOf s.cur) (fun c => { c with vpipe := s.cycleOf (coreOf s.cur) + 1 })
  else s

/-- The issue of a word (R48). -/
def State.issueWord (s : State) (w : Nat) : Out :=
  match readWord w with
  | none => exec (.illegalWord (BitVec.ofNat 32 w)) s
  | some i => if s.legalIn s.cur i && s.late i then .next s else exec i (s.markPipe i)

/-- The fetch at the PC, its faults, and the issue (R49, R109). -/
def State.issue (s : State) : Out :=
  match s.fetch s.cur s.me.pc with
  | (s, .fault t) => .next (s.trap t)
  | (s, .page r va) => .next (s.pageFault (codeAccess s.me.pc 4) r va)
  | (s, .wait) => .next s
  | (s, .word w) => s.issueWord w

/-- The issue was a fault of the fetch or of the instruction (R109): a trap other than TRAP and BRK, or a stop. -/
def State.faulted (s t : State) : Bool :=
  decide ((t.slot s.cur).mode = .stopped) || 
  (match (t.slot s.cur).trapWait with
    | some x => decide (x.cause ≠ Cause.trapi) && decide (x.cause ≠ Cause.brkpt)
    | none => false) ||
  ((t.slot s.cur).traph && !s.me.traph &&
    decide ((t.slot s.cur).ctl.ecause.toNat ≠ Cause.trapi) && decide ((t.slot s.cur).ctl.ecause.toNat ≠ Cause.brkpt))

/-- A fault of the instruction at the PC comes before a pending user interrupt, and that before the issue (R109). -/
def State.issueOrInterrupt (s : State) : Out :=
  if s.me.userPending then
    match s.issue with
    | .next t => if s.faulted t then .next t else .next (s.upd Slot.takeUser)
    | r => r
  else s.issue

/-! ## Lending (R19, R20) -/

/-- The word at a slot's PC is ready in a turn that `owner` lends: an illegal word reads no register and is ready on any turn (R48);
another reads registers that are full or present (R17), and leaves the pipe to a frame of the owner (R85). -/
def State.wordReady (s : State) (owner slot w : Nat) : Bool :=
  match readWord w with
  | none => true
  | some i =>
    let t := { s with cur := slot }
    !t.legalIn slot i ||
    (!t.late i && (t.missing i).isNone && !t.me.settling (t.cycleOf (coreOf slot)) i && !t.frameBusy i &&
      !(vectorPipe i && (match (s.core (coreOf slot)).frame with
        | some f => f.owner == owner
        | none => false)))

/-- The word at the PC of a slot whose earlier waits are over is ready in a turn that `owner` lends. A fault of the fetch is met on any
turn; code that has not come from another package is not at hand. -/
def State.fetchReady (s : State) (owner slot : Nat) : Bool :=
  match s.fetch slot (s.slot slot).pc with
  | (_, .word w) => s.wordReady owner slot w
  | (_, .fault _) | (_, .page _ _) => true
  | (_, .wait) => false

/-- What the slot waits for after an instruction that has issued is over, so that its next instruction is ready or the waiting one
completes (R17). -/
def State.waitOver (s : State) (owner slot : Nat) : Bool :=
  match { s with cur := slot }.settle with
  | (t, true) => t.fetchReady owner slot
  | (t, false) => (s.slot slot).barrier.any Barrier.standing && (t.slot slot).barrier.isNone && (s.slot slot).remoteTag.isNone

/-- A slot may issue in a turn that `owner` lends (R17, R19, R20): a general slot of the group that is not parked and waits for nothing
more, with NOLEND clear. -/
def State.mayTake (s : State) (owner slot : Nat) : Bool :=
  let p := s.slot slot
  let o := s.slot owner
  decide (1 ≤ slotNo slot ∧ slotNo slot ≤ 13) && decide (p.mode = .running) && p.park.isNone && p.trapWait.isNone &&
  decide (p.ctl.rcba = o.ctl.rcba ∧ p.lseq = o.lseq) && !p.nolend && s.waitOver owner slot

/-- A burn that issues on a lent turn has taken one (R92). -/
def State.markLent (s t : State) : State :=
  if (s.me.burning || (t.slot s.cur).burning) && !s.faulted t then t.updSlot s.cur (fun p => p.setBurnst 5 1 1) else t

/-- The oldest pending deferred trap is a fault of a frame: it is taken on an own turn (R87). -/
def Slot.frameFault (p : Slot) : Bool :=
  match p.deferred with
  | t :: _ => bitW t.einfo 12
  | [] => false

/-- The slot `cur` takes a lent turn, in the order of R109: a debugger's halt and a frame fault act on an own turn alone (R87,
R118). -/
def State.takeLent (s : State) : Out :=
  if s.me.overdue s.dtime 1 then exec (.burnHandlerEntry s.cur) s
  else if s.me.overdue s.dtime 2 then exec (.handlerOverrun s.cur) s
  else if !s.me.deferred.isEmpty && !s.me.frameFault then exec (.deferredTrap s.cur) s
  else match s.settle with
    | (t, false) => .next t
    | (t, true) =>
      match if t.me.deferred.isEmpty then t.issueOrInterrupt else t.issue with
      | .next u => .next (t.markLent u)
      | r => r

/-- The turn goes to the first slot after the owner that may take it. -/
def State.lend (s : State) (owner : Nat) : Out :=
  if 1 ≤ slotNo owner ∧ slotNo owner ≤ 13 then
    match (List.range 15).find? (fun k => s.mayTake owner (16 * coreOf owner + (slotNo owner + k + 1) % 16)) with
    | some k => { s with cur := 16 * coreOf owner + (slotNo owner + k + 1) % 16, lent := true }.takeLent
    | none => .next s
  else .next s

/-! ## Own turns (R109) -/

/-- A parked slot on its own turn (R21 to R23, R91, R288): a BURNE completes on it once DTIME has reached BMIN; another instruction
ends with TAGWAIT when its limit was reached before its event, and issues once its event has occurred in an earlier cycle, on one of
the next two own turns; until then its turns are lent. -/
def State.parkedTurn (s : State) (k : Park) : Out :=
  if k.reason = .burne then
    if decide (s.me.ctl.bmin.toNat ≤ s.dtime) then exec (.burneComplete s.cur) s else s.lend s.cur
  else if s.me.expired s.dtime && s.me.tagwait.isNone then exec (.tagwait s.cur) s
  else if k.occurred && decide (k.at_ < s.cycle) then
    if !k.passed then (s.upd (fun p => { p with park := some { k with passed := true } })).lend s.cur
    else match k.reason with
      | .page _ ea info =>
        if k.declined then .next ((s.upd (fun p => { p with park := none })).trap ⟨Cause.pagefail, s.me.pc, ea, info⟩)
        else s.issueOrInterrupt
      | _ => s.issueOrInterrupt
  else if s.me.userPending then exec (.userInterruptEntry s.cur) s
  else s.lend s.cur

/-- A running slot on its own turn, after the halt request, the overrun check and the deferred traps. The turn after a YIELD is
lent. -/
def State.openTurn (s : State) (yielded : Bool) : Out :=
  match s.settle with
  | (s, false) =>
    if yielded then s.lend s.cur
    else .next (if s.me.barrier.any Barrier.isCpyx && s.me.userPending then s.upd Slot.takeUser else s)
  | (s, true) =>
    match s.me.park with
    | some k => s.parkedTurn k
    | none => if yielded then s.lend s.cur else s.issueOrInterrupt

/-- A trap whose entry waited is entered on the first own turn with no fill outstanding into x12 to x15 (R106). -/
def State.resumeTrap (s : State) : State :=
  match s.me.trapWait with
  | some t => if s.me.topQuiet then s.enterTrap t else s
  | none => s

/-- The order of R109. A tagged access that has acted in another package, or may have, completes before a deferred trap: its instruction
has issued (R105). -/
def State.runningTurn (s : State) (yielded : Bool) : Out :=
  if s.me.haltRequest then .next (s.upd (fun p => p.haltAt s.clock))
  else if s.me.overdue s.dtime 1 then exec (.burnHandlerEntry s.cur) s
  else if s.me.overdue s.dtime 2 then exec (.handlerOverrun s.cur) s
  else if s.me.trapWait.isSome then .next s.resumeTrap
  else if !s.me.deferred.isEmpty && !s.me.committed then exec (.deferredTrap s.cur) s
  else s.openTurn yielded

/-- A slot that leaves, on its own turn; an ember that finds no room where it goes is parked, and its turn is lent (R25). -/
def State.leavingTurn (s : State) : Out :=
  let t := s.settle.1
  if (t.slot s.cur).mode = .leaving ∧ t.roomless s.cur = true then t.lend s.cur else .next t

/-- The turn of a running slot; it is the one that a YIELD before it lends (R119). -/
def State.yieldedTurn (s : State) : Out :=
  if s.me.yielded then (s.upd (fun p => { p with yielded := false })).runningTurn true else s.runningTurn false

/-- The own turn of the slot `cur`. -/
def State.ownTurn (s : State) : Out :=
  match s.me.mode with
  | .running => s.yieldedTurn
  | .halted => if s.me.resumeRequest then (s.upd (fun p => p.resumeAt s.clock)).yieldedTurn else .next s
  | .leaving => s.leavingTurn
  | .free =>
    if slotNo s.cur = 14 ∧ (s.core (coreOf s.cur)).handlers ≠ [] then exec (.sparkHandlerStart (coreOf s.cur)) s else .next s
  | .stopped => .next s

/-- The turn of a core in the present cycle (R16). -/
def State.turn (s : State) (core : Nat) : Out :=
  { s with
    todo := s.todo.filter (fun c => c != core)
    cur := 16 * core + s.cycleOf core % 16
    lent := false
    inFrame := false }.ownTurn

end Sys2Proof.Machine
end

