-- ==== Sys2Proof/Machine/Schedule.lean ====
section
/-! DEFINITION. What a step does: a move of the agenda, a hardware step that is due, a turn of the present cycle, or the next cycle. -/
namespace Sys2Proof.Machine

/-- Cores with a turn in a new cycle: those that hold a thread or a waiting handler message, at their clamp's pace (R16). -/
def State.activeCores (s : State) : List Nat :=
  let cs := s.slots.map (fun e => coreOf e.1) ++ (s.cores.filter (fun e => !e.2.handlers.isEmpty)).map (fun e => e.1)
  sortBy id cs.eraseDups

/-- A clamp slower than 3,600 MHz leaves out cycles (R16, R360). -/
def Clamp.pace (c : Clamp) (mhz : Nat) : Clamp :=
  if 3600 ≤ mhz then c
  else if 3600 ≤ c.phase + mhz then { c with phase := c.phase + mhz - 3600 }
  else { c with phase := c.phase + mhz, lag := c.lag + 1 }

/-- The own-turn slot of a core reaches the limit of its park in this very cycle: its turn comes after every event of the cycle, which
would win (R23). -/
def State.onLimit (s : State) (core : Nat) : Bool :=
  let slot := 16 * core + s.cycleOf core % 16
  (s.slot slot).expired s.dtime && !s.limitPassed slot

/-- The next cycle of 3.6 GHz: the clock and DTIME run together, 5/18 ns a cycle (R7, R11, R16); a slew (R337) is their common
rate against the reference, and changes no count of cycles in a nanosecond of DTIME (log 80). In a package whose boot was halted no core
has a turn (R359). -/
def State.nextCycle (s : State) : State :=
  let slow := s.pkg.islfreq.filter (fun e => decide (e.1 < 128))
  let t := slow.foldl (fun (t : State) e => t.updClamp e.1 (fun c => c.pace e.2))
    { s with cycle := s.cycle + 1, clock := s.clock + cycleUnits }
  let turns := t.activeCores.filter (fun c => !t.clampOff (c / 16) && decide ((t.clamp (c / 16)).lag = (s.clamp (c / 16)).lag))
  if t.pkg.bootState = 3 then t else { t with todo := turns.filter (fun c => !t.onLimit c) ++ turns.filter t.onLimit }

/-- A move of the agenda that the debug port makes (R117). -/
def State.debug (s : State) (slot : Nat) (on : Bool) (pc : Option Word) : State :=
  if s.recovering then s
  else s.updSlot slot (fun p => { p with
    debugHalt := on
    pc := if p.mode = .halted then pc.getD p.pc else p.pc })

/-- One step without the agenda: the step that is due, a turn of this cycle, or the next cycle. -/
def State.advanceMachine (s : State) : Out :=
  match due s with
  | some f => f s
  | none =>
    match s.todo with
    | c :: _ => s.turn c
    | [] => .next s.nextCycle

/-- What the agenda may name as an event: an input or a hardware step. What a slot does on its turn, and what the sequencer issues in a
cycle, come in the turns of the core alone (R16, R85, R109). -/
def agendaMay (i : Instr) : Bool :=
  (encode i).isNone && match i with
    | .illegalWord _ | .frameIssue _ | .burneComplete _ | .burnHandlerEntry _ | .handlerOverrun _ | .deferredTrap _ | .tagwait _
    | .userInterruptEntry _ | .sparkHandlerStart _ => false
    | _ => true

/-- The turn of a core that the agenda names is the next that may come: one on whose limit an event of the cycle may still win waits for
those (R23). -/
def State.mayTurn (s : State) (c : Nat) : Bool :=
  s.todo.contains c && !(s.onLimit c && (s.todo.any (fun d => !s.onLimit d) || (due s).isSome))

/-- One step (assumption 3). The agenda chooses the order of the turns of a cycle, and no more: a core has one turn a cycle, and no
cycle ends before the turns in it (R16). -/
def State.stepOnce (s : State) : Out :=
  match s.agenda with
  | [] => s.advanceMachine
  | .event i :: r => if agendaMay i then exec i { s with agenda := r } else .next { s with agenda := r }
  | .turn c :: r =>
    if 2048 ≤ c then .fault (.noSuchCore c)
    else if s.mayTurn c then { s with agenda := r }.turn c
    else .next { s with agenda := r }
  | .portFail clamp :: r => .next (if clamp < 128 then { s with agenda := r }.portFails clamp else { s with agenda := r })
  | .debug slot on pc :: r => .next ({ s with agenda := r }.debug slot on pc)
  | .cycle :: r =>
    match s.todo with
    | c :: _ => s.turn c
    | [] => .next { s with agenda := r }.nextCycle

end Sys2Proof.Machine
end

