-- ==== Sys2Proof/Machine/Program.lean ====
section
/-! DEFINITION. How a program is placed from outside (assumption 13): the bytes of one instruction at the PC of slot 0 of core 0, and
a supervisor thread there. -/
namespace Sys2Proof.Machine

/-- A thread of slot 0 of core 0 at user address 0, with code in DRAM from local address 0 (R18, R41). -/
def Slot.loaded (p : Slot) : Slot :=
  { p with
    mode := .running
    park := none
    barrier := none
    pc := 0
    sg := p.sg.set 0 ⟨0, 0xFFFF, 0x85⟩
    ctl := { p.ctl with status := p.ctl.status ||| 1#64 } }

/-- The instruction's bytes stand where the next step fetches. -/
def State.placeWord (s : State) (nbits w : Nat) : State :=
  let s := s.writeHome 0 (bytesOfNat 4 (w % 2 ^ nbits))
  { s.updSlot 0 Slot.loaded with
    agenda := []
    todo := [0]
    cycle := 16 * (s.cycle / 16) }

end Sys2Proof.Machine
end

