-- ==== Sys2Proof/Machine/Step.lean ====
section
/-! DEFINITION. One step of the machine, and the placing of one instruction word. -/
namespace Sys2Proof.Machine

/-- One step: the head of the agenda, a hardware step that is due, a turn of the present cycle, or the next cycle. -/
def step (s : State) : Host.Outcome State Fault Refusal := s.stepOnce

/-- The state whose next step fetches and runs the word. -/
def State.withFetchWord (s : State) (nbits w : Nat) : State := s.placeWord nbits w

end Sys2Proof.Machine
end

