-- ==== Sys2Proof/Safety.lean ====
section
/-! DEFINITION. What counts as a safe run: home memory and the tags keep their canonical form, and every L2 holds one entry a byte. -/
namespace Sys2Proof

/-- Home memory and the tags are in canonical form. -/
def Safe (s : Machine.State) : Prop :=
  Machine.memoryWf s.home = true ∧ Machine.Table.wf true s.tags = true

/-- The dirty bytes and tags of every L2 stand in order, one entry each. -/
def L2Ordered (s : Machine.State) : Prop :=
  s.hearths.all (fun e => Machine.Table.sorted e.2.dirty && Machine.Table.sorted e.2.dtags) = true

/-- A step that answers a next state. -/
def Goes (s : Machine.State) : Prop := ∃ t, Machine.step s = .next t

end Sys2Proof
end

