-- ==== Sys2Proof/Safety/Scalar.lean ====
section
/-! DEFINITION. The results that 04_scalar gives its instructions, written over bit vectors of the operand width: the tables that
the statements of the scalar family compare `exec` with. -/
namespace Sys2Proof.Machine

/-- A row of the ALU table with two sources (R63, R64): destination, sources, width, latency (R61) and the w-bit result. -/
structure AluRow where
  d : Reg
  a : Reg
  b : Reg
  sz : Width
  latency : Nat
  result : (w : Nat) → BitVec w → BitVec w → BitVec w

/-- Quotients and remainders of R66. -/
def divResult (w : Nat) (a b : BitVec w) : BitVec w := if b = 0 then BitVec.allOnes w else a.sdiv b
def divnResult (w : Nat) (a b : BitVec w) : BitVec w := if b = 0 then BitVec.allOnes w else a / b
def remResult (w : Nat) (a b : BitVec w) : BitVec w := if b = 0 then a else a.srem b
def remnResult (w : Nat) (a b : BitVec w) : BitVec w := if b = 0 then a else a % b

/-- A comparison's result (R68). -/
def flag (w : Nat) (c : Bool) : BitVec w := if c then 1 else 0

/-- Sums, products, quotients and logic (R64 to R66). -/
def arithRow : Instr → Option AluRow
  | .add d a b sz => some ⟨d, a, b, sz, 2, fun _ a b => a + b⟩
  | .sub d a b sz => some ⟨d, a, b, sz, 2, fun _ a b => a - b⟩
  | .mul d a b sz => some ⟨d, a, b, sz, 5, fun _ a b => a * b⟩
  | .mulh d a b sz => some ⟨d, a, b, sz, 5, fun w a b => (a.signExtend (2 * w) * b.signExtend (2 * w)).extractLsb' w w⟩
  | .mulhn d a b sz => some ⟨d, a, b, sz, 5, fun w a b => (a.zeroExtend (2 * w) * b.zeroExtend (2 * w)).extractLsb' w w⟩
  | .div d a b sz => some ⟨d, a, b, sz, 15, divResult⟩
  | .divn d a b sz => some ⟨d, a, b, sz, 15, divnResult⟩
  | .rem d a b sz => some ⟨d, a, b, sz, 15, remResult⟩
  | .remn d a b sz => some ⟨d, a, b, sz, 15, remnResult⟩
  | .and d a b sz => some ⟨d, a, b, sz, 2, fun _ a b => a &&& b⟩
  | .andn d a b sz => some ⟨d, a, b, sz, 2, fun _ a b => a &&& ~~~b⟩
  | .or d a b sz => some ⟨d, a, b, sz, 2, fun _ a b => a ||| b⟩
  | .xor d a b sz => some ⟨d, a, b, sz, 2, fun _ a b => a ^^^ b⟩
  | _ => none

/-- Shifts, rotates, smaller and larger, and comparisons (R64, R67, R68). -/
def shiftRow : Instr → Option AluRow
  | .shl d a b sz => some ⟨d, a, b, sz, 2, fun w a b => a <<< (b.toNat % w)⟩
  | .shr d a b sz => some ⟨d, a, b, sz, 2, fun w a b => a >>> (b.toNat % w)⟩
  | .sra d a b sz => some ⟨d, a, b, sz, 2, fun w a b => a.sshiftRight (b.toNat % w)⟩
  | .rol d a b sz => some ⟨d, a, b, sz, 2, fun w a b => a.rotateLeft (b.toNat % w)⟩
  | .ror d a b sz => some ⟨d, a, b, sz, 2, fun w a b => a.rotateRight (b.toNat % w)⟩
  | .min d a b sz => some ⟨d, a, b, sz, 2, fun _ a b => if a.sle b then a else b⟩
  | .max d a b sz => some ⟨d, a, b, sz, 2, fun _ a b => if b.sle a then a else b⟩
  | .minn d a b sz => some ⟨d, a, b, sz, 2, fun _ a b => if a.ule b then a else b⟩
  | .maxn d a b sz => some ⟨d, a, b, sz, 2, fun _ a b => if b.ule a then a else b⟩
  | .cmpeq d a b sz => some ⟨d, a, b, sz, 2, fun w a b => flag w (a == b)⟩
  | .cmpne d a b sz => some ⟨d, a, b, sz, 2, fun w a b => flag w (a != b)⟩
  | .cmplt d a b sz => some ⟨d, a, b, sz, 2, fun w a b => flag w (a.slt b)⟩
  | .cmpltn d a b sz => some ⟨d, a, b, sz, 2, fun w a b => flag w (a.ult b)⟩
  | .cmple d a b sz => some ⟨d, a, b, sz, 2, fun w a b => flag w (a.sle b)⟩
  | .cmplen d a b sz => some ⟨d, a, b, sz, 2, fun w a b => flag w (a.ule b)⟩
  | _ => none

/-- Zero bits above the highest one bit, zero bits below the lowest, and one bits (R69). -/
def leadingZeros {w : Nat} (a : BitVec w) : Nat := ((List.range w).takeWhile (fun k => !a.getLsbD (w - 1 - k))).length
def trailingZeros {w : Nat} (a : BitVec w) : Nat := ((List.range w).takeWhile (fun k => !a.getLsbD k)).length
def oneBits {w : Nat} (a : BitVec w) : Nat := ((List.range w).filter (fun k => a.getLsbD k)).length

/-- A row with one source; `b` names the same register again and is not used. -/
def unaryRow : Instr → Option AluRow
  | .abs d a sz => some ⟨d, a, a, sz, 2, fun _ a _ => if a.msb then -a else a⟩
  | .neg d a sz => some ⟨d, a, a, sz, 2, fun _ a _ => -a⟩
  | .clz d a sz => some ⟨d, a, a, sz, 3, fun w a _ => BitVec.ofNat w (leadingZeros a)⟩
  | .ctz d a sz => some ⟨d, a, a, sz, 3, fun w a _ => BitVec.ofNat w (trailingZeros a)⟩
  | .popc d a sz => some ⟨d, a, a, sz, 3, fun w a _ => BitVec.ofNat w (oneBits a)⟩
  | .brev d a sz => some ⟨d, a, a, sz, 3, fun _ a _ => a.reverse⟩
  | .sext d a sz => some ⟨d, a, a, sz, 2, fun _ a _ => a⟩
  | .mov d a => some ⟨d, a, a, .w64, 2, fun _ a _ => a⟩
  | _ => none

/-- The register that an ALU row writes (R63). -/
def AluRow.value (k : AluRow) (p : Slot) : Word :=
  (k.result (widthBits k.sz) ((p.getX k.a).setWidth _) ((p.getX k.b).setWidth _)).signExtend 64

/-- A result of 64 bits that an instruction computes from the slot's registers: destination, value, latency. -/
structure WordRow where
  d : Reg
  value : Slot → Word
  latency : Nat

/-- The immediate forms (R71, R73 to R75, R77). -/
def immediateRow : Instr → Option WordRow
  | .addi d a imm => some ⟨d, fun p => p.getX a + imm.signExtend 64, 2⟩
  | .andi d a imm => some ⟨d, fun p => p.getX a &&& imm.signExtend 64, 2⟩
  | .ori d a imm => some ⟨d, fun p => p.getX a ||| imm.signExtend 64, 2⟩
  | .xori d a imm => some ⟨d, fun p => p.getX a ^^^ imm.signExtend 64, 2⟩
  | .muli d a imm => some ⟨d, fun p => p.getX a * imm.signExtend 64, 5⟩
  | .shli d a k => some ⟨d, fun p => BitVec.ofNat 64 ((p.getX a).toNat * 2 ^ k.toNat), 2⟩
  | .shri d a k => some ⟨d, fun p => BitVec.ofNat 64 ((p.getX a).toNat / 2 ^ k.toNat), 2⟩
  | .srai d a k => some ⟨d, fun p => BitVec.ofInt 64 ((p.getX a).toInt / (2 ^ k.toNat : Nat)), 2⟩
  | .movw d hw false imm => some ⟨d, fun _ => imm.zeroExtend 64 <<< (16 * hw.toNat), 2⟩
  | .movw d hw true imm => some ⟨d, fun p =>
      BitVec.ofNat 64 ((p.getX d).toNat / 2 ^ (16 * hw.toNat + 16) * 2 ^ (16 * hw.toNat + 16) +
        imm.toNat * 2 ^ (16 * hw.toNat) + (p.getX d).toNat % 2 ^ (16 * hw.toNat)), 2⟩
  | .zext d a sz => some ⟨d, fun p => ((p.getX a).setWidth (widthBits sz)).zeroExtend 64, 2⟩
  | .sel d a b => some ⟨d, fun p => if p.getX d = 0 then p.getX b else p.getX a, 2⟩
  | _ => none

/-- A condition of R44 read over integers. -/
def condition (c : Cond) (a b : Word) : Prop :=
  match c with
  | .eq => a = b
  | .ne => a ≠ b
  | .lt => a.toInt < b.toInt
  | .ge => b.toInt ≤ a.toInt
  | .ltn => a.toNat < b.toNat
  | .gen => b.toNat ≤ a.toNat
  | .le => a.toInt ≤ b.toInt
  | .gt => b.toInt < a.toInt
  | .len => a.toNat ≤ b.toNat
  | .gtn => b.toNat < a.toNat
  | .al => True

end Sys2Proof.Machine
end

