-- ==== Sys2Proof/Safety/Frames.lean ====
section
/-! DEFINITION. What a step leaves as it was: the terms in which the frame statements are made. -/
namespace Sys2Proof.Machine

/-- Every byte and every tag of memory reads as before, at home and in every hearth. -/
def SameMemory (s t : State) : Prop :=
  (∀ a, t.homeByte a = s.homeByte a ∧ t.homeTag a = s.homeTag a) ∧
  ∀ h a, t.hearthByte h a = s.hearthByte h a ∧ t.hearthTag h a = s.hearthTag h a

/-- Every other slot, every core with its tiles and its sequencer, and every unit of the package are as before. -/
def SameElsewhere (s t : State) : Prop :=
  (∀ k, k ≠ s.cur → t.slot k = s.slot k) ∧ t.cores = s.cores ∧ t.clamps = s.clamps ∧ t.grates = s.grates ∧
  t.atomics = s.atomics ∧ t.reductions = s.reductions ∧ t.flights = s.flights ∧ t.pkg = s.pkg ∧ t.flue = s.flue ∧
  t.clock = s.clock ∧ t.cycle = s.cycle ∧ t.cur = s.cur

/-- Every x register outside `xd`, with its full/empty bit, and every vector register outside `vd`, with its presence bit. -/
def SameRegisters (xd : List Reg) (vd : List VReg) (p q : Slot) : Prop :=
  (∀ r, r ∉ xd → q.getX r = p.getX r ∧ q.fullX r = p.fullX r) ∧
  (∀ v, v ∉ vd → q.getV v = p.getV v ∧ q.presentV v = p.presentV v)

/-- Mask registers, segments, control registers, the banks of an exception, the store buffer, messages and fills. -/
def SameControl (p q : Slot) : Prop :=
  q.m = p.m ∧ q.sg = p.sg ∧ q.ctl = p.ctl ∧ q.sbank = p.sbank ∧ q.sseg = p.sseg ∧ q.ubank = p.ubank ∧ q.sb = p.sb ∧
  q.msgs = p.msgs ∧ q.fills = p.fills ∧ q.mode = p.mode ∧ q.barrier = p.barrier ∧ q.deferred = p.deferred

/-- The destination of an instruction of 04_scalar. -/
def scalarDest : Instr → Option Reg
  | .add d _ _ _ | .sub d _ _ _ | .mul d _ _ _ | .mulh d _ _ _ | .mulhn d _ _ _ | .div d _ _ _ | .divn d _ _ _ | .rem d _ _ _
  | .remn d _ _ _ | .and d _ _ _ | .andn d _ _ _ | .or d _ _ _ | .xor d _ _ _ | .shl d _ _ _ | .shr d _ _ _ | .sra d _ _ _
  | .rol d _ _ _ | .ror d _ _ _ | .min d _ _ _ | .max d _ _ _ | .minn d _ _ _ | .maxn d _ _ _ | .cmpeq d _ _ _ | .cmpne d _ _ _
  | .cmplt d _ _ _ | .cmpltn d _ _ _ | .cmple d _ _ _ | .cmplen d _ _ _ | .sel d _ _ | .abs d _ _ | .neg d _ _ | .clz d _ _
  | .ctz d _ _ | .popc d _ _ | .brev d _ _ | .bfx d _ _ | .bfxs d _ _ | .bfi d _ _ | .sext d _ _ | .zext d _ _ | .mov d _
  | .addi d _ _ | .andi d _ _ | .ori d _ _ | .xori d _ _ | .muli d _ _ | .shli d _ _ | .shri d _ _ | .srai d _ _ | .cmpi d _ _ _
  | .movw d _ _ _ | .lea d _ _ _ _ => some d
  | _ => none

/-- LEA alone of the chapter can take a fault beyond ILL: its offset lies outside the segment (R60, R78). -/
def leaInside (p : Slot) : Instr → Prop
  | .lea _ a g sz off =>
    p.seg g.toNat ≠ Seg.empty ∧
      (p.getX a + off.signExtend 64 * BitVec.ofNat 64 (msizeBytes sz)).toNat + msizeBytes sz - 1 ≤ (p.seg g.toNat).limit.toNat
  | _ => True

/-- A burn is over in `q`, as BURNE leaves it (R91): STATUS.BURN, BURNST.STATE and BURNST.HELD are 0, and the entries that `p` held
are in the store buffer, in their order, and are held no more. -/
def BurnOver (p q : Slot) : Prop :=
  q.burning = false ∧ q.burnState = 0 ∧ getField q.ctl.burnst 9 6 = 0 ∧
  q.sb = p.sb.map (fun (e : SbEntry) => { e with held := false })

end Sys2Proof.Machine
end

