-- ==== Sys2Proof/Safety/Lanes.lean ====
section
/-! DEFINITION. What 14_vector, 16_rollback and 17_generation give each lane: the tables that the statements of the vector families
compare `exec` with. -/
namespace Sys2Proof.Machine

/-- Lane i of w bits as a bit vector (R220). -/
def laneBits (w : Nat) (v : VWord) (i : Nat) : BitVec w := v.extractLsb' (w * i) w

/-- A lane-wise form (R221, R222): destination, lane width, latency, the lanes that keep their old value, the value of every other
lane, and the sticky bits that lane raises. -/
structure LaneRow where
  d : VReg
  w : Nat
  latency : Nat
  keeps : Slot → Nat → Bool
  value : Slot → (i : Nat) → BitVec w
  flags : Slot → Nat → Sticky

/-- Lane i is masked: mk = 1 and bit i of m0 is 0 (R222). -/
def maskedLane (mk : Bool) (p : Slot) (i : Nat) : Bool := mk && !(p.getM 0).getLsbD i

/-- A form of two vectors whose lanes raise nothing. -/
def pairRow (d a b : VReg) (ty : Ty) (mk : Bool) (n : Nat) (f : (w : Nat) → BitVec w → BitVec w → BitVec w) : LaneRow :=
  ⟨d, tyBits ty, n, maskedLane mk, fun p i => f _ (laneBits _ (p.getV a) i) (laneBits _ (p.getV b) i), fun _ _ => .clear⟩

/-- Half of a product of w-bit lanes (R224). -/
def highHalf (signed : Bool) (w : Nat) (a b : BitVec w) : BitVec w :=
  if signed then (a.signExtend (2 * w) * b.signExtend (2 * w)).extractLsb' w w
  else (a.zeroExtend (2 * w) * b.zeroExtend (2 * w)).extractLsb' w w

/-- An integer clamped to w bits (R203). -/
def clampTo (signed : Bool) (w : Nat) (v : Int) : BitVec w :=
  if signed then BitVec.ofInt w (max (-(2 ^ (w - 1) : Nat)) (min v ((2 ^ (w - 1) : Nat) - 1)))
  else BitVec.ofInt w (max 0 (min v ((2 ^ w : Nat) - 1)))

/-- A lane as an integer, by type. -/
def laneInt (signed : Bool) {w : Nat} (a : BitVec w) : Int := if signed then a.toInt else a.toNat

/-- VINT (R224), VDOT4 (R237), and the integer forms and moves of VSC, VSEL and VPERM (R227, R228, R236). -/
def integerLaneRow : Instr → Option LaneRow
  | .vadd d a b ty mk => some (pairRow d a b ty mk 3 (fun _ a b => a + b))
  | .vsub d a b ty mk => some (pairRow d a b ty mk 3 (fun _ a b => a - b))
  | .vmul d a b ty mk => some (pairRow d a b ty mk 5 (fun _ a b => a * b))
  | .vmulh d a b ty mk => some (pairRow d a b ty mk 5 (highHalf (tySigned ty)))
  | .vadds d a b ty mk => some (pairRow d a b ty mk 3 (fun w a b =>
      clampTo (tySigned ty) w (laneInt (tySigned ty) a + laneInt (tySigned ty) b)))
  | .vsubs d a b ty mk => some (pairRow d a b ty mk 3 (fun w a b =>
      clampTo (tySigned ty) w (laneInt (tySigned ty) a - laneInt (tySigned ty) b)))
  | .vmin d a b ty mk => some (pairRow d a b ty mk 3 (fun _ a b =>
      if laneInt (tySigned ty) a ≤ laneInt (tySigned ty) b then a else b))
  | .vmax d a b ty mk => some (pairRow d a b ty mk 3 (fun _ a b =>
      if laneInt (tySigned ty) b ≤ laneInt (tySigned ty) a then a else b))
  | .vand d a b ty mk => some (pairRow d a b ty mk 3 (fun _ a b => a &&& b))
  | .vor d a b ty mk => some (pairRow d a b ty mk 3 (fun _ a b => a ||| b))
  | .vxor d a b ty mk => some (pairRow d a b ty mk 3 (fun _ a b => a ^^^ b))
  | .vshl d a b ty mk => some (pairRow d a b ty mk 3 (fun w a b => a <<< (b.toNat % w)))
  | .vshr d a b ty mk => some (pairRow d a b ty mk 3 (fun w a b => a >>> (b.toNat % w)))
  | .vsra d a b ty mk => some (pairRow d a b ty mk 3 (fun w a b => a.sshiftRight (b.toNat % w)))
  | .vabs d a ty mk => some (pairRow d a a ty mk 3 (fun _ a _ => if a.msb then -a else a))
  | .vdot4 d a b ty mk => some ⟨d, 32, 6, maskedLane mk, fun p i =>
      laneBits 32 (p.getV d) i + BitVec.ofInt 32
        (([0, 1, 2, 3] : List Nat).map (fun k => laneInt (tySigned ty) (laneBits 8 (p.getV a) (4 * i + k)) *
          laneInt (tySigned ty) (laneBits 8 (p.getV b) (4 * i + k)))).sum, fun _ _ => .clear⟩
  | .vbcast d b ty mk => some ⟨d, tyBits ty, 3, maskedLane mk, fun p _ => (p.getX b).setWidth _, fun _ _ => .clear⟩
  | .vins d k b ty => some ⟨d, tyBits ty, 3, fun _ i => decide (i ≠ k.toNat), fun p _ => (p.getX b).setWidth _, fun _ _ => .clear⟩
  | .vsel d a b ty => some ⟨d, tyBits ty, 2, fun _ _ => false, fun p i =>
      if (p.getM 0).getLsbD i then laneBits _ (p.getV a) i else laneBits _ (p.getV b) i, fun _ _ => .clear⟩
  | .vperm d a b ty mk => some ⟨d, tyBits ty, 4, maskedLane mk, fun p i =>
      let j := (laneBits (tyBits ty) (p.getV b) i).toNat
      if j < 512 / tyBits ty then laneBits _ (p.getV a) j else 0, fun _ _ => .clear⟩
  | .vslide d a k ty mk => some ⟨d, tyBits ty, 4, maskedLane mk, fun p i =>
      if i + k.toNat < 512 / tyBits ty then laneBits _ (p.getV a) (i + k.toNat) else 0, fun _ _ => .clear⟩
  | .vslideUp d a k ty mk => some ⟨d, tyBits ty, 4, maskedLane mk, fun p i =>
      if k.toNat ≤ i then laneBits _ (p.getV a) (i - k.toNat) else 0, fun _ _ => .clear⟩
  | .vrot d a k ty mk => some ⟨d, tyBits ty, 4, maskedLane mk, fun p i =>
      laneBits _ (p.getV a) ((i + k.toNat) % (512 / tyBits ty)), fun _ _ => .clear⟩
  | .vaddx d a b ty mk =>
    if tyInt ty then some ⟨d, tyBits ty, 3, maskedLane mk, fun p i => laneBits _ (p.getV a) i + (p.getX b).setWidth _,
      fun _ _ => .clear⟩
    else none
  | _ => none

/-- A form whose lanes are numbers of 13_numbers: the value and the sticky bits of a lane. -/
def numberRow (d : VReg) (w : Nat) (n : Nat) (keeps : Slot → Nat → Bool) (f : Slot → Nat → Res) : LaneRow :=
  ⟨d, w, n, keeps, fun p i => BitVec.ofNat w (f p i).1, fun p i => (f p i).2⟩

/-- Lane i of the type as an encoding. -/
def laneEnc (ty : Ty) (v : VWord) (i : Nat) : Nat := (laneBits (tyBits ty) v i).toNat

/-- A conversion (R230): the elements of the narrower side are p n to p n + n − 1. -/
def convertRow (d a : VReg) (src dst : Ty) (p : Nat) (mk : Bool) (f : Nat → Res) : LaneRow :=
  let n := 512 / max (tyBits src) (tyBits dst)
  let first := if tyBits dst < tyBits src then p * n else 0
  let from_ := if tyBits src < tyBits dst then p * n else 0
  numberRow d (tyBits dst) 4 (fun q i => decide (i < first ∨ first + n ≤ i) || maskedLane mk q (i - first))
    (fun q i => f (laneEnc src (q.getV a) (from_ + (i - first))))

/-- VFP, VFMA, the float forms of VSC, VCVT, VSPEC, VDOTF8 and VRND (R225 to R227, R230 to R233, R237, R258, R268). -/
def numberLaneRow : Instr → Option LaneRow
  | .vfadd d a b ty mk => some (numberRow d (tyBits ty) 4 (maskedLane mk)
      (fun p i => (tyFmt ty).add (laneEnc ty (p.getV a) i) (laneEnc ty (p.getV b) i)))
  | .vfsub d a b ty mk => some (numberRow d (tyBits ty) 4 (maskedLane mk)
      (fun p i => (tyFmt ty).sub (laneEnc ty (p.getV a) i) (laneEnc ty (p.getV b) i)))
  | .vfmul d a b ty mk => some (numberRow d (tyBits ty) 4 (maskedLane mk)
      (fun p i => (tyFmt ty).mul (laneEnc ty (p.getV a) i) (laneEnc ty (p.getV b) i)))
  | .vfmin d a b ty mk => some (numberRow d (tyBits ty) 4 (maskedLane mk)
      (fun p i => (tyFmt ty).minMax false (laneEnc ty (p.getV a) i) (laneEnc ty (p.getV b) i)))
  | .vfmax d a b ty mk => some (numberRow d (tyBits ty) 4 (maskedLane mk)
      (fun p i => (tyFmt ty).minMax true (laneEnc ty (p.getV a) i) (laneEnc ty (p.getV b) i)))
  | .vfabs d a ty mk => some ⟨d, tyBits ty, 4, maskedLane mk, fun p i =>
      if ((tyFmt ty).read (laneEnc ty (p.getV a) i)).isNan then BitVec.ofNat _ (tyFmt ty).nanBits
      else laneBits _ (p.getV a) i &&& ~~~ BitVec.twoPow _ (tyBits ty - 1), fun _ _ => .clear⟩
  | .vfneg d a ty mk => some ⟨d, tyBits ty, 4, maskedLane mk, fun p i =>
      if ((tyFmt ty).read (laneEnc ty (p.getV a) i)).isNan then BitVec.ofNat _ (tyFmt ty).nanBits
      else laneBits _ (p.getV a) i ^^^ BitVec.twoPow _ (tyBits ty - 1), fun _ _ => .clear⟩
  | .vfma d a b ty mk => some (numberRow d (tyBits ty) 5 (maskedLane mk) (fun p i =>
      (tyFmt ty).fma false false (laneEnc ty (p.getV a) i) (laneEnc ty (p.getV b) i) (laneEnc ty (p.getV d) i)))
  | .vfms d a b ty mk => some (numberRow d (tyBits ty) 5 (maskedLane mk) (fun p i =>
      (tyFmt ty).fma false true (laneEnc ty (p.getV a) i) (laneEnc ty (p.getV b) i) (laneEnc ty (p.getV d) i)))
  | .vfnma d a b ty mk => some (numberRow d (tyBits ty) 5 (maskedLane mk) (fun p i =>
      (tyFmt ty).fma true false (laneEnc ty (p.getV a) i) (laneEnc ty (p.getV b) i) (laneEnc ty (p.getV d) i)))
  | .vaddx d a b ty mk =>
    if tyInt ty then none
    else some (numberRow d (tyBits ty) 3 (maskedLane mk) (fun p i =>
      (tyFmt ty).add (laneEnc ty (p.getV a) i) ((p.getX b).toNat % 2 ^ tyBits ty)))
  | .vfmulx d a b ty mk => some (numberRow d (tyBits ty) 4 (maskedLane mk) (fun p i =>
      (tyFmt ty).mul (laneEnc ty (p.getV a) i) ((p.getX b).toNat % 2 ^ tyBits ty)))
  | .vdotf8 d a b ty mk => some (numberRow d 32 6 (maskedLane mk) (fun p i =>
      laneDotf8 ty (laneBits 32 (p.getV d) i).toNat (([0, 1, 2, 3] : List Nat).map (fun k =>
        (laneEnc ty (p.getV a) (4 * i + k), laneEnc ty (p.getV b) (4 * i + k))))))
  | .vcvt d a nan rm src p dst mk => some (convertRow d a src dst p.toNat mk (convert src dst rm nan 0))
  | .vcvts d a k src p dst mk => some (convertRow d a src dst p.toNat mk (convert src dst .rne false k.toInt))
  | .vexp2 d a ty mk => some (numberRow d (tyBits ty) 12 (maskedLane mk) (fun p i => SpecFn.exp2.eval ty (laneEnc ty (p.getV a) i)))
  | .vlog2 d a ty mk => some (numberRow d (tyBits ty) 12 (maskedLane mk) (fun p i => SpecFn.log2.eval ty (laneEnc ty (p.getV a) i)))
  | .vrcp d a ty mk => some (numberRow d (tyBits ty) 12 (maskedLane mk) (fun p i => SpecFn.rcp.eval ty (laneEnc ty (p.getV a) i)))
  | .vrsq d a ty mk => some (numberRow d (tyBits ty) 12 (maskedLane mk) (fun p i => SpecFn.rsq.eval ty (laneEnc ty (p.getV a) i)))
  | .vsqrt d a ty mk => some (numberRow d (tyBits ty) 12 (maskedLane mk) (fun p i => SpecFn.sqrt.eval ty (laneEnc ty (p.getV a) i)))
  | .vtanh d a ty mk => some (numberRow d (tyBits ty) 12 (maskedLane mk) (fun p i => SpecFn.tanh.eval ty (laneEnc ty (p.getV a) i)))
  | .vsigm d a ty mk => some (numberRow d (tyBits ty) 12 (maskedLane mk) (fun p i => SpecFn.sigm.eval ty (laneEnc ty (p.getV a) i)))
  | .vrnd d a mk => some ⟨d, 32, 12, maskedLane mk, fun p i =>
      let w (k : Nat) : Nat := (laneBits 32 (p.getV a) (i / 4 * 4 + k)).toNat
      let c := philox 10 (w 0, w 1, w 2, w 3) (p.ctl.rngklo.toNat % 2 ^ 32) (p.ctl.rngkhi.toNat % 2 ^ 32)
      BitVec.ofNat 32 (match i % 4 with
        | 0 => c.1
        | 1 => c.2.1
        | 2 => c.2.2.1
        | _ => c.2.2.2), fun _ _ => .clear⟩
  | _ => none

/-- The slot and the machine around it after an instruction of the vector families that issues in the rotation: the PC at the next
word; of the slot, nothing outside `xd`, `vd`, `md` and the sticky bits of FPST and FLTST; all of memory and the rest of the machine
as before (R223). -/
def VectorFrame (xd : List Reg) (vd : List VReg) (md : List MReg) (s t : State) : Prop :=
  t.me.pc = s.me.pc + 4 ∧ SameRegisters xd vd s.me t.me ∧ (∀ m, m ∉ md → t.me.getM m = s.me.getM m) ∧
  t.me.ctl = { s.me.ctl with fpst := t.me.ctl.fpst, fltst := t.me.ctl.fltst } ∧ t.me.sg = s.me.sg ∧ t.me.sbank = s.me.sbank ∧
  t.me.sseg = s.me.sseg ∧ t.me.ubank = s.me.ubank ∧ t.me.sb = s.me.sb ∧ t.me.msgs = s.me.msgs ∧ t.me.fills = s.me.fills ∧
  t.me.mode = s.me.mode ∧ SameMemory s t ∧ SameElsewhere s t

/-- FPST and FLTST from `n` cycles after the issue on read what they would have read and the bits of `raises`; until then they read
what they would have read (R210). -/
def Sticks (s t : State) (n : Nat) (raises : Sticky → Prop) : Prop :=
  (∀ m b, n ≤ m →
    ((t.me.fpstAt (s.cycleOf (coreOf s.cur) + m)).getLsbD b = true ↔
      (s.me.fpstAt (s.cycleOf (coreOf s.cur) + m)).getLsbD b = true ∨ ∃ f, raises f ∧ f.fp.getLsbD b = true) ∧
    ((t.me.fltstAt (s.cycleOf (coreOf s.cur) + m)).getLsbD b = true ↔
      (s.me.fltstAt (s.cycleOf (coreOf s.cur) + m)).getLsbD b = true ∨ ∃ f, raises f ∧ f.flt.getLsbD b = true)) ∧
  ∀ m, m < n → t.me.fpstAt (s.cycleOf (coreOf s.cur) + m) = s.me.fpstAt (s.cycleOf (coreOf s.cur) + m) ∧
    t.me.fltstAt (s.cycleOf (coreOf s.cur) + m) = s.me.fltstAt (s.cycleOf (coreOf s.cur) + m)

/-- A lane-wise form has written its row. -/
def LanesWritten (k : LaneRow) (s t : State) : Prop :=
  (∀ i, i < 512 / k.w → laneBits k.w (t.me.getV k.d) i =
    if k.keeps s.me i then laneBits k.w (s.me.getV k.d) i else k.value s.me i) ∧
  t.me.presentV k.d = true ∧ t.me.lat.find? (fun e => e.1 == 16 + k.d.toNat) = some (16 + k.d.toNat, s.cycleOf (coreOf s.cur) + k.latency) ∧
  Sticks s t k.latency (fun f => ∃ i, i < 512 / k.w ∧ k.keeps s.me i = false ∧ f = k.flags s.me i)

/-- The trap of a vector instruction whose source register `r` holds uncorrectable data (R223): ECCUNC with the global address of
the register's block and the size of 64 bytes (log 34). -/
def sourceTrap (s : State) (r : VReg) : State :=
  s.raise Cause.eccunc (s.global (64 * s.vregBlock s.cur r)) (BitVec.ofNat 64 (5 * 2 ^ 21))

/-! ## Masks (R228, R229) -/

/-- A condition on two integer lanes (R229). -/
def laneCondition {w : Nat} (c : Cond) (a b : BitVec w) : Prop :=
  match c with
  | .eq => a = b
  | .ne => a ≠ b
  | .lt => a.toInt < b.toInt
  | .ge => b.toInt ≤ a.toInt
  | .ltn => a.toNat < b.toNat
  | .gen => b.toNat ≤ a.toNat
  | .le => a.toInt ≤ b.toInt
  | .gt => b.toInt < a.toInt
  | .len => a.toNat ≤ b.toNat
  | .gtn => b.toNat < a.toNat
  | .al => True

/-! ## Reductions (R218, R234, R235) -/

/-- Node i of level d of the fixed tree over the lanes `n` (R218). -/
def treeNode (op : Nat → Nat → Res) (n : Nat → Nat) : Nat → Nat → Nat
  | 0, i => n i
  | d + 1, i => (op (treeNode op n d (2 * i)) (treeNode op n d (2 * i + 1))).1

/-- The prefix of lanes 0 to i (R235): the blocks of the set bits of i + 1, from the largest, combined from the left. -/
def scanFrom (op : Nat → Nat → Res) (n : Nat → Nat) (i : Nat) : Nat → Nat → Option Nat → Nat
  | 0, _, acc => acc.getD 0
  | d + 1, base, acc =>
    if (i + 1) / 2 ^ d % 2 = 1 then
      let node := treeNode op n d (base / 2 ^ d)
      scanFrom op n i d (base + 2 ^ d) (some (match acc with
        | none => node
        | some x => (op x node).1))
    else scanFrom op n i d base acc

/-- A lane as it enters a reduction: a masked lane is the identity. -/
def reductionLane (p : Slot) (a : VReg) (ty : Ty) (mk : Bool) (identity i : Nat) : Nat :=
  if maskedLane mk p i then identity else laneEnc ty (p.getV a) i

/-! ## Sorting (R258, R267) -/

/-- Pair j ranks before pair k of a list: a larger key, or an equal key that stands earlier. -/
def Beats (ty : Ty) (ps : List (Nat × Nat)) (j k : Nat) : Prop :=
  ∃ p q, ps[j]? = some p ∧ ps[k]? = some q ∧ (sortKey ty q.1 < sortKey ty p.1 ∨ (sortKey ty q.1 = sortKey ty p.1 ∧ j < k))

/-- A list register holds the eight first ranks of the pairs, with fillers where there are fewer. -/
def Ranked (ty : Ty) (ps : List (Nat × Nat)) (v : VWord) : Prop :=
  (∀ (k : Nat) (p : Nat × Nat) (before : List Nat), ps[k]? = some p → before.Nodup → (∀ j, j ∈ before ↔ Beats ty ps j k) →
    before.length < 8 →
    (laneBits 32 v (2 * before.length)).toNat = p.1 ∧ (laneBits 32 v (2 * before.length + 1)).toNat = p.2) ∧
  ∀ r, ps.length ≤ r → r < 8 → (laneBits 32 v (2 * r)).toNat = (fillerPair ty).1 ∧ (laneBits 32 v (2 * r + 1)).toNat = (fillerPair ty).2

/-! ## The depth stack (R271, R272) -/

/-- The stack area lies at `l` of this package, nothing that the slot has stored waits over it, no unit of it is uncorrectable and no
L2 holds a byte of it: `s'` is the machine after the checks of the access. -/
def StackAt (s s' : State) (o : Word) (write : Bool) (l : Nat) : Prop :=
  ∃ va h, s.resolve s.cur (stackAccess o write) = (s', .ok [⟨.here l, 0x440, va, h⟩]) ∧
    s'.me.buffered [⟨.here l, 0x440, va, h⟩] = false ∧ s'.atomicAhead s'.cur (.here l) 0x440 = false ∧ s'.bad = [] ∧ Safe s' ∧
    ∀ k a, l ≤ a → a < l + 0x440 → s'.holdsWord k a = false

end Sys2Proof.Machine
end

