-- ==== Sys2Proof/Safety/Units.lean ====
section
/-! DEFINITION. What 15_kiln says of a request: the terms in which the kiln statements are made. -/
namespace Sys2Proof.Machine

/-- `n` bytes from a global address on lie in this package's memory, the first at `l` (R279, R366). -/
def LiesHere (s : State) (w : Word) (l n : Nat) : Prop :=
  ∀ k, k < n → globalPkg (w + BitVec.ofNat 64 k) = s.pkg.number ∧ globalLocal (w + BitVec.ofNat 64 k) = l + k ∧
    s.populated (l + k) = true

/-- Two runs share no byte. -/
def Apart (a n b m : Nat) : Prop := a + n ≤ b ∨ b + m ≤ a

/-- Nothing of the units of hearth `h` is on its way and no L2 holds a byte or a tag: what a unit does in this package, it does at once
(R103, R167). -/
def UnitsIdle (s : State) (h : Nat) : Prop :=
  s.pkg.units = [] ∧ s.othersDone (unitSlot h) true none = true ∧ ∀ k a, s.holdsWord k a = false

/-- A kiln instruction that names a tile (R239, R249, R251): its tile, its kind, whether the formats are valid, the first check of its
descriptors that fails, whether it needs the K right, and what its request captures. -/
structure KilnRow where
  t : TReg
  kind : KKind
  formatOk : Bool
  fault : Option (Nat × Word)
  right : Bool
  ea : Word
  oa : Word
  eb : Word
  ob : Word
  fmt : Word
  scaled : Bool
  acc : Bool
  v : List VWord

/-- A matrix instruction with A from a descriptor. -/
def matrixRow (s : State) (kind : KKind) (t : TReg) (a b : Reg) (c : BitVec 2) (as acc : Bool) : KilnRow :=
  let p := s.me
  let w := s.kcontext c
  { t := t, kind := kind, right := true, ea := p.getX a, oa := p.getX (a + 1), eb := p.getX b, ob := p.getX (b + 1), fmt := w
    scaled := as, acc := acc, v := [], formatOk := matrixFormat w kind as (p.getX (a + 1)) (p.getX (b + 1))
    fault := s.matrixFault (clampOf s.cur) w kind as (p.getX a) (p.getX (a + 1)) (p.getX b) (p.getX (b + 1)) p.scales }

/-- The checks of KLDA and KSTA (R198, R250): BASE a multiple of 128 and RP of 16, no reserved bit, 32 rows of 128 bytes inside the
scratchpad of the core named. -/
def rowFault (s : State) (e o : Word) : Option (Nat × Word) :=
  let base := e.toNat % 2 ^ 19
  let core := e.toNat / 2 ^ 20 % 16
  let pitch := o.toNat % 2 ^ 16
  if base % 128 ≠ 0 ∨ pitch % 16 ≠ 0 then some (Cause.align, e)
  else if 2 ^ 24 ≤ e.toNat ∨ e.toNat / 2 ^ 19 % 2 = 1 ∨ 2 ^ 36 ≤ o.toNat then some (Cause.seglim, e)
  else if 16384 * s.nsg (16 * clampOf s.cur + core) < base + 31 * pitch + 128 then some (Cause.seglim, e)
  else none

/-- A tile instruction that reads or writes rows. -/
def rowsRow (s : State) (kind : KKind) (t : TReg) (a : Reg) (acc : Bool) : KilnRow :=
  let p := s.me
  { t := t, kind := kind, right := true, ea := p.getX a, oa := p.getX (a + 1), eb := 0, ob := 0, fmt := 0, scaled := false
    acc := acc, v := [], formatOk := true, fault := rowFault s (p.getX a) (p.getX (a + 1)) }

def kilnRow (s : State) : Instr → Option KilnRow
  | .kmma t a b c as acc => some (matrixRow s .mma t a b c as acc)
  | .kmmas t a b c as acc => some (matrixRow s .mmas t a b c as acc)
  | .kmmv t b c as acc =>
    let p := s.me
    let w := s.kcontext c
    some { t := t, kind := .mmv, right := true, ea := 0, oa := 0, eb := p.getX b, ob := p.getX (b + 1), fmt := w, scaled := as
           acc := acc, v := p.v.toList, formatOk := matrixFormat w .mmv as 0 (p.getX (b + 1))
           fault := s.matrixFault (clampOf s.cur) w .mmv as 0 0 (p.getX b) (p.getX (b + 1)) p.scales }
  | .kzero t => some { t := t, kind := .zero, right := false, ea := 0, oa := 0, eb := 0, ob := 0, fmt := 0, scaled := false, acc := false
                       v := [], formatOk := true, fault := none }
  | .klda t a acc => some (rowsRow s .lda t a acc)
  | .ksta t a => some (rowsRow s .sta t a false)
  | .kcvt t a c =>
    let p := s.me
    let w := s.kcontext c
    some { t := t, kind := .cvt, right := true, ea := p.getX a, oa := p.getX (a + 1), eb := 0, ob := 0, fmt := w, scaled := false
           acc := false, v := [], formatOk := (cvtFormat w).isSome
           fault := s.rowsFault (p.getX a) (p.getX (a + 1)) 16 (((cvtFormat w).map cvtRow).getD 0) }
  | _ => none

/-- The request's position is occupied, or a timed request would pass an untimed one on its tile (R239). -/
def KilnBusy (s : State) (t : TReg) : Prop :=
  if s.me.burning then s.myCore.kTimed ≠ none ∨ ∃ q, s.myCore.kUntimed = some q ∧ q.t = t else s.myCore.kUntimed ≠ none

/-- The tiles hold another context's values: ACCOWN.V is 0 or its CA is not the slot's (R196). -/
def TilesForeign (s : State) : Prop :=
  s.myCore.accown.getLsbD 0 = false ∨ s.myCore.accown.toNat / 2 ^ 17 ≠ s.me.ca.toNat / 2 ^ 17

/-- A request holds what the row names, as captured at issue (R239). -/
def HoldsRow (s : State) (k : KilnRow) (q : KReq) : Prop :=
  q.slot = s.cur ∧ q.kind = k.kind ∧ q.t = k.t ∧ q.ea = k.ea ∧ q.oa = k.oa ∧ q.eb = k.eb ∧ q.ob = k.ob ∧ q.fmt = k.fmt ∧
  q.ksc = [s.me.ctl.kscba, s.me.ctl.kscsa, s.me.ctl.kscbb, s.me.ctl.kscsb] ∧ q.scaled = k.scaled ∧ q.acc = k.acc ∧ q.v = k.v ∧
  q.timed = s.me.burning ∧ q.grants = 0 ∧ q.bad = if k.kind = .mmv then s.vregsBad s.cur else none

end Sys2Proof.Machine
end

