-- ==== Sys2Proof/Safety/Engines.lean ====
section
/-! DEFINITION. What 19_collier, 21_flue and 22_media say of a mailbox, a copy and a window: the terms in which their statements are
made. -/
namespace Sys2Proof.Machine

/-- A form that submits a mailbox (R296): its destination, kind, order and scope. -/
structure CopyRow where
  d : Reg
  form : Nat
  o : MemOrd
  sc : Scope

def copyRow : Instr → Option CopyRow
  | .cpy d o sc => some ⟨d, 0, o, sc⟩
  | .cpyt d o sc => some ⟨d, 1, o, sc⟩
  | .cpyk d o sc => some ⟨d, 2, o, sc⟩
  | .cpys d o sc => some ⟨d, 3, o, sc⟩
  | _ => none

/-- MB0 has a reserved bit set, CMODE 3, or a field that the kind does not allow (R296, R297). -/
def BlockWrong (form : Nat) (w : Word) : Prop :=
  w.toNat / 2 ^ 24 % 2 ^ 8 ≠ 0 ∨ w.toNat / 2 ^ 8 % 2 ^ 7 ≠ 0 ∨ w.toNat / 2 ^ 2 % 4 ≠ 0 ∨ w.toNat % 4 = 3 ∨
  (form ≠ 2 ∧ w.toNat / 2 ^ 32 ≠ 0) ∨ (form ≠ 1 ∧ w.toNat / 2 ^ 6 % 4 ≠ 0) ∨ (form ≠ 3 ∧ w.toNat / 2 ^ 5 % 2 ≠ 0) ∨
  (form = 3 ∧ (w.toNat / 2 ^ 4 % 2 ≠ 0 ∨ w.toNat / 2 ^ 15 % 8 ≠ 0))

/-- `t` follows `s` by the submission of a mailbox: everything R296 captures, the sequence in xd, and the tag full. -/
def Submits (s t : State) (k : CopyRow) : Prop :=
  ∃ b : Submission, t.me.sub = some b ∧ b.form = k.form ∧ b.acq = (k.o == .acq || k.o == .ar) ∧ b.rel = (k.o == .rel || k.o == .ar) ∧
    b.scope = k.sc ∧ b.priv = s.me.priv ∧ b.root = s.myCore.ptroot ∧ b.seq = s.me.xferCount ∧ b.mb = s.me.mb ∧ b.sg = s.me.sg.toList ∧
    b.ksc = [s.me.ctl.kscba, s.me.ctl.kscsa, s.me.ctl.kscbb, s.me.ctl.kscsb] ∧
    t.me.getX k.d = BitVec.ofNat 64 s.me.xferCount ∧ t.me.xferCount = (s.me.xferCount + 1) % 2 ^ 32 ∧ t.me.pc = s.me.pc + 4 ∧
    SameRegisters [k.d] [] s.me t.me ∧ SameControl s.me t.me ∧ SameMemory s t

/-- The word of the completion of CMODE 1: CSG:[MB4], as STF checks it (R296, R124). -/
def completionAccess (p : Slot) : Access :=
  { seg := (p.mb.getD 0 0).toNat / 2 ^ 21 % 8, o := p.mb.getD 4 0, size := 8, align := 8, need := 0x0A, kind := 1, tagged := true
    moves := false }

/-- One side of a plain copy lies inside its segment (R298, R128). -/
def Inside (g : Seg) (off n : Nat) : Prop := g ≠ Seg.empty ∧ off + n - 1 ≤ g.limit.toNat

/-- No byte of one side lies in the pool window (R278). -/
def OffWindow (g : Seg) (off n : Nat) : Prop := ∀ i, i < n → (g.base.toNat + off + i) % 2 ^ 57 / 2 ^ 30 ≠ 2 ^ 27 - 1

/-- Nothing waits at the arrival grates: no held write, no withheld flit, and no window that its count completes (R328, R329). -/
def QuietArrivals (s : State) : Prop :=
  s.flue.hold = [] ∧ s.flue.withheld = [] ∧ ∀ e ∈ s.flue.table, (e.win e.oldest).complete = false

/-- A write of the oldest window of an open stream that has not been seen (R328). -/
def FirstInTurn (s : State) (f : WriteFlit) (e : StreamEntry) : Prop :=
  s.entryOf f.sid = some e ∧ e.frozen = none ∧ f.win = e.oldest ∧ e.seen f = false ∧ s.heldAlready f = false ∧
  f.atomic = none ∧ f.reduce = none

/-- The only link of the package that carries data. -/
def OnlyLink (s : State) (p : Nat) : Prop :=
  p < 32 ∧ (s.link p).live = true ∧ ∀ q, q < 32 → q ≠ p → (s.link q).live = false

end Sys2Proof.Machine
end

