-- ==== Sys2Proof/Safety/Accesses.lean ====
section
/-! DEFINITION. What 09_memory says an access is and what an atomic computes: the tables that the statements of the memory families
compare `exec` with. -/
namespace Sys2Proof.Machine

/-- Bytes of a size code of the M format, as powers of two (R45). -/
def bytesOfM (sz : MSize) : Nat :=
  match sz with
  | .b8 => 1
  | .b16 => 2
  | .b32 => 4
  | .b64 => 8

def bytesOfV (sz : VSize) : Nat :=
  match sz with
  | .v64 => 64
  | .v32 => 32

/-- An access of the M format through a slot's segment (R128): offset xa + off × size, natural alignment. -/
def mAccess (p : Slot) (g : SegNo) (a : Reg) (off : Word) (size : Nat) (rights : BitVec 8) (kind : Nat) : Access :=
  { seg := g.toNat, o := p.getX a + off * BitVec.ofNat 64 size, size := size, align := size, need := rights, kind := kind,
    tagged := false, moves := true }

/-- An access of the T format (R128): offset xa. -/
def tAccess (p : Slot) (g : SegNo) (a : Reg) (size : Nat) (rights : BitVec 8) (kind : Nat) (tagged : Bool) : Access :=
  { seg := g.toNat, o := p.getX a, size := size, align := size, need := rights, kind := kind, tagged := tagged, moves := true }

/-- A load into a register (R132, R134): its access, whether it fills a vector register, the register, and sign extension. -/
structure LoadRow where
  acc : Access
  vec : Bool
  reg : Nat
  signed : Bool

def loadRow (p : Slot) : Instr → Option LoadRow
  | .ld t a g sz _ off => some ⟨mAccess p g a (off.signExtend 64) (bytesOfM sz) 0x01 0, false, t.toNat, true⟩
  | .ldn t a g sz _ off => some ⟨mAccess p g a (off.signExtend 64) (bytesOfM sz) 0x01 0, false, t.toNat, false⟩
  | .ldv v a g sz _ off => some ⟨mAccess p g a (off.signExtend 64) (bytesOfV sz) 0x01 0, true, v.toNat, false⟩
  | _ => none

/-- A store from a register (R132, R134): its access, the bytes, and whether it is a release. -/
structure StoreRow where
  acc : Access
  bytes : List Byte
  release : Bool

/-- The low `n` bytes of a register, lowest first (R7). -/
def lowBytes {w : Nat} (v : BitVec w) (n : Nat) : List Byte := (List.range n).map (fun k => v.extractLsb' (8 * k) 8)

def storeRow (p : Slot) : Instr → Option StoreRow
  | .st t a g sz rel off =>
    some ⟨mAccess p g a (off.signExtend 64) (bytesOfM sz) 0x02 1, lowBytes (p.getX t) (bytesOfM sz), rel⟩
  | .stv v a g sz rel off =>
    some ⟨mAccess p g a (off.signExtend 64) (bytesOfV sz) 0x02 1, lowBytes (p.getV v) (bytesOfV sz), rel⟩
  | _ => none

/-- An atomic (R137, R138): its access, operation, operands, form and orders. -/
structure AmoRow where
  acc : Access
  op : AtomicOp
  t : Reg
  b : Reg
  ret : Bool
  o : MemOrd
  sc : Scope

/-- Width in bytes of an atomic's w bit. -/
def amoBytes (w : Bool) : Nat := if w then 4 else 8

/-- Rights of an atomic: A and W, and R when it returns (R137). -/
def amoRights (ret : Bool) : BitVec 8 := if ret then 0x13 else 0x12

def amoRow (p : Slot) : Instr → Option AmoRow
  | .aadd t a g b w ret o sc => some ⟨tAccess p g a (amoBytes w) (amoRights ret) 3 false, .add, t, b, ret, o, sc⟩
  | .aand t a g b w ret o sc => some ⟨tAccess p g a (amoBytes w) (amoRights ret) 3 false, .and, t, b, ret, o, sc⟩
  | .aor t a g b w ret o sc => some ⟨tAccess p g a (amoBytes w) (amoRights ret) 3 false, .or, t, b, ret, o, sc⟩
  | .axor t a g b w ret o sc => some ⟨tAccess p g a (amoBytes w) (amoRights ret) 3 false, .xor, t, b, ret, o, sc⟩
  | .amin t a g b w ret o sc => some ⟨tAccess p g a (amoBytes w) (amoRights ret) 3 false, .min, t, b, ret, o, sc⟩
  | .amax t a g b w ret o sc => some ⟨tAccess p g a (amoBytes w) (amoRights ret) 3 false, .max, t, b, ret, o, sc⟩
  | .aminn t a g b w ret o sc => some ⟨tAccess p g a (amoBytes w) (amoRights ret) 3 false, .minn, t, b, ret, o, sc⟩
  | .amaxn t a g b w ret o sc => some ⟨tAccess p g a (amoBytes w) (amoRights ret) 3 false, .maxn, t, b, ret, o, sc⟩
  | .axch t a g b w ret o sc => some ⟨tAccess p g a (amoBytes w) (amoRights ret) 3 false, .xch, t, b, ret, o, sc⟩
  | .afadd t a g b w ret o sc => some ⟨tAccess p g a (amoBytes w) (amoRights ret) 3 false, .fadd, t, b, ret, o, sc⟩
  | .acas t a g b w o sc => some ⟨tAccess p g a (amoBytes w) (amoRights true) 3 false, .cas, t, b, true, o, sc⟩
  | .ahx t a g b ret o sc => some ⟨tAccess p g a 8 (amoRights ret) 3 false, .ahx, t, b, ret, o, sc⟩
  | _ => none

/-- The new word of an integer atomic of width w (R137). -/
def newWord (op : AtomicOp) (w : Nat) (old b c : BitVec w) : BitVec w :=
  match op with
  | .add => old + b
  | .and => old &&& b
  | .or => old ||| b
  | .xor => old ^^^ b
  | .min => if old.sle b then old else b
  | .max => if b.sle old then old else b
  | .minn => if old.ule b then old else b
  | .maxn => if b.ule old then old else b
  | .xch => b
  | .cas => if old = c then b else old
  | _ => old

/-- The integer kinds of R137. -/
def integerOp (op : AtomicOp) : Bool :=
  op != .fadd && op != .ahx && op != .ldfe && op != .stef

/-- Every tagged-word access (R124, R135): the access, with the rights and the kind of translation of its form. -/
def tagRow (p : Slot) : Instr → Option Access
  | .ldf _ a g _ => some (tAccess p g a 8 0x09 0 true)
  | .tagrd _ a g _ => some (tAccess p g a 8 0x09 0 true)
  | .ldfe _ a g _ => some (tAccess p g a 8 0x0B 3 true)
  | .stef _ a g _ => some (tAccess p g a 8 0x0A 3 true)
  | .stf _ a g _ => some (tAccess p g a 8 0x0A 1 true)
  | .tagset _ a g _ => some (tAccess p g a 8 0x0A 1 true)
  | _ => none

/-- Contributions and closes of ordered reductions (R143). -/
def reductionRow (p : Slot) : Instr → Option Access
  | .dredfF64 a g _ _ => some (tAccess p g a 8 0x12 1 false)
  | .dredfF32 a g _ _ => some (tAccess p g a 4 0x12 1 false)
  | .dcloseF64 a g _ => some (tAccess p g a 8 0x12 1 false)
  | .dcloseF32 a g _ => some (tAccess p g a 4 0x12 1 false)
  | _ => none

/-- Every access that goes to one place: loads, stores, tagged words, atomics and reductions. -/
def accessOf (p : Slot) (i : Instr) : Option Access :=
  ((loadRow p i).map (·.acc)).orElse fun _ => ((storeRow p i).map (·.acc)).orElse fun _ =>
    ((amoRow p i).map (·.acc)).orElse fun _ => (tagRow p i).orElse fun _ => reductionRow p i

/-- A burn refuses the instruction before its address is looked at: it takes ILL (R124, R130). -/
def burnForbids (p : Slot) (i : Instr) : Bool :=
  p.burning && match i with
  | .st _ _ _ _ rel _ | .stv _ _ _ _ rel _ => rel
  | .ldfe _ _ _ _ | .stef _ _ _ _ | .dcloseF64 _ _ _ | .dcloseF32 _ _ _ => true
  | .stf _ _ _ sc | .tagset _ _ _ sc => sc == .pkg || sc == .sys
  | i => match amoRow p i with
    | some k => k.ret
    | none => false

/-- A deterministic region refuses the atomic: it takes DETATOM (R130, R142). -/
def detForbids (p : Slot) (i : Instr) : Bool :=
  p.det && match amoRow p i with
  | some k => k.ret || k.op == .xch || k.op == .ahx
  | none => false

/-- The slot may put one more entry into its store buffer, for a place in its own package or, when `away`, in another (R93, R133). -/
def RoomToStore (s : State) (away : Bool) : Prop :=
  if s.me.burning then s.me.held < 32
  else s.me.sb.length < 32 ∧ (away = true → s.storeUsed s.cur < sendStoreSize)

/-- The access resolved to one place from `s` on, at which no ember moves away: `s'` is the machine after the translation. -/
def Reaches (s s' : State) (acc : Access) (p : Piece) : Prop :=
  s.resolve s.cur acc = (s', .ok [p]) ∧ s'.movesTo acc [p] = none

end Sys2Proof.Machine
end

