-- ==== Sys2Proof/Safety/Traps.lean ====
section
/-! DEFINITION. What 07_traps says of taking an exception, of the entry of a user interrupt, and of the return from both: the terms in
which the exception statements are made. -/
namespace Sys2Proof.Machine

/-- The slot `p` has taken a trap and has become `q` (R96, R106): a burn has ended; ESTAT[7:0] holds STATUS, TRAPH is set; the four
trap registers hold what the cause gives; x12 to x15 and sg0 are exchanged with the supervisor bank and code segment; PRIV is
set, UIE, UTW and BURN are clear, the other bits of STATUS stay; the PC is EVEC; every other register stays. -/
structure Entered (p q : Slot) (cause : Nat) (epc eaddr einfo : Word) : Prop where
  ecause : q.ctl.ecause = BitVec.ofNat 64 cause
  epc : q.ctl.epc = epc
  eaddr : q.ctl.eaddr = eaddr
  einfo : q.ctl.einfo = einfo
  estat : ∀ k, k < 8 → q.ctl.estat.getLsbD k = (p.ctl.status.getLsbD k && k != 2)
  traph : q.traph = true
  status : ∀ k, k < 64 → q.ctl.status.getLsbD k =
    (k == 0 || (p.ctl.status.getLsbD k && k != 2 && k != 4 && k != 5))
  pc : q.pc = p.ctl.evec
  low : ∀ k : Reg, k.toNat < 12 → q.getX k = p.getX k ∧ q.fullX k = p.fullX k
  bank : q.getX 12 = p.sbank.x12 ∧ q.getX 13 = p.sbank.x13 ∧ q.getX 14 = p.sbank.x14 ∧ q.getX 15 = p.sbank.x15 ∧
    ∀ k : Reg, 12 ≤ k.toNat → q.fullX k = p.sbank.full.getLsbD (k.toNat - 12)
  saved : q.sbank.x12 = p.getX 12 ∧ q.sbank.x13 = p.getX 13 ∧ q.sbank.x14 = p.getX 14 ∧ q.sbank.x15 = p.getX 15 ∧
    ∀ k, k < 4 → q.sbank.full.getLsbD k = p.xf.getLsbD (12 + k)
  code : q.seg 0 = p.sseg ∧ q.sseg = p.seg 0
  segments : ∀ g, 0 < g → g < 8 → q.seg g = p.seg g
  vectors : q.v = p.v ∧ q.vp = p.vp ∧ q.m = p.m
  stores : q.sb = if p.burning then p.sb.filter (fun e => !e.held) else p.sb

/-- The slot `p` has returned from its trap handler and has become `q` (R122). -/
structure Returned (p q : Slot) : Prop where
  traph : q.traph = false
  status : ∀ k, k < 64 → q.ctl.status.getLsbD k =
    if k = 0 ∨ k = 4 ∨ k = 5 ∨ k = 6 ∨ k = 7 then p.ctl.estat.getLsbD k else p.ctl.status.getLsbD k
  pc : q.pc = p.ctl.epc
  low : ∀ k : Reg, k.toNat < 12 → q.getX k = p.getX k ∧ q.fullX k = p.fullX k
  bank : q.getX 12 = p.sbank.x12 ∧ q.getX 13 = p.sbank.x13 ∧ q.getX 14 = p.sbank.x14 ∧ q.getX 15 = p.sbank.x15 ∧
    ∀ k : Reg, 12 ≤ k.toNat → q.fullX k = p.sbank.full.getLsbD (k.toNat - 12)
  saved : q.sbank.x12 = p.getX 12 ∧ q.sbank.x13 = p.getX 13 ∧ q.sbank.x14 = p.getX 14 ∧ q.sbank.x15 = p.getX 15
  code : q.seg 0 = p.sseg ∧ q.sseg = p.seg 0
  others : ∀ g, 0 < g → g < 8 → q.seg g = p.seg g
  vectors : q.v = p.v ∧ q.vp = p.vp ∧ q.m = p.m ∧ q.sb = p.sb

/-- The slot `p` has entered its user-interrupt handler and has become `q` (R114). -/
structure Interrupted (p q : Slot) (event arg ret target : Word) : Prop where
  words : q.getX 12 = event ∧ q.getX 13 = arg ∧ q.getX 14 = p.getX 14 ∧ q.getX 15 = 0 ∧ ∀ k : Reg, 12 ≤ k.toNat → q.fullX k = true
  bank : q.ubank.x12 = p.getX 12 ∧ q.ubank.x13 = p.getX 13 ∧ q.ubank.x14 = p.getX 14 ∧ q.ubank.x15 = p.getX 15 ∧
    ∀ k, k < 4 → q.ubank.full.getLsbD k = p.xf.getLsbD (12 + k)
  low : ∀ k : Reg, k.toNat < 12 → q.getX k = p.getX k ∧ q.fullX k = p.fullX k
  uipc : q.ctl.uipc = ret
  uih : ∀ k, k < 64 → q.ctl.status.getLsbD k = (k == 7 || p.ctl.status.getLsbD k)
  pc : q.pc = target
  rest : q.sg = p.sg ∧ q.v = p.v ∧ q.vp = p.vp ∧ q.m = p.m ∧ q.sb = p.sb ∧ q.ctl.estat = p.ctl.estat ∧ q.ctl.epc = p.ctl.epc

/-- No fill is outstanding into x12 to x15 (R106, R114, R122). -/
def TopQuiet (p : Slot) : Prop := ∀ f ∈ p.fills, f.vec = true ∨ f.reg < 12

end Sys2Proof.Machine
end

