-- ==== Sys2Proof/Certificates/Slice0/Obligations.lean ====
section
/-! DEFINITION. The statements for the provers. Each is about the machine, over every state and every operand that meets the
hypotheses it names. -/
open Sys2Proof Sys2Proof.Machine

/-! ## Integer and address instructions (04_scalar) -/

/-- R61, R63 to R69, R71: sums, products, quotients, remainders, logic, shifts, rotates, the smaller and the larger, comparisons, absolute
value, negation, counts, reversal, sign extension and MOV at every width. The next state is the issuing state with the destination
written, full after the latency of R61, and the PC at the next word. -/
def Obligations.IntegerResults : Prop :=
  ∀ (i : Instr) (k : AluRow) (s : State), arithRow i = some k ∨ shiftRow i = some k ∨ unaryRow i = some k → s.ready i = true →
    exec i s = .next ((s.writeX k.d (k.value s.me) k.latency).advance)

/-- R68, R71, R73 to R75, R77: SEL, ZEXT, the immediate forms, MOVW with and without keep, and CMPI. -/
def Obligations.ImmediateResults : Prop :=
  (∀ (i : Instr) (k : WordRow) (s : State), immediateRow i = some k → s.ready i = true →
    exec i s = .next ((s.writeX k.d (k.value s.me) k.latency).advance)) ∧
  (∀ (d a : Reg) (c : Cond) (m : BitVec 14) (s : State), s.ready (.cmpi d a c m) = true →
    (condition c (s.me.getX a) (m.signExtend 64) → exec (.cmpi d a c m) s = .next ((s.writeX d 1 2).advance)) ∧
    (¬ condition c (s.me.getX a) (m.signExtend 64) → exec (.cmpi d a c m) s = .next ((s.writeX d 0 2).advance)))

/-- R70: BFX, BFXS and BFI, bit by bit; the field starts at xb[5:0] and has xb[13:8] + 1 bits, cut at bit 63. -/
def Obligations.BitfieldResults : Prop :=
  ∀ (d a b : Reg) (s : State),
    let pos := (s.me.getX b).toNat % 64
    let len := min ((s.me.getX b).toNat / 256 % 64 + 1) (64 - pos)
    let xa := s.me.getX a
    (s.ready (.bfx d a b) = true → ∃ v : Word, exec (.bfx d a b) s = .next ((s.writeX d v 3).advance) ∧
      ∀ k, v.getLsbD k = (decide (k < len) && xa.getLsbD (pos + k))) ∧
    (s.ready (.bfxs d a b) = true → ∃ v : Word, exec (.bfxs d a b) s = .next ((s.writeX d v 3).advance) ∧
      ∀ k, k < 64 → v.getLsbD k = if k < len then xa.getLsbD (pos + k) else xa.getLsbD (pos + len - 1)) ∧
    (s.ready (.bfi d a b) = true → ∃ v : Word, exec (.bfi d a b) s = .next ((s.writeX d v 3).advance) ∧
      ∀ k, v.getLsbD k = if pos ≤ k ∧ k < pos + len then xa.getLsbD (k - pos) else (s.me.getX d).getLsbD k)

/-- R78: LEA writes the 57-bit segment address without an access; an offset beyond the limit, or an empty segment, takes SEGLIM
with the offset in EADDR. -/
def Obligations.LeaResult : Prop :=
  ∀ (t a : Reg) (g : SegNo) (sz : MSize) (off : BitVec 10) (s : State), s.ready (.lea t a g sz off) = true →
    let o := s.me.getX a + off.signExtend 64 * BitVec.ofNat 64 (msizeBytes sz)
    let sg := s.me.seg g.toNat
    (sg ≠ Seg.empty → o.toNat + msizeBytes sz - 1 ≤ sg.limit.toNat →
      exec (.lea t a g sz off) s = .next ((s.writeX t (((sg.base + o).extractLsb' 0 57).zeroExtend 64) 3).advance)) ∧
    (sg = Seg.empty ∨ sg.limit.toNat < o.toNat + msizeBytes sz - 1 →
      exec (.lea t a g sz off) s = .next (s.raise Cause.seglim o
        (BitVec.ofNat 64 (g.toNat * 2 ^ 16 + sizeCode (msizeBytes sz) * 2 ^ 21))))

/-- R60, R62: an instruction of 04_scalar that issues in the rotation goes to the next word and changes its destination alone: every
other register, every control register, all of memory and every other slot and unit stay as they were. -/
def Obligations.ScalarFrame : Prop :=
  ∀ (i : Instr) (d : Reg) (s t : State), scalarDest i = some d → s.ready i = true → leaInside s.me i → s.inFrame = false →
    exec i s = .next t →
    t.me.pc = s.me.pc + 4 ∧ t.me.fullX d = true ∧ SameRegisters [d] [] s.me t.me ∧ SameControl s.me t.me ∧ SameMemory s t ∧
      SameElsewhere s t

/-! ## Control flow, frames and burns (05_flow_and_burns) -/

/-- R80 to R82: where B, BC, LOOP, CALL, JR, RET and CALLR go, and what they write. A register target whose bits [1:0] are not 0
takes ALIGN with the target in EADDR, and nothing else of the instruction happens. -/
def Obligations.BranchResults : Prop :=
  ∀ s : State, s.inFrame = false →
    (∀ c a disp, s.ready (.b c a disp) = true →
      (condition c (s.me.getX a) 0 → exec (.b c a disp) s = .next (s.jump (s.me.pc + 4 * disp.signExtend 64))) ∧
      (¬ condition c (s.me.getX a) 0 → exec (.b c a disp) s = .next s.advance)) ∧
    (∀ c a b disp, s.ready (.bc c a b disp) = true →
      (condition c (s.me.getX a) (s.me.getX b) →
        exec (.bc c a b disp) s = .next (s.jump (s.me.pc + 4 * disp.signExtend 64))) ∧
      (¬ condition c (s.me.getX a) (s.me.getX b) → exec (.bc c a b disp) s = .next s.advance)) ∧
    (∀ a disp, s.ready (.loop a disp) = true →
      (s.me.getX a = 1 → exec (.loop a disp) s = .next ((s.writeX a 0 2).advance)) ∧
      (s.me.getX a ≠ 1 →
        exec (.loop a disp) s = .next ((s.writeX a (s.me.getX a - 1) 2).jump (s.me.pc + 4 * disp.signExtend 64)))) ∧
    (∀ disp, s.ready (.call disp) = true →
      exec (.call disp) s = .next ((s.writeX 15 (s.me.pc + 4) 2).jump (s.me.pc + 4 * disp.signExtend 64))) ∧
    (∀ a, s.ready (.jr a) = true →
      ((s.me.getX a).toNat % 4 = 0 → exec (.jr a) s = .next (s.jump (s.me.getX a))) ∧
      ((s.me.getX a).toNat % 4 ≠ 0 → exec (.jr a) s = .next (s.raise Cause.align (s.me.getX a) targetInfo))) ∧
    (s.ready .ret = true →
      ((s.me.getX 15).toNat % 4 = 0 → exec .ret s = .next (s.jump (s.me.getX 15))) ∧
      ((s.me.getX 15).toNat % 4 ≠ 0 → exec .ret s = .next (s.raise Cause.align (s.me.getX 15) targetInfo))) ∧
    (∀ a, s.ready (.callr a) = true →
      ((s.me.getX a).toNat % 4 = 0 →
        exec (.callr a) s = .next ((s.writeX 15 (s.me.pc + 4) 2).jump (s.me.getX a))) ∧
      ((s.me.getX a).toNat % 4 ≠ 0 → exec (.callr a) s = .next (s.raise Cause.align (s.me.getX a) targetInfo)))

/-- R83 to R86: REPF captures its words, takes the free sequencer and moves the PC past the frame; the sequencer issues the staggered
instruction at (j, i) for the owner, whose lanes it writes and whose PC stays, and goes on to the next word; it is released once the last one has issued. -/
def Obligations.RepeatFrames : Prop :=
  (∀ (n : BitVec 5) (len : BitVec 4) (dv : BitVec 5) (dx : BitVec 4) (s s' : State) (ws : List (Nat × Option Instr)),
    s.ready (.repf n len dv dx) = true → s.myCore.frameOf s.cur = none →
    s.capture s.me.pc (len.toNat + 1) 0 = (s', .words ws) →
    s'.frameCheck (n.toNat + 1) dv.toNat dx.toNat ws = none → s'.myCore.frame = none → s'.myCore.repfQueue = [] →
    ∃ (t : State) (f : Frame), exec (.repf n len dv dx) s = .next t ∧ t.myCore.frame = some f ∧ f.owner = s'.cur ∧
      f.words = ws.filterMap (fun w => w.2) ∧ f.n = n.toNat ∧ f.dv = dv.toNat ∧ f.dx = dx.toNat ∧ f.j = 0 ∧ f.i = 0 ∧
      f.frozen = false ∧ f.repf = s'.me.pc ∧ t.me.pc = s'.me.pc + 4 * BitVec.ofNat 64 (f.words.length + 1)) ∧
  (∀ (core : Nat) (f : Frame) (s t : State), (s.core core).frame = some f → s.frameReady core f = true →
    capturable f.instr = true → exec f.instr { s with cur := f.owner, inFrame := true, lent := false } = .next t →
    exec (.frameIssue core) s = .next { t with cur := s.cur, inFrame := s.inFrame, lent := s.lent }) ∧
  (∀ (core : Nat) (f : Frame) (k : LaneRow) (s : State), (s.core core).frame = some f → coreOf f.owner = core →
    s.frameReady core f = true → capturable f.instr = true → integerLaneRow f.instr = some k →
    (s.asFrame f).legalIn f.owner f.instr = true → (s.asFrame f).vregBad f.instr = none →
    ∃ t : State, exec (.frameIssue core) s = .next t ∧ (t.core core).frame = some { f.next with at_ := s.cycleOf core } ∧
      (∀ i, i < 512 / k.w → laneBits k.w ((t.slot f.owner).getV k.d) i =
        if k.keeps (s.slot f.owner) i then laneBits k.w ((s.slot f.owner).getV k.d) i else k.value (s.slot f.owner) i) ∧
      (t.slot f.owner).presentV k.d = true ∧ (∀ v, v ≠ k.d → (t.slot f.owner).getV v = (s.slot f.owner).getV v) ∧
      (t.slot f.owner).pc = (s.slot f.owner).pc) ∧
  (∀ (core : Nat) (f : Frame) (s : State), (s.core core).frame = some f → f.n < f.j → f.at_ < s.cycleOf core →
    ∃ t : State, exec (.sequencerRelease core) s = .next t ∧ (t.core core).frame = (s.core core).suspended ∧
      (t.core core).suspended = none)

/-- R88, R89: the issue of BURN and BURNR in a slot that is not burning, whose store buffer is empty and whose island runs at
3.6 GHz, once the handler header has been read from s' on. -/
def Obligations.BurnStarts : Prop :=
  ∀ (h : Reg) (s s' : State) (w : Nat), s.me.burning = false → s.me.sb = [] → s.islandFreq (clampOf s.cur) = 3600 →
    (s.me.getX h).toNat % 8 = 0 → s.readCode s.cur (s.me.getX h) 8 = (s', .bytes w) → w / 2 ^ 32 % 2 ^ 32 = 0 → s'.inFrame = false →
    (∀ un mn mx, s.ready (.burn h un mn mx) = true →
      ∃ t : State, exec (.burn h un mn mx) s = .next t ∧ t.me.burning = true ∧
        t.me.ctl.bstart = BitVec.ofNat 64 s'.dtime ∧
        t.me.ctl.bmin = BitVec.ofNat 64 (s'.dtime + mn.toNat * 16 ^ un.toNat) ∧
        t.me.ctl.bmax = BitVec.ofNat 64 (s'.dtime + mx.toNat * 16 ^ un.toNat) ∧
        t.me.ctl.bhnd = s.me.getX h ∧ t.me.ctl.burnst = BitVec.ofNat 64 (w % 2 ^ 32 * 2 ^ 32 + 1) ∧ t.me.pc = s'.me.pc + 4) ∧
    (∀ a b, s.ready (.burnr h a b) = true → (s.me.getX a).toNat ≤ (s.me.getX b).toNat →
      ∃ t : State, exec (.burnr h a b) s = .next t ∧ t.me.burning = true ∧
        t.me.ctl.bstart = BitVec.ofNat 64 s'.dtime ∧
        t.me.ctl.bmin = BitVec.ofNat 64 (min (s'.dtime + (s.me.getX a).toNat) (2 ^ 64 - 1)) ∧
        t.me.ctl.bmax = BitVec.ofNat 64 (min (s'.dtime + (s.me.getX b).toNat) (2 ^ 64 - 1)) ∧
        t.me.ctl.bhnd = s.me.getX h ∧ t.me.ctl.burnst = BitVec.ofNat 64 (w % 2 ^ 32 * 2 ^ 32 + 1) ∧ t.me.pc = s'.me.pc + 4)

/-- R90, R91, R14: BURNQ; BURNE completes at its issue once DTIME has reached BMIN, parks before it, and completes on a later own turn
(BURNE_COMPLETE); outside a burn it takes BURNNEST. -/
def Obligations.BurnEnds : Prop :=
  ∀ s : State, s.inFrame = false →
    (∀ d, s.ready (.burnq d) = true → exec (.burnq d) s = .next ((s.writeX d
      (if s.me.burning then BitVec.ofNat 64 (s.me.ctl.bmax.toNat - s.dtime) else BitVec.allOnes 64) 2).advance)) ∧
    (s.ready .burne = true → s.me.burning = true → s.me.ctl.bmin.toNat ≤ s.dtime →
      ∃ t : State, exec .burne s = .next t ∧ BurnOver s.me t.me ∧ t.me.pc = s.me.pc + 4 ∧ t.me.park = none) ∧
    (s.ready .burne = true → s.me.burning = true → s.dtime < s.me.ctl.bmin.toNat →
      exec .burne s = .next (s.upd (fun p => p.parkOn s.dtime .burne))) ∧
    (s.ready .burne = true → s.me.burning = false → exec .burne s = .next (s.raise Cause.burnnest 0 0)) ∧
    (∀ slot k, (s.slot slot).mode = .running → (s.slot slot).park = some k → k.reason = .burne →
      (s.slot slot).burning = true → (s.slot slot).ctl.bmin.toNat ≤ s.dtime →
      ∃ t : State, exec (.burneComplete slot) s = .next t ∧ BurnOver (s.slot slot) (t.slot slot) ∧
        (t.slot slot).pc = (s.slot slot).pc + 4 ∧ (t.slot slot).park = none)

/-- R94, R95: an overdue burn goes to its handler, and an overdue handler stops the slot. The held entries are discarded and any
frame of the slot is given up. -/
def Obligations.BurnOverruns : Prop :=
  ∀ (slot : Nat) (s : State), slot < 2 ^ 15 → (s.slot slot).mode = .running → (s.slot slot).burning = true →
    (∀ k, (s.slot slot).park = some k → k.reason ≠ .burne) → (s.slot slot).ctl.bmax.toNat ≤ s.dtime →
    ((s.slot slot).burnState = 1 →
      ∃ t : State, exec (.burnHandlerEntry slot) s = .next t ∧ (t.slot slot).burnState = 2 ∧ (t.slot slot).burning = true ∧
        (t.slot slot).ctl.bepc = (s.slot slot).pc ∧ (t.slot slot).pc = (s.slot slot).ctl.bhnd + 8 ∧
        (t.slot slot).park = none ∧ (t.slot slot).ctl.bstart = BitVec.ofNat 64 s.dtime ∧
        (t.slot slot).ctl.bmax = BitVec.ofNat 64 (s.dtime + (s.slot slot).ctl.burnst.toNat / 2 ^ 32) ∧
        getField (t.slot slot).ctl.burnst 24 8 = 0x06 ∧
        getField (t.slot slot).ctl.burnst 7 1 = (if s.isParked slot then 1 else 0) ∧
        (t.slot slot).sb = (s.slot slot).sb.filter (fun e => !e.held) ∧
        (t.core (coreOf slot)).frameOf slot = none) ∧
    ((s.slot slot).burnState = 2 →
      ∃ t : State, exec (.handlerOverrun slot) s = .next t ∧ (t.slot slot).mode = .stopped ∧ (t.slot slot).burnState = 3 ∧
        getField (t.slot slot).ctl.burnst 24 8 = 0x07 ∧ (t.slot slot).sb = (s.slot slot).sb.filter (fun e => !e.held))

/-! ## Memory (09_memory, 10_ordering) -/

/-- R128: the checks of an access, in their order. Through a segment of global addresses of this package an access below
0xC000000000 lands at its DRAM, and one whose sum leaves the package takes SEGLIM; the pool window, host memory and translated
segments have no clause here. -/
def Obligations.SegmentChecks : Prop :=
  ∀ (s : State) (slot : Nat) (acc : Access),
    let sg := (s.slot slot).seg acc.seg
    (acc.o.toNat % acc.align ≠ 0 → s.resolve slot acc = (s, .fault Cause.align)) ∧
    (acc.o.toNat % acc.align = 0 → (sg = Seg.empty ∨ sg.limit.toNat < acc.o.toNat + acc.size - 1) →
      s.resolve slot acc = (s, .fault Cause.seglim)) ∧
    (acc.o.toNat % acc.align = 0 → sg ≠ Seg.empty → acc.o.toNat + acc.size - 1 ≤ sg.limit.toNat →
      sg.rights &&& acc.need ≠ acc.need → s.resolve slot acc = (s, .fault Cause.segrights)) ∧
    (0 < acc.size → acc.o.toNat % acc.align = 0 → sg ≠ Seg.empty → acc.o.toNat + acc.size - 1 ≤ sg.limit.toNat →
      sg.rights &&& acc.need = acc.need → sg.rights.getLsbD 7 = true → sg.base.toNat / 2 ^ 51 = s.pkg.number →
      (sg.base.toNat % 2 ^ 51 + acc.o.toNat + acc.size ≤ 0xC000000000 →
        s.resolve slot acc = (s, .ok [⟨.here (sg.base.toNat % 2 ^ 51 + acc.o.toNat), acc.size, none, none⟩])) ∧
      (2 ^ 51 ≤ sg.base.toNat % 2 ^ 51 + acc.o.toNat → s.resolve slot acc = (s, .fault Cause.seglim)))

/-- R105, R107, R128, R130, R142: an access that fails its checks raises the cause with its offset in EADDR and its description in
EINFO, one that meets a page fault parks, one that a burn forbids takes ILL, and an atomic that a deterministic region forbids
takes DETATOM. -/
def Obligations.AccessFaults : Prop :=
  ∀ (i : Instr) (acc : Access) (s s' : State), accessOf s.me i = some acc → s.ready i = true →
    (burnForbids s.me i = true → exec i s = .next (s.ill i)) ∧
    (burnForbids s.me i = false → detForbids s.me i = true → exec i s = .next (s.raise Cause.detatom acc.o acc.einfo)) ∧
    (burnForbids s.me i = false → detForbids s.me i = false →
      (∀ c, s.resolve s.cur acc = (s', .fault c) → exec i s = .next (s'.raise c acc.o acc.einfo)) ∧
      (∀ r va, s.resolve s.cur acc = (s', .page r va) → exec i s = .next (s'.pageFault acc r va)))

/-- R27, R28, R132, R134, R317: LD, LDN and LDV complete their issue. The register turns empty or absent, and a fill holds the bytes of
the place, or waits for the answer of another package. That the bytes are those of the place at the issue is DEDUCED (log 19). -/
def Obligations.LoadsIssue : Prop :=
  ∀ (i : Instr) (k : LoadRow) (p : Piece) (s s' : State), loadRow s.me i = some k → s.ready i = true → s.inFrame = false →
    Reaches s s' k.acc p → p.len = k.acc.size → s'.atomicAhead s'.cur p.loc p.len = false →
    (∀ l, p.loc = .here l → s'.loadBad s'.cur l p.len = false) →
    (∀ q l, p.loc = .there q l → s'.storeBad s'.cur p.loc p.len = false) →
    ∃ (t : State) (f : Fill), exec i s = .next t ∧ t.me.fills = s'.me.fills ++ [f] ∧ f.vec = k.vec ∧ f.reg = k.reg ∧
      f.size = k.acc.size ∧ f.signed = k.signed ∧ f.failed = none ∧
      (∀ l, p.loc = .here l → f.buf = s'.loadHere s'.cur l p.len ∧ f.waits = []) ∧
      (∀ q l, p.loc = .there q l → f.waits = [⟨s'.fresh, 0, p.len, s'.globalOf p.loc, none⟩]) ∧
      (k.vec = false → t.me.fullX (BitVec.ofNat 4 k.reg) = false) ∧
      (k.vec = true → t.me.presentV (BitVec.ofNat 5 k.reg) = false) ∧
      t.me.pc = s'.me.pc + 4 ∧ SameMemory s' t

/-- R27, R28, R107, R132: a fill that awaits nothing lands. A load of an x register gives the bytes sign-extended or zero-extended, a
vector load the bytes with zeros above them; a failed fill leaves the register empty and defers its trap. -/
def Obligations.FillsLand : Prop :=
  ∀ (s : State) (slot k : Nat) (f : Fill), (s.slot slot).fills[k]? = some f → f.waits = [] →
    (f.vec = false → f.failed = none → f.reg < 16 → 0 < f.size → f.size ≤ 8 → f.size ≤ f.buf.length →
      ∃ (t : State) (v : Word), exec (.loadFill slot k) s = .next t ∧ (t.slot slot).getX (BitVec.ofNat 4 f.reg) = v ∧
        (t.slot slot).fullX (BitVec.ofNat 4 f.reg) = true ∧ (t.slot slot).fills = (s.slot slot).fills.eraseIdx k ∧
        (∀ j, j < f.size → f.buf[j]? = some (v.extractLsb' (8 * j) 8)) ∧
        v = if f.signed then (v.setWidth (8 * f.size)).signExtend 64 else (v.setWidth (8 * f.size)).zeroExtend 64) ∧
    (f.vec = true → f.failed = none → f.reg < 32 → f.buf.length ≤ 64 →
      ∃ (t : State) (v : VWord), exec (.vectorLoadFill slot k) s = .next t ∧ (t.slot slot).getV (BitVec.ofNat 5 f.reg) = v ∧
        (t.slot slot).presentV (BitVec.ofNat 5 f.reg) = true ∧ (t.slot slot).fills = (s.slot slot).fills.eraseIdx k ∧
        (∀ j, j < f.buf.length → f.buf[j]? = some (v.extractLsb' (8 * j) 8)) ∧ v = (v.setWidth (8 * f.buf.length)).zeroExtend 512) ∧
    (∀ d, f.vec = false → f.failed = some d → ∃ t : State, exec (.loadFill slot k) s = .next t ∧
      (t.slot slot).deferred = (s.slot slot).deferred ++ [d] ∧ (t.slot slot).xf = (s.slot slot).xf ∧ (t.slot slot).x = (s.slot slot).x)

/-- R93, R132 to R134: ST and STV complete by entering the store buffer, held when the slot burns; nothing of memory changes yet. The
33rd held entry of a burn takes BURNSTO, and a full buffer makes the store wait. -/
def Obligations.StoresIssue : Prop :=
  ∀ (i : Instr) (k : StoreRow) (p : Piece) (s s' : State), storeRow s.me i = some k → s.ready i = true → s.inFrame = false →
    burnForbids s.me i = false → Reaches s s' k.acc p → p.len = k.acc.size →
    (RoomToStore s' (locRemote p.loc) →
      ∃ (t : State) (e : SbEntry), exec i s = .next t ∧ t.me.sb = s'.me.sb ++ [e] ∧
        e.kind = .write [⟨p.loc, k.bytes, none, p.va⟩] ∧ e.held = s'.me.burning ∧ e.own = k.release ∧
        (k.release = true → e.rel = some .sys) ∧ (k.release = false → e.rel = s'.me.fenceRel) ∧
        t.me.pc = s'.me.pc + 4 ∧ SameRegisters [] [] s'.me t.me ∧ SameMemory s' t) ∧
    (s'.me.burning = true → 32 ≤ s'.me.held → exec i s = .next (s'.raise Cause.burnsto k.acc.o k.acc.einfo)) ∧
    (s'.me.burning = false → (locRemote p.loc = true → s'.storeUsed s'.cur < sendStoreSize) → 32 ≤ s'.me.sb.length →
      exec i s = .next s') ∧
    (s'.me.burning = false → locRemote p.loc = true → sendStoreSize ≤ s'.storeUsed s'.cur →
      exec i s = .next (s'.upd (fun q => q.parkOn s'.dtime .sendStore)))

/-- R134: LDVG gathers its active lanes, a masked lane keeps its bytes, and STVS stores its active lanes in ascending order as one entry, once
every active lane has passed its checks and lies in this package; an STVS without an active lane stores nothing. The lanes of LDVG are
taken at the issue (DEDUCED, log 19). -/
def Obligations.IndexedAccesses : Prop :=
  ∀ (v x : VReg) (b : Reg) (g : SegNo) (ty : Ty) (mk : Bool) (s s' : State) (acc : Access) (r : Resolved)
    (l : List (Nat × List Piece)), s.inFrame = false →
    (∀ e ∈ l, ∃ a va h, e.2 = [⟨.here a, 4, va, h⟩] ∧ s'.atomicAhead s'.cur (.here a) 4 = false ∧
      s'.loadBad s'.cur a 4 = false) →
    let lanes (rights : BitVec 8) (kind : Nat) : List (Nat × Access) :=
      ((List.range 16).filter (fun k => !mk || (s.me.getM 0).getLsbD k)).map (fun k => (k,
        { seg := g.toNat, o := s.me.getX b + 4 * ((s.me.getV x).extractLsb' (32 * k) 32).zeroExtend 64, size := 4, align := 4,
          need := rights, kind := kind, tagged := false, moves := false }))
    (s.ready (.ldvg v x b g ty mk) = true → (∀ e ∈ lanes 0x01 0, segCheck (s.me.seg e.2.seg) e.2 = none) →
      s.resolveLanes (lanes 0x01 0) = (s', acc, .ok [], l) →
      ∃ (t : State) (f : Fill), exec (.ldvg v x b g ty mk) s = .next t ∧ t.me.fills = s'.me.fills ++ [f] ∧ f.vec = true ∧
        f.reg = v.toNat ∧ f.waits = [] ∧ f.failed = none ∧ t.me.presentV v = false ∧ t.me.pc = s'.me.pc + 4 ∧
        (∀ k a va h, (k, [⟨.here a, 4, va, h⟩]) ∈ l → (f.buf.drop (4 * k)).take 4 = s'.loadHere s'.cur a 4) ∧
        ∀ k, k < 16 → mk = true → (s.me.getM 0).getLsbD k = false →
          (f.buf.drop (4 * k)).take 4 = lowBytes ((s'.me.getV v).extractLsb' (32 * k) 32) 4) ∧
    (s.ready (.stvs v x b g ty mk) = true → lanes 0x02 1 = [] →
      exec (.stvs v x b g ty mk) s = .next s.advance) ∧
    (s.ready (.stvs v x b g ty mk) = true → (∀ e ∈ lanes 0x02 1, segCheck (s.me.seg e.2.seg) e.2 = none) →
      s.resolveLanes (lanes 0x02 1) = (s', acc, .ok [], l) → l ≠ [] → RoomToStore s' false →
      ∃ (t : State) (e : SbEntry), exec (.stvs v x b g ty mk) s = .next t ∧ t.me.sb = s'.me.sb ++ [e] ∧
        e.held = s'.me.burning ∧ t.me.pc = s'.me.pc + 4 ∧
        e.kind = .write (l.flatMap (fun y => y.2.map (fun q =>
          ⟨q.loc, lowBytes ((s'.me.getV v).extractLsb' (32 * y.1) 32) 4, none, q.va⟩))))

/-- R124, R135, R136: the tagged-word instructions on the aligned word of this package that holds the place their address names. LDF and LDFE find the tag full or park, STEF finds it empty or
parks, TAGRD reads it, STF and TAGSET never wait; LDFE, STEF and the reading of their tag are one step at the word's home. That the
aligned word is meant also through a segment whose base is no multiple of 8 is DEDUCED (log 35), and that LDF's bytes are those of the
issue is DEDUCED (log 19). -/
def Obligations.TaggedWords : Prop :=
  ∀ (i : Instr) (acc : Access) (a n : Nat) (va : Option Nat) (h : Option (Nat × Nat)) (s s' : State), tagRow s.me i = some acc →
    s.ready i = true → s.inFrame = false → burnForbids s.me i = false → Safe s → Reaches s s' acc ⟨.here a, n, va, h⟩ →
    let w := a / 8 * 8
    s'.atomicAhead s'.cur (.here w) 8 = false →
    (∀ t a g sc, i = .ldf t a g sc → s'.loadBad s'.cur w 8 = false →
      (s'.slotTag s'.cur w = true → ∃ (u : State) (f : Fill), exec i s = .next u ∧ u.me.fills = s'.me.fills ++ [f] ∧
        f.reg = t.toNat ∧ f.buf = s'.loadHere s'.cur w 8 ∧ f.waits = [] ∧ f.failed = none ∧ u.me.pc = s'.me.pc + 4 ∧ SameMemory s' u) ∧
      (s'.slotTag s'.cur w = false → exec i s = .next (s'.upd (fun p => p.parkOn s'.dtime (.tag (.here w) true acc.o))))) ∧
    (∀ t a g sc, i = .tagrd t a g sc → s'.loadBad s'.cur w 8 = false → ∃ (u : State) (f : Fill), exec i s = .next u ∧ u.me.fills = s'.me.fills ++ [f] ∧
      f.reg = t.toNat ∧ f.xValue = (if s'.slotTag s'.cur w then 1 else 0) ∧ f.waits = [] ∧ f.failed = none ∧
      u.me.pc = s'.me.pc + 4 ∧ SameMemory s' u) ∧
    (∀ t a g sc, i = .stf t a g sc → RoomToStore s' false → ∃ (u : State) (e : SbEntry), exec i s = .next u ∧
      u.me.sb = s'.me.sb ++ [e] ∧ e.kind = .write [⟨.here w, lowBytes (s.me.getX t) 8, some true, va.map (fun v => v / 8 * 8)⟩] ∧ e.own = true ∧
      e.held = s'.me.burning ∧ u.me.pc = s'.me.pc + 4 ∧ SameMemory s' u) ∧
    (∀ v a g sc, i = .tagset v a g sc → RoomToStore s' false → ∃ (u : State) (e : SbEntry), exec i s = .next u ∧
      u.me.sb = s'.me.sb ++ [e] ∧ e.kind = .write [⟨.here w, [], some (v == 1), va.map (fun v => v / 8 * 8)⟩] ∧ e.own = true ∧ e.held = s'.me.burning ∧
      u.me.pc = s'.me.pc + 4 ∧ SameMemory s' u) ∧
    (∀ t a g sc, i = .ldfe t a g sc → s'.me.sb = [] → s'.settled s'.cur = true →
      let m := (if sc = .pkg ∨ sc = .sys then s'.releaseHome s'.cur else s').mergeWord w
      m.badAt w 8 = false →
      (m.homeTag w = true → ∃ (u : State) (f : Fill), exec i s = .next u ∧ u.homeTag w = false ∧ u.me.fills = m.me.fills ++ [f] ∧
        f.reg = t.toNat ∧ f.buf = m.homeBytes w 8 ∧ f.waits = [] ∧ f.failed = none ∧ u.me.pc = m.me.pc + 4 ∧
        ∀ a, u.homeByte a = m.homeByte a) ∧
      (m.homeTag w = false → exec i s = .next (m.upd (fun p => p.parkOn m.dtime (.tag (.here w) true acc.o))))) ∧
    (∀ t a g sc, i = .stef t a g sc → s'.me.sb = [] → s'.settled s'.cur = true →
      let m := (if sc = .pkg ∨ sc = .sys then s'.releaseHome s'.cur else s').mergeWord w
      m.writeRefused w 8 = false →
      (m.homeTag w = false → ∃ u : State, exec i s = .next u ∧ u.homeTag w = true ∧ u.me.pc = m.me.pc + 4 ∧
        (∀ k, k < 8 → u.homeByte (w + k) = (m.me.getX t).extractLsb' (8 * k) 8) ∧
        ∀ a, a < w ∨ w + 8 ≤ a → u.homeByte a = m.homeByte a) ∧
      (m.homeTag w = true → exec i s = .next (m.upd (fun p => p.parkOn m.dtime (.tag (.here w) false acc.o)))))

/-- R133, R158 to R161: the oldest entry of a store buffer drains, once no atomic, contribution or release of the slot that it must follow
is on its way. A plain write is visible to the slot's hearth at once, or at its home
when it names a pool (here with room in the L2: a full one evicts first, see `LinesGoHome`); a release at package or system scope is at its home; a message and an atomic set out. -/
def Obligations.StoreBufferDrains : Prop :=
  ∀ (slot : Nat) (s : State) (e : SbEntry) (rest : List SbEntry), (s.slot slot).sb = e :: rest → e.held = false →
    e.stale = false → (e.isRelease = true → s.settled slot = true) → s.passing slot = false → e.behindRelease s slot = false →
    e.waits s slot = false → Safe s →
    (∀ a bs tag va, e.kind = .write [⟨.here a, bs, tag, va⟩] → isPool a = false → e.rel = none →
      (s.hearth (hearthOf slot)).refuses a bs.length = false →
      4096 * ((s.hearth (hearthOf slot)).dirty.length + (s.hearth (hearthOf slot)).dtags.length + bs.length) < l2Bytes →
      ∃ t : State, exec (.storeBufferDrain slot) s = .next t ∧ (t.slot slot).sb = rest ∧
        (∀ x, t.hearthByte (hearthOf slot) x =
          if a ≤ x then (bs[x - a]?).getD (s.hearthByte (hearthOf slot) x) else s.hearthByte (hearthOf slot) x) ∧
        (∀ b, tag = some b → t.hearthTag (hearthOf slot) a = b) ∧ (∀ x, t.homeByte x = s.homeByte x)) ∧
    (∀ a bs va, e.kind = .write [⟨.here a, bs, none, va⟩] → isPool a = true → s.writeRefused a bs.length = false → e.rel = none →
      ∃ t : State, exec (.storeBufferDrain slot) s = .next t ∧ (t.slot slot).sb = rest ∧
        (∀ x, t.homeByte x = if a ≤ x then (bs[x - a]?).getD (s.homeByte x) else s.homeByte x)) ∧
    (∀ a bs va sc, e.kind = .write [⟨.here a, bs, none, va⟩] → isPool a = false → e.rel = some sc → sc = .pkg ∨ sc = .sys →
      s.bad = [] → (s.hearth (hearthOf slot)).bad = [] → L2Ordered s →
      ∃ t : State, exec (.storeBufferDrain slot) s = .next t ∧ (t.slot slot).sb = rest ∧
        (∀ k b, bs[k]? = some b → t.homeByte (a + k) = b)) ∧
    (∀ r l, e.kind = .atomic r → r.loc = .here l → e.rel = none →
      ∃ t : State, exec (.storeBufferDrain slot) s = .next t ∧ (t.slot slot).sb = rest ∧ t.atomics = s.atomics ++ [r]) ∧
    (∀ dest m i, e.kind = .send true false dest m → s.inFlight slot < 8 →
      s.destination slot true false dest (isWake true false m) = .slot i →
      ∃ t : State, exec (.storeBufferDrain slot) s = .next t ∧ (t.slot slot).sb = rest ∧
        t.flights = s.flights ++ [⟨slot, i, true, false, m, none⟩])

/-- R3, R157, R161, R286: an eviction sets a line's bytes on their way without a change to what anyone reads; the merge puts every dirty
byte of a line that is on its way into home memory and takes it from the L2, and the hearth reads what it read; so it does when a full
L2 makes room for a write. -/
def Obligations.LinesGoHome : Prop :=
  ∀ (h line : Nat) (s : State), Safe s → L2Ordered s → s.bad = [] → (s.hearth h).bad = [] →
    let on (x : Nat) : Prop := (s.hearth h).onLine line x = true
    (∃ t : State, exec (.l2Eviction h line) s = .next t ∧ SameMemory s t ∧
      ∀ x d, Table.find (t.hearth h).dirty x = some d → on x → d.sent = true) ∧
    (∃ t : State, exec (.homeMerge h line) s = .next t ∧
      (∀ x d y e, Table.find (s.hearth h).dirty x = some d → d.sent = true → on x →
        Table.find (s.hearth h).dirty y = some e → on y → t.homeByte y = e.val ∧ Table.find (t.hearth h).dirty y = none) ∧
      (∀ x, ¬ on x → t.homeByte x = s.homeByte x) ∧ ∀ x, t.hearthByte h x = s.hearthByte h x) ∧
    (∀ a x, (s.makeRoom h a).hearthByte h x = s.hearthByte h x)

/-- R130, R133, R137, R138, R142, R143, R162: atomics complete their issue as an entry of the store buffer, with their operands as read,
and a returning one empties its register; a non-returning AFADD of a deterministic region is a contribution. -/
def Obligations.AtomicsIssue : Prop :=
  ∀ (i : Instr) (k : AmoRow) (p : Piece) (s s' : State), amoRow s.me i = some k → s.ready i = true → s.inFrame = false →
    burnForbids s.me i = false → detForbids s.me i = false → Reaches s s' k.acc p → RoomToStore s' (locRemote p.loc) →
    (¬ (k.op = .fadd ∧ (k.ret = true ∨ s'.me.det = true)) →
      ∃ (t : State) (e : SbEntry) (r : AtomicReq), exec i s = .next t ∧ t.me.sb = s'.me.sb ++ [e] ∧ e.kind = .atomic r ∧
        e.held = s'.me.burning ∧ e.own = (k.o == .rel || k.o == .ar) ∧ r.op = k.op ∧ r.loc = p.loc ∧ r.size = k.acc.size ∧
        r.b = s'.me.getX k.b ∧ r.c = s'.me.getX k.t ∧ r.slot = s'.cur ∧ r.ret = (if k.ret then some s'.fresh else none) ∧
        (k.ret = true → t.me.fullX k.t = false) ∧ (k.ret = false → SameRegisters [] [] s'.me t.me) ∧
        (s'.me.burning = false → t.me.barrier = if k.o = .acq ∨ k.o = .ar then some .performed else s'.me.barrier) ∧
        t.me.pc = s'.me.pc + 4 ∧ SameMemory s' t) ∧
    (k.op = .fadd → s'.me.det = true →
      ∃ (t : State) (e : SbEntry) (r : RedReq), exec i s = .next t ∧ t.me.sb = s'.me.sb ++ [e] ∧ e.kind = .reduce r ∧
        r.loc = p.loc ∧ r.value = some (s'.me.getX k.b) ∧ r.lid = s'.me.ctl.lid.toNat % 2 ^ 32 ∧ t.me.pc = s'.me.pc + 4 ∧
        SameMemory s' t)

/-- R107, R138, R145, R159, R160: a returning AFADD of this package is performed before the next instruction issues, once the slot's earlier
writes have been performed; after a FENCE.rel at package or system scope it is a release, and its register fills with the old word. An open reduction over the word refuses it where it stands. -/
def Obligations.FloatAtomicReturns : Prop :=
  ∀ (t a : Reg) (g : SegNo) (b : Reg) (w : Bool) (o : MemOrd) (sc : Scope) (l : Nat) (va : Option Nat) (h : Option (Nat × Nat))
    (s s' : State), s.ready (.afadd t a g b w true o sc) = true → s.inFrame = false → s.me.burning = false → s.me.det = false →
    o = .none ∨ o = .acq → Reaches s s' (tAccess s.me g a (amoBytes w) 0x13 3 false) ⟨.here l, amoBytes w, va, h⟩ →
    s'.me.sb = [] → s'.passing s'.cur = false → s'.atomicAhead s'.cur (.here l) (amoBytes w) = false →
    let q := if s'.me.fenceRel = some .pkg ∨ s'.me.fenceRel = some .sys then s'.releaseHome s'.cur else s'
    let m := q.mergeWord l
    (q.openAt l (amoBytes w) = true →
      exec (.afadd t a g b w true o sc) s =
        .next (q.raise Cause.redconf (s.me.getX a) (tAccess s.me g a (amoBytes w) 0x13 3 false).einfo)) ∧
    (q.openAt l (amoBytes w) = false → m.badAt l (amoBytes w) = false → Safe s →
      ∃ (u : State) (f : Fill), exec (.afadd t a g b w true o sc) s = .next u ∧ u.me.fills = m.me.fills ++ [f] ∧
        f.reg = t.toNat ∧ f.vec = false ∧ f.waits = [] ∧ f.failed = none ∧
        f.xValue = BitVec.ofNat 64 (m.homeNat l (amoBytes w)) ∧ u.me.pc = m.me.pc + 4 ∧
        u.homeNat l (amoBytes w) = floatSum (8 * amoBytes w) (m.homeNat l (amoBytes w))
          ((s'.me.getX b).toNat % 2 ^ (8 * amoBytes w)) % 2 ^ (8 * amoBytes w))

/-- R137 to R140, R158: an atomic at the head of its way is performed as one step at its word, after the merge of the dirty bytes: the
integer kinds and the fixed handlers write their new word, nothing else at home changes, and the old word (or the handler's result)
goes back to the fill that waits for it. -/
def Obligations.AtomicsPerform : Prop :=
  ∀ (k l : Nat) (r : AtomicReq) (s : State), s.atomics[k]? = some r → s.atomicTurn k = true → r.loc = .here l → Safe s →
    let m := ({ s with atomics := s.atomics.eraseIdx k } : State).mergeWord l
    m.badAt l r.size = false →
    (integerOp r.op = true → r.size = 4 ∨ r.size = 8 →
      ∃ t : State, exec (.atomicPerform k) s = .next t ∧ t.atomics = s.atomics.eraseIdx k ∧
        t.homeNat l r.size = (newWord r.op (8 * r.size) (BitVec.ofNat _ (m.homeNat l r.size)) (r.b.setWidth _)
          (r.c.setWidth _)).toNat ∧
        (∀ x, x < l ∨ l + r.size ≤ x → t.homeByte x = m.homeByte x) ∧
        ∀ id, r.ret = some id → (t.slot r.slot).fills =
          (m.slot r.slot).fills.map (fun f => f.answer id (lowBytes (BitVec.ofNat 64 (m.homeNat l r.size)) r.size) true)) ∧
    (r.op = .ahx → r.size = 8 → r.c.toNat % 32 < 16 →
      ∃ t : State, exec (.atomicPerform k) s = .next t ∧
        BitVec.ofNat 64 (t.homeNat l 8) = (fixedHandler (r.c.toNat % 32) (BitVec.ofNat 64 (m.homeNat l 8)) r.b).1 ∧
        ∀ id, r.ret = some id → (t.slot r.slot).fills =
          (m.slot r.slot).fills.map (fun f => f.answer id
            (lowBytes (fixedHandler (r.c.toNat % 32) (BitVec.ofNat 64 (m.homeNat l 8)) r.b).2 8) true))

/-- R128, R130, R143 to R145: DREDF and DCLOSE, each at both widths, complete as an entry of the store buffer. A contribution that arrives
in its turn opens the reduction of its word, is folded when it is the next LID, is buffered when it is not, is held for another launch,
and is refused with a deferred REDCONF where it overlaps the word of another or of another width. The last one, or a close that names
the word and its width, writes the sum over the word and fills its tag; a close without a reduction changes nothing. -/
def Obligations.OrderedReductions : Prop :=
  (∀ (i : Instr) (acc : Access) (p : Piece) (s s' : State), reductionRow s.me i = some acc → s.ready i = true →
    s.inFrame = false → burnForbids s.me i = false → Reaches s s' acc p → RoomToStore s' (locRemote p.loc) →
    ∃ (t : State) (e : SbEntry) (r : RedReq), exec i s = .next t ∧ t.me.sb = s'.me.sb ++ [e] ∧ e.kind = .reduce r ∧
      r.loc = p.loc ∧ r.size = acc.size ∧ r.lid = s'.me.ctl.lid.toNat % 2 ^ 32 ∧ r.rcba = s'.me.ctl.rcba ∧
      r.extent = s'.me.extent ∧
      (∀ a g b sc, i = .dredfF64 a g b sc ∨ i = .dredfF32 a g b sc → r.value = some (s'.me.getX b)) ∧
      (∀ a g sc, i = .dcloseF64 a g sc ∨ i = .dcloseF32 a g sc → r.value = none ∧ e.own = true) ∧
      e.held = s'.me.burning ∧ t.me.pc = s'.me.pc + 4 ∧ SameMemory s' t) ∧
  (∀ (k l : Nat) (r : RedReq) (c : Word) (s : State), s.reductions[k]? = some r → r.loc = .here l → r.value = some c →
    s.reductionTurn k = true → s.bad = [] → (s.grate (grateOf l)).held = [] → Safe s →
    let g := grateOf l
    let arrived : State := { s with reductions := s.reductions.eraseIdx k }
    let old : Word := BitVec.ofNat 64 ((arrived.mergeWord l).homeNat l r.size)
    ((s.grate g).open_ = [] → r.lid = 0 → 1 < r.extent →
      ∃ t : State, exec (.reductionContribution k) s = .next t ∧ t.reductions = s.reductions.eraseIdx k ∧ (t.grate g).open_ =
        [⟨l, r.size, r.rcba, r.extent, BitVec.ofNat 64 (floatSum (8 * r.size) old.toNat c.toNat), 1, [], r.tagged⟩] ∧
        (r.tagged = true → t.homeTag l = false)) ∧
    ((s.grate g).open_ = [] → r.lid ≠ 0 → 0 < r.extent →
      ∃ t : State, exec (.reductionContribution k) s = .next t ∧ t.reductions = s.reductions.eraseIdx k ∧
        (t.grate g).open_ = [⟨l, r.size, r.rcba, r.extent, old, 0, [(r.lid, c)], r.tagged⟩]) ∧
    (∀ o, (s.grate g).open_ = [o] → o.addr = l → o.size = r.size → 0 < r.size → o.rcba = r.rcba →
      (r.lid = o.next → o.buffered = [] → o.next + 1 < o.extent →
        ∃ t : State, exec (.reductionContribution k) s = .next t ∧ t.reductions = s.reductions.eraseIdx k ∧
          (t.grate g).open_ = [{ o with
            v := BitVec.ofNat 64 (floatSum (8 * o.size) o.v.toNat c.toNat)
            next := o.next + 1 }]) ∧
      (o.next < r.lid → o.next < o.extent → o.buffered.length < 4096 → (∀ e ∈ o.buffered, e.1 ≠ r.lid ∧ e.1 ≠ o.next) →
        ∃ t : State, exec (.reductionContribution k) s = .next t ∧ t.reductions = s.reductions.eraseIdx k ∧
          (t.grate g).open_ = [{ o with buffered := o.buffered ++ [(r.lid, c)] }]) ∧
      (r.lid = o.next → o.buffered = [] → o.extent = o.next + 1 →
        ∃ t : State, exec (.reductionContribution k) s = .next t ∧ t.reductions = s.reductions.eraseIdx k ∧
          (t.grate g).open_ = [] ∧ (o.tagged = true → t.homeTag l = true) ∧
          ∀ j, j < o.size → j < 8 → t.homeByte (l + j) =
            (BitVec.ofNat 64 (floatSum (8 * o.size) o.v.toNat c.toNat)).extractLsb' (8 * j) 8)) ∧
    (∀ o, (s.grate g).open_ = [o] → o.addr = l → o.size = r.size → 0 < r.size → o.rcba ≠ r.rcba →
      ∃ t : State, exec (.reductionContribution k) s = .next t ∧ t.reductions = s.reductions.eraseIdx k ∧
        (t.grate g).held = [r] ∧ (t.grate g).open_ = [o]) ∧
    (∀ o, (s.grate g).open_ = [o] → o.addr < l + r.size → l < o.addr + o.size → o.addr ≠ l ∨ o.size ≠ r.size →
      r.origin = none → r.slot < 2 ^ 15 →
      ∃ (t : State) (d : DTrap), exec (.reductionContribution k) s = .next t ∧ t.reductions = s.reductions.eraseIdx k ∧
        (t.grate g).open_ = [o] ∧ (t.slot r.slot).deferred = (s.slot r.slot).deferred ++ [d] ∧ d.cause = Cause.redconf ∧
        d.eaddr = r.ea)) ∧
  (∀ (g k l : Nat) (r : RedReq) (s t' : State), (s.grate g).held[k]? = some r → r.loc = .here l → s.contribute g l r = some t' →
    ∃ t : State, exec (.reductionAdmit g k) s = .next t ∧ (t.grate g).held = (t'.grate g).held.erase r ∧
      (t.grate g).open_ = (t'.grate g).open_) ∧
  (∀ (g k l : Nat) (r : RedReq) (c : Word) (s : State), (s.grate g).held[k]? = some r → r.loc = .here l → r.value = some c →
    (s.grate g).open_ = [] → s.bad = [] → r.lid ≠ 0 → 0 < r.extent →
    ∃ t : State, exec (.reductionAdmit g k) s = .next t ∧ (t.grate g).held = (s.grate g).held.erase r ∧
      (t.grate g).open_ = [⟨l, r.size, r.rcba, r.extent, BitVec.ofNat 64 ((s.mergeWord l).homeNat l r.size), 0, [(r.lid, c)], r.tagged⟩]) ∧
  (∀ (k l : Nat) (r : RedReq) (s : State), s.reductions[k]? = some r → r.loc = .here l → r.value = none →
    s.reductionTurn k = true → s.bad = [] → (s.grate (grateOf l)).held = [] → Safe s →
    let g := grateOf l
    (∀ o, (s.grate g).open_ = [o] → o.addr = l → o.size = r.size → (o.buffered.map (fun e => e.1)).Pairwise (· < ·) →
      ∃ t : State, exec (.reductionClose k) s = .next t ∧ t.reductions = s.reductions.eraseIdx k ∧
        (t.grate g).open_ = [] ∧ (o.tagged = true → t.homeTag l = true) ∧
        ∀ j, j < o.size → j < 8 → t.homeByte (l + j) = (o.buffered.foldl (fun (v : Word) e =>
          BitVec.ofNat 64 (floatSum (8 * o.size) v.toNat e.2.toNat)) o.v).extractLsb' (8 * j) 8) ∧
    ((s.grate g).open_ = [] → exec (.reductionClose k) s = .next { s with reductions := s.reductions.eraseIdx k }) ∧
    (∀ o, (s.grate g).open_ = [o] → o.size ≠ r.size →
      exec (.reductionClose k) s = .next { s with reductions := s.reductions.eraseIdx k }))

/-! ## Exceptions and the system instructions (07_traps) -/

/-- R96, R105, R106, R117, R119: TRAP, BRK, an illegal word and a deferred trap enter the trap handler. TRAP saves the next PC, the others
the PC of the instruction that has not issued; the code or the word stands in the upper half of EINFO. -/
def Obligations.TrapEntry : Prop :=
  ∀ s : State, s.inFrame = false → s.me.traph = false → TopQuiet s.me →
    (∀ w, ∃ t : State, exec (.illegalWord w) s = .next t ∧
      Entered s.me t.me 0x01 s.me.pc 0 (BitVec.ofNat 64 (w.toNat * 2 ^ 32)) ∧ t.me.park = none) ∧
    (∀ code, s.ready (.trap code) = true → ∃ t : State, exec (.trap code) s = .next t ∧
      Entered s.me t.me 0x10 (s.me.pc + 4) 0 (BitVec.ofNat 64 (code.toNat * 2 ^ 32))) ∧
    (∀ code, s.ready (.brk code) = true → s.me.debugHalt = false → ∃ t : State, exec (.brk code) s = .next t ∧
      Entered s.me t.me 0x11 s.me.pc 0 (BitVec.ofNat 64 (code.toNat * 2 ^ 32))) ∧
    (∀ code, s.ready (.brk code) = true → s.me.debugHalt = true → ∃ t : State, exec (.brk code) s = .next t ∧
      t.me.mode = .halted ∧ t.me.pc = s.me.pc ∧ t.me.x = s.me.x ∧ t.me.ctl = s.me.ctl) ∧
    (∀ d rest, s.me.mode = .running → s.me.deferred = d :: rest → ∃ t : State, exec (.deferredTrap s.cur) s = .next t ∧
      Entered s.me t.me (d.cause % 2 ^ 64) s.me.pc d.eaddr d.einfo ∧ t.me.deferred = rest)

/-- R106, R110: the entry of a trap waits while a fill into x12 to x15 is outstanding, and is made on an own turn after it; a trap inside
a trap handler stops the slot, whose trap registers keep the first trap's values, and one in slot 0 closes the core to the launch unit. That the
trap waits as it was found, without a new look at its cause, is DEDUCED (log 14). -/
def Obligations.TrapWaitsOrStops : Prop :=
  ∀ s : State, s.inFrame = false →
    (¬ TopQuiet s.me →
      (∀ w, ∃ t : State, exec (.illegalWord w) s = .next t ∧
        t.me.trapWait = some ⟨Cause.ill, s.me.pc, 0, BitVec.ofNat 64 (w.toNat * 2 ^ 32)⟩ ∧ t.me.pc = s.me.pc ∧
        t.me.ctl.epc = s.me.ctl.epc ∧ t.me.ctl.estat = s.me.ctl.estat ∧ t.me.x = s.me.x ∧ t.me.mode = s.me.mode) ∧
      ∀ code, s.ready (.trap code) = true → ∃ t : State, exec (.trap code) s = .next t ∧
        t.me.trapWait = some ⟨Cause.trapi, s.me.pc + 4, 0, BitVec.ofNat 64 (code.toNat * 2 ^ 32)⟩ ∧ t.me.pc = s.me.pc ∧
        t.me.ctl.epc = s.me.ctl.epc ∧ t.me.ctl.estat = s.me.ctl.estat ∧ t.me.x = s.me.x ∧ t.me.mode = s.me.mode) ∧
    (∀ x, s.me.trapWait = some x → s.me.burning = false → s.me.traph = false →
      (¬ TopQuiet s.me → s.resumeTrap = s) ∧
      (TopQuiet s.me → Entered s.me s.resumeTrap.me x.cause x.epc x.eaddr x.einfo ∧ s.resumeTrap.me.trapWait = none)) ∧
    (TopQuiet s.me → s.me.traph = true → slotNo s.cur = 0 → ∀ w, ∃ t : State, exec (.illegalWord w) s = .next t ∧
      t.myCore.closed = true) ∧
    (TopQuiet s.me → s.me.traph = true →
      (∀ w, ∃ t : State, exec (.illegalWord w) s = .next t ∧ t.me.mode = .stopped ∧ t.me.pc = s.me.pc ∧
        t.me.ctl.epc = s.me.ctl.epc ∧ t.me.ctl.ecause = s.me.ctl.ecause ∧ t.me.ctl.eaddr = s.me.ctl.eaddr ∧
        t.me.ctl.einfo = s.me.ctl.einfo ∧ t.me.ctl.estat = s.me.ctl.estat) ∧
      (∀ code, s.ready (.trap code) = true → ∃ t : State, exec (.trap code) s = .next t ∧ t.me.mode = .stopped ∧
        t.me.pc = s.me.pc ∧ t.me.ctl.epc = s.me.ctl.epc ∧ t.me.ctl.estat = s.me.ctl.estat))

/-- R122: ERET and UIRET restore what the entry saved, after their checks; a frozen frame of the slot resumes. -/
def Obligations.TrapReturns : Prop :=
  ∀ s : State, s.inFrame = false →
    (s.ready .eret = true →
      (s.me.priv = false → exec .eret s = .next (s.raise Cause.priv 0 (BitVec.ofNat 64 (wordOf .eret * 2 ^ 32)))) ∧
      (s.me.priv = true → s.me.traph = false →
        exec .eret s = .next (s.raise Cause.ill 0 (BitVec.ofNat 64 (wordOf .eret * 2 ^ 32)))) ∧
      (s.me.priv = true → s.me.traph = true → s.me.ctl.epc.toNat % 4 ≠ 0 →
        exec .eret s = .next (s.raise Cause.align s.me.ctl.epc targetInfo)) ∧
      (s.me.priv = true → s.me.traph = true → s.me.ctl.epc.toNat % 4 = 0 →
        (¬ TopQuiet s.me → exec .eret s = .next s) ∧
        (TopQuiet s.me → ∃ t : State, exec .eret s = .next t ∧ Returned s.me t.me ∧
          ∀ f, s.myCore.frame = some f → f.owner = s.cur → t.myCore.frame = some { f with frozen := false }))) ∧
    (s.ready .uiret = true →
      (s.me.uih = false → exec .uiret s = .next (s.raise Cause.ill 0 (BitVec.ofNat 64 (wordOf .uiret * 2 ^ 32)))) ∧
      (s.me.uih = true → s.me.ctl.uipc.toNat % 4 ≠ 0 →
        exec .uiret s = .next (s.raise Cause.align s.me.ctl.uipc targetInfo)) ∧
      (s.me.uih = true → s.me.ctl.uipc.toNat % 4 = 0 → ¬ TopQuiet s.me → exec .uiret s = .next s) ∧
      (s.me.uih = true → s.me.ctl.uipc.toNat % 4 = 0 → TopQuiet s.me →
        ∃ t : State, exec .uiret s = .next t ∧ t.me.pc = s.me.ctl.uipc ∧ t.me.uih = false ∧ t.me.getX 12 = s.me.ubank.x12 ∧
          t.me.getX 13 = s.me.ubank.x13 ∧ t.me.getX 14 = s.me.ubank.x14 ∧ t.me.getX 15 = s.me.ubank.x15 ∧
          (∀ k : Reg, k.toNat < 12 → t.me.getX k = s.me.getX k ∧ t.me.fullX k = s.me.fullX k) ∧ t.me.sg = s.me.sg ∧
          ∀ k, k < 64 → t.me.ctl.status.getLsbD k = (s.me.ctl.status.getLsbD k && k != 7)))

/-- R23, R113 to R116: the entry of a user interrupt for a copy completion, and the two deliveries of TAGWAIT. -/
def Obligations.UserInterrupts : Prop :=
  ∀ s : State, s.inFrame = false → s.me.mode = .running → TopQuiet s.me → s.me.burning = false → s.me.traph = false →
    (∀ xid h rest, s.me.uih = false → s.me.uie = true → s.me.barrier = none → s.me.tagwait = none → s.me.park = none →
      s.me.completions = (xid, h) :: rest →
      ∃ t : State, exec (.userInterruptEntry s.cur) s = .next t ∧
        Interrupted s.me t.me 0x01 xid s.me.pc (if h = 0 then s.me.ctl.uivec else h) ∧ t.me.ctl.uixid = xid ∧
        t.me.completions = rest) ∧
    (∀ r since d b c, s.me.park = some ⟨.reg r, since, false, d, b, c⟩ → r < 16 → s.me.tagwait = none →
      0 < s.me.ctl.waitlim.toNat % 2 ^ 32 → since + s.me.ctl.waitlim.toNat % 2 ^ 32 ≤ s.dtime →
      (s.me.utw = true → s.me.uih = false → ∃ t : State, exec (.tagwait s.cur) s = .next t ∧
        Interrupted s.me t.me 0x08 0 s.me.pc s.me.ctl.uivec ∧ t.me.park = none) ∧
      (s.me.utw = false ∨ s.me.uih = true → ∃ t : State, exec (.tagwait s.cur) s = .next t ∧
        Entered s.me t.me 0x08 s.me.pc 0 (BitVec.ofNat 64 (r * 2 ^ 32)))) ∧
    (∀ l full ea since d b c, s.me.park = some ⟨.tag l full ea, since, false, d, b, c⟩ → s.me.tagwait = none →
      0 < s.me.ctl.waitlim.toNat % 2 ^ 32 → since + s.me.ctl.waitlim.toNat % 2 ^ 32 ≤ s.dtime →
      (s.me.utw = true → s.me.uih = false → ∃ t : State, exec (.tagwait s.cur) s = .next t ∧
        Interrupted s.me t.me 0x08 ea s.me.pc s.me.ctl.uivec) ∧
      (s.me.utw = false ∨ s.me.uih = true → ∃ t : State, exec (.tagwait s.cur) s = .next t ∧
        Entered s.me t.me 0x08 s.me.pc ea (BitVec.ofNat 64 (2 ^ 38))))

/-- R22, R117 to R120: NOP, HALT, WFI, YIELD and ISYNC; a halt or a resume asked for; the wake of a parked slot, whose limit has not passed
before (R23), and of a page fault. On which of its next two own turns the slot issues is a free value (log 8). -/
def Obligations.SystemInstructions : Prop :=
  ∀ s : State, s.inFrame = false →
    (s.ready .nop = true → exec .nop s = .next (s.upd (fun p => { p with pc := p.pc + 4, park := none }))) ∧
    (s.ready .halt = true → s.me.priv = false →
      exec .halt s = .next (s.raise Cause.priv 0 (BitVec.ofNat 64 (wordOf .halt * 2 ^ 32)))) ∧
    (s.ready .halt = true → s.me.priv = true → ∃ t : State, exec .halt s = .next t ∧ t.me.mode = .halted ∧
      t.me.pc = s.me.pc + 4 ∧ t.me.haltedAt = some s.clock ∧ SameRegisters [] [] s.me t.me) ∧
    (s.ready .wfi = true → s.me.park = none →
      exec .wfi s = .next (s.upd (fun p => { p with park := some ⟨.wfi, s.dtime, false, false, false, 0⟩ }))) ∧
    (∀ k, s.ready .wfi = true → s.me.park = some k → k.reason = .wfi → k.occurred = true →
      exec .wfi s = .next (s.upd (fun p => { p with pc := p.pc + 4, park := none }))) ∧
    (s.ready .yield = true →
      exec .yield s = .next (s.upd (fun p => { p with pc := p.pc + 4, park := none, yielded := true }))) ∧
    (s.ready .isync = true → s.myCore.replays s.cur = false → s.me.fills = [] → (∀ e ∈ s.me.sb, e.held = true) →
      s.settled s.cur = true → s.me.overlays = [] →
      exec .isync s = .next (s.upd (fun p => { p with pc := p.pc + 4, park := none, overlays := [], remoteFetch := [] }))) ∧
    (∀ slot, s.recovering = false → (s.slot slot).mode = .running → exec (.haltRequest slot) s =
      .next (s.updSlot slot (fun p => { p with haltRequest := true }))) ∧
    (∀ slot, s.recovering = false → (s.slot slot).mode = .halted → exec (.resumeRequest slot) s =
      .next (s.updSlot slot (fun p => { p with resumeRequest := true }))) ∧
    (∀ slot r since d b c, (s.slot slot).park = some ⟨.reg r, since, false, d, b, c⟩ →
      (s.slot slot).fullAt (s.cycleOf (coreOf slot)) (BitVec.ofNat 4 r) = true → s.limitPassed slot = false →
      ∃ t : State, exec (.slotWake slot) s = .next t ∧
        (t.slot slot).park = some ⟨.reg r, since, true, false, Config.wakeFirst s.fresh, s.cycle⟩ ∧ t.fresh = s.fresh + 1) ∧
    (∀ slot token decline ea info since d b c, (s.slot slot).park = some ⟨.page token ea info, since, false, d, b, c⟩ →
      ∃ t : State, exec (.pageFaultWake slot token decline) s = .next t ∧
        (t.slot slot).park = some ⟨.page token ea info, since, true, decline, Config.wakeFirst s.fresh, s.cycle⟩)

/-- R8, R34, R37, R38: MFC reads the register named, MTC writes its RW bits and no other register, an absent number takes ILL and a
supervisor register PRIV; a register that is read-only at user privilege ignores the write. Of STATUS only UIE, UTW and NOLEND
can be written. PART takes a write only with no resident thread. -/
def Obligations.ControlRegisters : Prop :=
  ∀ s : State, s.inFrame = false →
    (∀ d crn w u, s.ready (.mfc d crn) = true → userAccess crn.toNat = some u → (s.me.priv = true ∨ u ≠ .no) →
      s.readReg s.cur crn.toNat = some w → exec (.mfc d crn) s = .next ((s.writeX d w 2).advance)) ∧
    (∀ d crn, s.ready (.mfc d crn) = true → userAccess crn.toNat = none → exec (.mfc d crn) s = .next (s.ill (.mfc d crn))) ∧
    (∀ d crn, s.ready (.mfc d crn) = true → userAccess crn.toNat = some .no → s.me.priv = false →
      exec (.mfc d crn) s = .next (s.raise Cause.priv 0 (BitVec.ofNat 64 (wordOf (.mfc d crn) % 2 ^ 32 * 2 ^ 32)))) ∧
    (∀ a crn old, s.ready (.mtc a crn) = true → ctlGet s.me.ctl crn.toNat = some old →
      (s.me.priv = true ∨ userAccess crn.toNat = some .write) →
      ∃ t : State, exec (.mtc a crn) s = .next t ∧
        ctlGet t.me.ctl crn.toNat = some ((old &&& ~~~ rwMask crn.toNat) ||| (s.me.getX a &&& rwMask crn.toNat)) ∧
        (∀ n, n ≠ crn.toNat → (ctlGet s.me.ctl n).isSome = true → t.readReg t.cur n = s.readReg s.cur n) ∧ t.me.pc = s.me.pc + 4 ∧
        SameRegisters [] [] s.me t.me ∧ SameMemory s t) ∧
    (∀ a crn, s.ready (.mtc a crn) = true → userAccess crn.toNat = some .read → s.me.priv = false →
      (crn = 0x004 → s.residentThread (coreOf s.cur) = false) → exec (.mtc a crn) s = .next s.advance) ∧
    (∀ a, s.ready (.mtc a 0x000) = true → ∃ t : State, exec (.mtc a 0x000) s = .next t ∧
      ∀ k, k < 64 → t.me.ctl.status.getLsbD k =
        if k = 4 ∨ k = 5 ∨ k = 6 then (s.me.getX a).getLsbD k else s.me.ctl.status.getLsbD k) ∧
    (∀ d, s.ready (.mfc d 0x010) = true → exec (.mfc d 0x010) s = .next ((s.writeX d (BitVec.ofNat 64 s.dtime) 2).advance)) ∧
    (∀ a, s.ready (.mtc a 0x004) = true →
      (s.residentThread (coreOf s.cur) = true → exec (.mtc a 0x004) s = .next (s.ill (.mtc a 0x004))) ∧
      (s.residentThread (coreOf s.cur) = false → s.me.priv = true → ∃ t : State, exec (.mtc a 0x004) s = .next t ∧
        t.myCore.part = s.me.getX a &&& 0xFFFFFFFF00001FFF ∧ t.myCore.kfmt = [0, 0, 0, 0])) ∧
    (∀ crn idx v old, idx < 2 ^ 15 → ctlGet (s.slot idx).ctl crn = some old →
      ∃ t : State, exec (.registerWrite crn idx v) s = .next t ∧
        ctlGet (t.slot idx).ctl crn = some ((old &&& ~~~ rwMask crn) ||| (v &&& rwMask crn))) ∧
    (∀ core v, s.residentThread core = false → ∃ t : State, exec (.partWrite core v) s = .next t ∧ (t.core core).part = v &&& 0xFFFFFFFF00001FFF ∧
      (t.core core).kfmt = [0, 0, 0, 0])

/-- R121: SEGLD and SEGRD. At user privilege a segment that is not inside the old one takes PRIV. -/
def Obligations.SegmentRegisters : Prop :=
  ∀ s : State, s.inFrame = false →
    (∀ b a n, s.ready (.segld b a n) = true →
      let new : Seg := ⟨s.me.getX a, (s.me.getX b).extractLsb' 0 48, (s.me.getX b).extractLsb' 48 8⟩
      let old := s.me.seg n.toNat
      let inside := new = Seg.empty ∨ (old.base.toNat ≤ new.base.toNat ∧
        new.base.toNat + new.limit.toNat ≤ old.base.toNat + old.limit.toNat ∧ new.rights &&& old.rights = new.rights ∧
        new.rights.getLsbD 7 = old.rights.getLsbD 7)
      ((s.me.priv = true ∨ inside) → ∃ t : State, exec (.segld b a n) s = .next t ∧ t.me.seg n.toNat = new ∧
        (∀ k, k < 8 → k ≠ n.toNat → t.me.seg k = s.me.seg k) ∧ t.me.pc = s.me.pc + 4 ∧ SameRegisters [] [] s.me t.me ∧
        t.me.ctl = s.me.ctl) ∧
      (s.me.priv = false → ¬ inside →
        exec (.segld b a n) s = .next (s.raise Cause.priv 0 (BitVec.ofNat 64 (wordOf (.segld b a n) % 2 ^ 32 * 2 ^ 32))))) ∧
    (∀ d n, s.ready (.segrd d false n) = true →
      exec (.segrd d false n) s = .next ((s.writeX d (s.me.seg n.toNat).base 2).advance)) ∧
    (∀ d n, s.ready (.segrd d true n) = true →
      exec (.segrd d true n) s = .next ((s.writeX d
        (((s.me.seg n.toNat).rights.zeroExtend 64 <<< 48) ||| (s.me.seg n.toNat).limit.zeroExtend 64) 2).advance))

/-- R123, R285, R292: TLBI waits for the slot's stores, and its acknowledgement comes once every port in scope has dropped the leaves that
match and no L2 holds dirty what was written under them; a walk leaves home memory in canonical form. That a walk's leaf is cached, and
that TLBI at `.sys` stops at this package's ports, is DEDUCED (log 24). -/
def Obligations.ShootDowns : Prop :=
  (∀ (a : Reg) (k : BitVec 2) (sc : Scope) (s : State), s.inFrame = false → s.ready (.tlbi a k sc) = true →
    (s.me.burning = true → exec (.tlbi a k sc) s = .next (s.ill (.tlbi a k sc))) ∧
    (s.me.burning = false → s.me.priv = false → exec (.tlbi a k sc) s =
      .next (s.raise Cause.priv 0 (BitVec.ofNat 64 (wordOf (.tlbi a k sc) % 2 ^ 32 * 2 ^ 32)))) ∧
    (s.me.burning = false → s.me.priv = true → s.me.sb ≠ [] → exec (.tlbi a k sc) s = .next s) ∧
    (s.me.burning = false → s.me.priv = true → s.me.sb = [] → ∃ t : State, exec (.tlbi a k sc) s = .next t ∧
      t.me.pc = s.me.pc + 4 ∧ t.me.barrier = some (.tlbi k.toNat (s.me.getX a) s.myCore.ptroot sc))) ∧
  (∀ (slot k : Nat) (xa root : Word) (sc : Scope) (s : State), (s.slot slot).barrier = some (.tlbi k xa root sc) →
    s.atomics = [] → s.reductions = [] →
    ∃ t : State, exec (.tlbiAck slot) s = .next t ∧ (t.slot slot).barrier = none ∧
      (∀ h x d i e, h < 8 → (s.hearth h).bad = [] → Table.find (s.hearth h).dirty x = some d → i ∈ d.writers →
        inScope sc (clampOf slot) (clampOf i) = true → e ∈ (s.clamp (clampOf i)).tlb → e.isTable = false →
        tlbiHits k xa root e = true → e.maps x = true → Table.find (t.hearth h).dirty x = none) ∧
      ∀ c, inScope sc (clampOf slot) c = true → ∀ e ∈ (t.clamp c).tlb,
        (k = 0 → ¬ (e.root = root ∧ e.va ≤ xa.toNat % 2 ^ 57 ∧ xa.toNat % 2 ^ 57 < e.va + e.span)) ∧
        (k = 1 → e.root.toNat / 2 ^ 18 % 2 ^ 33 ≠ xa.toNat / 2 ^ 18 % 2 ^ 33) ∧ k < 2) ∧
  (∀ (clamp root va : Nat) (write : Bool) (s s' : State) (pa : Nat) (h : Option Nat),
    s.translate clamp (BitVec.ofNat 64 root) va false (if write then 1 else 0) false = (s', .ok pa h) →
    exec (.pageWalk clamp root va write) s = .next s' ∧ (Safe s → Safe s') ∧
    ∃ e ∈ (s'.clamp clamp).tlb, e.root = BitVec.ofNat 64 root ∧ leafAddr e.w0 e.w1 (va - e.va) = some pa)

/-! ## Fences, register links and messages (09_memory, 10_ordering) -/

/-- R146 to R149, R160: FENCE lets the next instruction wait, FENCES waits where it stands and then writes its status and starts the counts
anew, DCWB through a segment of global addresses of this package puts the line's dirty bytes into home memory, and PF changes nothing but
the PC. That DCWB acts once the store buffer is empty and takes every writer's bytes in one step is DEDUCED (log 21); that FENCES at `.sys`
forgets the packages toward which writes were lost is DEDUCED (log 66). -/
def Obligations.FencesAndLines : Prop :=
  ∀ s : State, s.inFrame = false →
    (∀ o sc, s.ready (.fence o sc) = true →
      (s.me.burning = true → exec (.fence o sc) s = .next (s.ill (.fence o sc))) ∧
      (s.me.burning = false → exec (.fence o sc) s =
        .next (s.upd (fun p => { p with pc := p.pc + 4, park := none, barrier := some (.fence o sc) })))) ∧
    (∀ o sc, s.me.barrier = some (.fence o sc) → s.me.remoteTag = none → s.me.mode = .running → s.me.trapWait = none →
      s.fenced s.cur o = true → (o ≠ .acq → sc = .sys → s.outstanding s.cur = false) →
      ∃ t : State, s.settle = (t, true) ∧ t.me.barrier = none ∧
        (o ≠ .acq → t.me.fenceRel = widerScope s.me.fenceRel (some sc)) ∧ t.me.pc = s.me.pc) ∧
    (∀ t sc, s.ready (.fences t sc) = true →
      (s.me.burning = true → exec (.fences t sc) s = .next (s.ill (.fences t sc))) ∧
      (s.me.burning = false → ∃ u : State, exec (.fences t sc) s = .next u ∧ u.me.barrier = some (.fences t sc) ∧
        u.me.pc = s.me.pc)) ∧
    (∀ t sc, s.me.barrier = some (.fences t sc) → s.me.remoteTag = none → sc ≠ .sys → sc ≠ .pkg → s.fenced s.cur .none = true →
      ∃ u : State, s.settle = (u, false) ∧ u.me.getX t = s.me.fstat &&& 0xFFFF001F ∧ u.me.fstat = 0 ∧
        u.me.written = s.me.written ∧ u.me.barrier = none ∧ u.me.pc = s.me.pc + 4) ∧
    (∀ t, s.me.barrier = some (.probed t) → s.me.remoteTag = none → s.remoteDone s.cur = true →
      ∃ u : State, s.settle = (u, false) ∧ u.me.getX t = s.me.fstat &&& 0xFFFF001F ∧ u.me.fstat = 0 ∧ u.me.written = [] ∧
        u.me.lost = [] ∧ u.me.barrier = none ∧ u.me.pc = s.me.pc + 4) ∧
    (∀ a g sc l va h s', s.ready (.dcwb a g sc) = true → s.me.burning = false → s.bad = [] → Safe s → L2Ordered s →
      (∀ h, (s'.hearth h).bad = []) → s.resolve s.cur { tAccess s.me g a 1 0x02 1 false with moves := false } = (s', .ok [⟨.here l, 1, va, h⟩]) →
      s'.me.sb = [] → va = none → ∃ t : State, exec (.dcwb a g sc) s = .next t ∧ t.me.pc = s'.me.pc + 4 ∧
        ∀ x d, lineOf x = lineOf l → Table.find (s'.hearth (hearthOf s'.cur)).dirty x = some d → t.homeByte x = d.val) ∧
    (∀ a g sc, s.ready (.pf a g sc) = true → exec (.pf a g sc) s = .next (s.upd (fun p => { p with pc := p.pc + 4, park := none })))

/-- R27, R150: PUTN leaves its value with a slot of the sender's group, and the value fills the register once that is open; XCLR opens a
register, XPRES reads a full/empty bit without a park. -/
def Obligations.RegisterLinks : Prop :=
  ∀ s : State, s.inFrame = false →
    (∀ d a c k, s.ready (.putn d a c k) = true →
      let dest := 256 * clampOf s.cur + 16 * c.toNat + k.toNat
      ((s.slot dest).mode = .free ∨ (s.slot dest).ctl.rcba ≠ s.me.ctl.rcba → ∃ t : State, exec (.putn d a c k) s = .next t ∧
        t.me.fstat.getLsbD 1 = true ∧ t.me.pc = s.me.pc + 4) ∧
      ((s.slot dest).mode ≠ .free → (s.slot dest).ctl.rcba = s.me.ctl.rcba → (s.slot dest).putn ≠ none →
        exec (.putn d a c k) s = .next s) ∧
      ((s.slot dest).mode ≠ .free → (s.slot dest).ctl.rcba = s.me.ctl.rcba → (s.slot dest).putn = none →
        ∃ t : State, exec (.putn d a c k) s = .next t ∧ (t.slot dest).putn = some (d, s.me.getX a, s.cur) ∧
          t.me.pc = s.me.pc + 4 ∧ SameMemory s t)) ∧
    (∀ slot r w from_, (s.slot slot).putn = some (r, w, from_) → (s.slot slot).mode ≠ .free →
      (s.slot slot).fullX r = false → (s.slot slot).fillX r.toNat = false → (s.slot slot).xdead.getLsbD r.toNat = false →
      ∃ t : State, exec (.putnDelivery slot) s = .next t ∧ (t.slot slot).getX r = w ∧ (t.slot slot).fullX r = true ∧
        (t.slot slot).putn = none) ∧
    (∀ d, s.ready (.xclr d) = true → ∃ t : State, exec (.xclr d) s = .next t ∧ t.me.fullX d = false ∧
      t.me.pc = s.me.pc + 4 ∧ SameRegisters [d] [] s.me t.me ∧ SameControl s.me t.me ∧ SameMemory s t) ∧
    (∀ d a, s.ready (.xpres d a) = true →
      exec (.xpres d a) s = .next ((s.writeX d (if s.me.fullAt (s.cycleOf (coreOf s.cur)) a then 1 else 0) 2).advance))

/-- R151 to R154: SEND enters the store buffer with the sender's LID and count, a message reaches its queue in its turn, RECV takes the
first match with its header and words or parks, and a spark for a slot starts slot 14, which SPKRET ends. -/
def Obligations.MessagesMove : Prop :=
  ∀ s : State, s.inFrame = false →
    (∀ d a b phys spark n, s.ready (.send d a b phys spark n) = true → s.me.ember = false →
      (phys = true → s.me.priv = true) →
      s.inFlight s.cur + (s.me.sb.filter (fun e => !e.held && e.kind.isSend)).length < 8 → RoomToStore s false →
      ∃ (t : State) (e : SbEntry) (m : Message), exec (.send d a b phys spark n) s = .next t ∧ t.me.sb = s.me.sb ++ [e] ∧
        e.kind = .send phys spark (s.me.getX a) m ∧ e.held = s.me.burning ∧ m.sender = s.me.ctl.lid.toNat % 2 ^ 32 ∧
        m.seq = s.me.sendCount ∧ (∀ k, k ≤ n.toNat → m.words[k]? = some (s.me.getX (b + BitVec.ofNat 4 k))) ∧
        t.me.getX d = BitVec.ofNat 64 s.me.sendCount ∧ t.me.sendCount = (s.me.sendCount + 1) % 2 ^ 32 ∧
        t.me.pc = s.me.pc + 4 ∧ SameMemory s t) ∧
    (∀ d a b spark n, s.ready (.send d a b true spark n) = true → s.me.ember = false → s.me.priv = false →
      exec (.send d a b true spark n) s = .next (s.privFault (.send d a b true spark n))) ∧
    (∀ k f, s.flights[k]? = some f → s.flightTurn k = true → f.waiting = none → s.accepts f.dst f.spark false = true →
      (f.phys = true → f.spark = false → f.m.words.length ≠ 2) →
      (f.spark = false → (s.slot f.dst).msgs.length < 16 → ∃ t : State, exec (.messageDelivery k) s = .next t ∧
        (t.slot f.dst).msgs = (s.slot f.dst).msgs ++ [f.m] ∧ t.flights = s.flights.eraseIdx k) ∧
      (f.spark = true → (s.core (coreOf f.dst)).handlers.length < 16 → ∃ t : State, exec (.messageDelivery k) s = .next t ∧
        (t.core (coreOf f.dst)).handlers = (s.core (coreOf f.dst)).handlers ++ [f] ∧
        t.flights = s.flights.eraseIdx k)) ∧
    (∀ k f rcba lseq lid i q, s.flights[k]? = some f → s.flightTurn k = true → f.waiting = some (rcba, lseq, lid) →
      s.threadOf rcba lseq lid = some (i, q) → q.ember = false → f.spark = false → (s.slot i).msgs.length < 16 →
      ∃ t : State, exec (.messageDelivery k) s = .next t ∧ (t.slot i).msgs = (s.slot i).msgs ++ [f.m] ∧
        t.flights = s.flights.eraseIdx k) ∧
    (∀ d a b n, s.ready (.recv d a b n) = true → s.me.ember = false → s.me.det = false →
      ((s.inbox s.cur).findIdx? (msgMatches (s.me.getX a) (s.me.getX b)) = none →
        exec (.recv d a b n) s = .next (s.upd (fun p => p.parkOn s.dtime (.msg (s.me.getX a) (s.me.getX b))))) ∧
      (∀ k m, (s.inbox s.cur).findIdx? (msgMatches (s.me.getX a) (s.me.getX b)) = some k → (s.inbox s.cur)[k]? = some m →
        ∃ t : State, exec (.recv d a b n) s = .next t ∧ t.inbox t.cur = (s.inbox s.cur).eraseIdx k ∧
          t.me.getX d = BitVec.ofNat 64 (m.sender * 2 ^ 32 + m.seq % 2 ^ 32) ∧
          (∀ j, j ≤ n.toNat → t.me.getX (d + BitVec.ofNat 4 (j + 1)) = (m.words[j]?).getD 0) ∧ t.me.pc = s.me.pc + 4)) ∧
    (s.ready .spkret = true → slotNo s.cur = 14 → s.me.ember = false → s.me.burning = false →
      (s.me.sb ≠ [] ∨ s.settled s.cur = false → exec .spkret s = .next s) ∧
      (s.me.sb = [] → s.settled s.cur = true → ∃ t : State, exec .spkret s = .next t ∧ t.me.mode = .free ∧ t.me.putn = none ∧
        t.me.x = s.me.x ∧ t.me.sg = s.me.sg ∧ SameMemory s t)) ∧
    (∀ core f rest, (s.core core).handlers = f :: rest → (s.slot (16 * core + 14)).mode = .free →
      (s.slot f.dst).mode ≠ .free → ∃ t : State, exec (.sparkHandlerStart core) s = .next t ∧ (t.core core).handlers = rest ∧
        (t.slot (16 * core + 14)).mode = .running ∧ (t.slot (16 * core + 14)).pc = (f.m.words[0]?).getD 0 ∧
        (∀ k : Reg, k.toNat < 8 → (t.slot (16 * core + 14)).getX k = (f.m.words[k.toNat]?).getD 0) ∧
        (t.slot (16 * core + 14)).getX 8 = BitVec.ofNat 64 (f.m.sender * 2 ^ 32 + f.m.seq % 2 ^ 32) ∧
        (t.slot (16 * core + 14)).sg = (s.slot f.dst).sg ∧ (t.slot (16 * core + 14)).ctl.rcba = (s.slot f.dst).ctl.rcba)

/-! ## Vectors (13_numbers, 14_vector), sampling (16_rollback, 17_generation) -/

/-- R220 to R224, R227, R228, R236, R237: every lane of the integer forms, the moves and VDOT4; a masked lane keeps its old value. A
source with uncorrectable data takes ECCUNC, whose EADDR and size are DEDUCED (log 34). -/
def Obligations.VectorIntegerLanes : Prop :=
  ∀ (i : Instr) (k : LaneRow) (s : State), integerLaneRow i = some k → s.ready i = true →
    (s.vregBad i = none →
      ∃ t : State, exec i s = .next t ∧ LanesWritten k s t ∧ (s.inFrame = false → VectorFrame [] [k.d] [] s t)) ∧
    (∀ r, s.vregBad i = some r → exec i s = .next (sourceTrap s r))

/-- R225 to R227, R230 to R233, R237, R258, R268: every lane of the float forms, the fused forms, the conversions, the special
functions, VDOTF8 and VRND, and the sticky bits of the lanes that are not masked. What the special functions give is a free value within
their bounds (log 9), VDOTF8's rounding is log 100, and EADDR and size of a bad source's ECCUNC are DEDUCED (log 34). -/
def Obligations.VectorNumberLanes : Prop :=
  ∀ (i : Instr) (k : LaneRow) (s : State), numberLaneRow i = some k → s.ready i = true →
    (s.vregBad i = none →
      ∃ t : State, exec i s = .next t ∧ LanesWritten k s t ∧ (s.inFrame = false → VectorFrame [] [k.d] [] s t)) ∧
    (∀ r, s.vregBad i = some r → exec i s = .next (sourceTrap s r))

/-- R204, R205, R207: the rounding of a value that a format holds gives that value's own encoding and raises nothing, in every mode;
every inexact result raises NX. -/
def Obligations.RoundsExactly : Prop :=
  ∀ f ∈ [fmtF64, fmtF32, fmtF16, fmtBf16, fmtE4m3, fmtE5m2, fmtE2m1], ∀ (mode : Round) (neg : Bool) (mag : Nat) (e : Int),
    (∀ b, b < 2 ^ (f.sign + 1) → f.read b = .fin neg mag e → f.round mode (finDyadic neg mag e) neg = ⟨b, false, false, .clear⟩) ∧
    (∀ n x d, 0 < mag → f.read (f.round mode (finDyadic neg mag e) neg).bits = .fin n x d →
      (finDyadic n x d).cmp (finDyadic neg mag e) ≠ 0 → (f.round mode (finDyadic neg mag e) neg).flags.fp.getLsbD 0 = true)

/-- R221, R223, R227 to R229: VEXT, the comparisons, the mask operations and MPOPC. -/
def Obligations.MaskResults : Prop :=
  (∀ (v : VReg) (k : BitVec 6) (b : Reg) (ty : Ty) (s : State), s.ready (.vext v k b ty) = true → s.vregBad (.vext v k b ty) = none →
    exec (.vext v k b ty) s = .next ((s.writeX b (if tySigned ty
      then (laneBits (tyBits ty) (s.me.getV v) k.toNat).signExtend 64
      else (laneBits (tyBits ty) (s.me.getV v) k.toNat).zeroExtend 64) 4).advance)) ∧
  (∀ (n : MReg) (a b : VReg) (c : Cond) (ty : Ty) (mk : Bool) (s : State), s.ready (.vcmp n a b c ty mk) = true →
    s.vregBad (.vcmp n a b c ty mk) = none →
    ∃ t : State, exec (.vcmp n a b c ty mk) s = .next t ∧ (s.inFrame = false → VectorFrame [] [] [n] s t) ∧
      (tyInt ty = true → t.me.ctl = s.me.ctl ∧ t.me.sticks = s.me.sticks ∧ ∀ i, (t.me.getM n).getLsbD i = true ↔ i < 512 / tyBits ty ∧
        maskedLane mk s.me i = false ∧ laneCondition c (laneBits (tyBits ty) (s.me.getV a) i) (laneBits (tyBits ty) (s.me.getV b) i)) ∧
      (tyInt ty = false → (∀ i, (t.me.getM n).getLsbD i = true ↔ i < 512 / tyBits ty ∧ maskedLane mk s.me i = false ∧
        ((tyFmt ty).compare c (laneEnc ty (s.me.getV a) i) (laneEnc ty (s.me.getV b) i)).1 = true) ∧
        Sticks s t 2 (fun f => ∃ i, i < 512 / tyBits ty ∧ maskedLane mk s.me i = false ∧
          f = ((tyFmt ty).compare c (laneEnc ty (s.me.getV a) i) (laneEnc ty (s.me.getV b) i)).2))) ∧
  (∀ (n a b : MReg) (s : State), s.inFrame = false →
    (s.ready (.mand n a b) = true → ∃ t : State, exec (.mand n a b) s = .next t ∧ t.me.getM n = s.me.getM a &&& s.me.getM b ∧
      t.me.ctl = s.me.ctl ∧ VectorFrame [] [] [n] s t) ∧
    (s.ready (.mor n a b) = true → ∃ t : State, exec (.mor n a b) s = .next t ∧ t.me.getM n = s.me.getM a ||| s.me.getM b ∧
      t.me.ctl = s.me.ctl ∧ VectorFrame [] [] [n] s t) ∧
    (s.ready (.mnot n a) = true → ∃ t : State, exec (.mnot n a) s = .next t ∧ t.me.getM n = ~~~ s.me.getM a ∧
      t.me.ctl = s.me.ctl ∧ VectorFrame [] [] [n] s t)) ∧
  (∀ (x : Reg) (a : MReg) (ty : Ty) (mk : Bool) (s : State), s.ready (.mpopc x a ty mk) = true →
    ∃ v : Word, exec (.mpopc x a ty mk) s = .next ((s.writeX x v 3).advance) ∧
      v = BitVec.ofNat 64 (oneBits (((if mk then s.me.getM a &&& s.me.getM 0 else s.me.getM a)).setWidth (512 / tyBits ty))))

/-- R218, R222, R234, R235: the reductions combine the lanes in the fixed tree, masked lanes as the identity; VRMAXI names the lowest lane
that holds the largest value; the last lane of VSCAN is the result of VRADD. -/
def Obligations.VectorReductions : Prop :=
  ∀ (d a : VReg) (ty : Ty) (mk : Bool) (s : State),
    let w := tyBits ty
    let depth := Nat.log2 (512 / w)
    (∀ i kind, (i = .vradd d a ty mk ∧ kind = 0) ∨ (i = .vrmax d a ty mk ∧ kind = 1) ∨ (i = .vrmin d a ty mk ∧ kind = 2) →
      s.ready i = true → s.vregBad i = none →
      let n := reductionLane s.me a ty mk (redIdentity kind ty)
      ∃ t : State, exec i s = .next t ∧ laneBits w (t.me.getV d) 0 = BitVec.ofNat w (treeNode (redOp kind ty) n depth 0) ∧
        (∀ k, 0 < k → k < 512 / w → laneBits w (t.me.getV d) k = 0) ∧ (s.inFrame = false → VectorFrame [] [d] [] s t) ∧
        Sticks s t 8 (fun f => ∃ l j, l < depth ∧ j < 512 / w / 2 ^ (l + 1) ∧
          f = (redOp kind ty (treeNode (redOp kind ty) n l (2 * j)) (treeNode (redOp kind ty) n l (2 * j + 1))).2)) ∧
    (s.ready (.vscan d a ty mk) = true → s.vregBad (.vscan d a ty mk) = none →
      let n := reductionLane s.me a ty mk (redIdentity 0 ty)
      ∃ t : State, exec (.vscan d a ty mk) s = .next t ∧ (s.inFrame = false → VectorFrame [] [d] [] s t) ∧
        (∀ k, k < 512 / w → laneBits w (t.me.getV d) k =
          BitVec.ofNat w (nanResult ty (scanFrom (redOp 0 ty) n k (depth + 1) 0 none))) ∧
        laneBits w (t.me.getV d) (512 / w - 1) = BitVec.ofNat w (treeNode (redOp 0 ty) n depth 0)) ∧
    (s.ready (.vrmaxi d a ty mk) = true → s.vregBad (.vrmaxi d a ty mk) = none →
      let v := laneEnc ty (s.me.getV a)
      let candidate (k : Nat) : Prop := k < 512 / w ∧ maskedLane mk s.me k = false ∧
        (tyInt ty = false → ((tyFmt ty).read (v k)).isNan = false)
      ∃ t : State, exec (.vrmaxi d a ty mk) s = .next t ∧ (s.inFrame = false → VectorFrame [] [d] [] s t) ∧
        (∀ j, candidate j → (∀ k, candidate k → above ty (v k) (v j) = false ∧ (above ty (v j) (v k) = false → j ≤ k)) →
          laneBits w (t.me.getV d) 0 = BitVec.ofNat w (v j) ∧ laneBits w (t.me.getV d) 1 = BitVec.ofNat w j) ∧
        ((∀ j, ¬ candidate j) → laneBits w (t.me.getV d) 0 = BitVec.ofNat w (redIdentity 1 ty) ∧
          laneBits w (t.me.getV d) 1 = BitVec.allOnes w) ∧
        ∀ k, 1 < k → k < 512 / w → laneBits w (t.me.getV d) k = 0)

/-- R258, R267, R271, R272: VSORTK and VMERGEK rank their pairs; DSTKP, DSTKA and DSTKC act on the stack area. -/
def Obligations.SortsAndStacks : Prop :=
  ∀ s : State, s.inFrame = false →
    (∀ d a b ty mk, s.ready (.vsortk d a b ty mk) = true → s.vregBad (.vsortk d a b ty mk) = none →
      ∃ t : State, exec (.vsortk d a b ty mk) s = .next t ∧ VectorFrame [] [d] [] s t ∧ t.me.ctl = s.me.ctl ∧
        Ranked ty (((List.range 16).filter (fun k => !maskedLane mk s.me k)).map (fun k =>
          ((laneBits 32 (s.me.getV a) k).toNat, (laneBits 32 (s.me.getV b) k).toNat))) (t.me.getV d)) ∧
    (∀ d a b ty, s.ready (.vmergek d a b ty) = true → s.vregBad (.vmergek d a b ty) = none →
      ∃ t : State, exec (.vmergek d a b ty) s = .next t ∧ VectorFrame [] [d] [] s t ∧ t.me.ctl = s.me.ctl ∧
        Ranked ty (([s.me.getV a, s.me.getV b] : List VWord).flatMap (fun v => (List.range 8).map (fun r =>
          ((laneBits 32 v (2 * r)).toNat, (laneBits 32 v (2 * r + 1)).toNat)))) (t.me.getV d)) ∧
    (∀ d a b l s', s.ready (.dstkp d a b) = true → s.me.ember = false → StackAt s s' (s.me.getX b) true l →
      let c := s'.homeNat l 8
      let n := c % 128
      let depth := (s.me.getX a).toNat
      n ≤ 64 →
      (c / 256 % 128 < depth ∨ 63 < depth ∨ n = 64 → ∃ t : State, exec (.dstkp d a b) s = .next t ∧ t.me.getX d = 0 ∧
        t.homeNat l 8 = c ||| 2 ^ 15 ∧ (∀ x, x < l ∨ l + 8 ≤ x → t.homeByte x = s'.homeByte x) ∧ t.me.pc = s'.me.pc + 4) ∧
      (depth ≤ c / 256 % 128 → depth ≤ 63 → n < 64 →
        let m := (if depth = 0 then 0 else s'.homeNat (l + 0x40 + 8 * (depth - 1)) 8) ||| 2 ^ n
        ∃ t : State, exec (.dstkp d a b) s = .next t ∧ t.me.getX d = BitVec.ofNat 64 m ∧ t.me.fullX d = true ∧
          t.homeNat (l + 0x40 + 8 * depth) 8 = m ∧ t.homeNat (l + 0x240 + 8 * n) 8 = m ∧ t.homeNat l 8 % 128 = n + 1 ∧
          t.homeNat l 8 / 256 % 128 = depth + 1 ∧ t.homeNat l 8 / 2 ^ 15 = c / 2 ^ 15 ∧ t.me.pc = s'.me.pc + 4 ∧
          ∀ x, (x < l ∨ l + 8 ≤ x) → (x < l + 0x40 + 8 * depth ∨ l + 0x48 + 8 * depth ≤ x) →
            (x < l + 0x240 + 8 * n ∨ l + 0x248 + 8 * n ≤ x) → t.homeByte x = s'.homeByte x)) ∧
    (∀ d a b l s', s.ready (.dstka d a b) = true → s.me.ember = false → StackAt s s' (s.me.getX b) false l →
      ∃ t : State, exec (.dstka d a b) s = .next t ∧ t.me.getX d = (if (s.me.getX a).toNat < s'.homeNat l 8 % 128
        then BitVec.ofNat 64 (s'.homeNat (l + 0x240 + 8 * ((s.me.getX a).toNat % 64)) 8) else 0) ∧ t.me.pc = s'.me.pc + 4 ∧
        SameMemory s' t) ∧
    (∀ b l s', s.ready (.dstkc b) = true → s.me.ember = false → StackAt s s' (s.me.getX b) true l →
      ∃ t : State, exec (.dstkc b) s = .next t ∧ t.homeNat l 8 = 0 ∧ (∀ x, x < l ∨ l + 8 ≤ x → t.homeByte x = s'.homeByte x) ∧
        t.me.pc = s'.me.pc + 4 ∧ SameRegisters [] [] s'.me t.me)

/-! ## Threads and launches (11_launch, 23_host) -/

/-- R57, R171, R185, R186, R188 to R192, R332: SPAWN of a promised thread, REAP, EXIT with its waits, MIGR, DTASK and SLOTQ. That REAP answers
at once and its slot leaves after it is DEDUCED (log 49), so is that MIGR departs with HADDR 0 (log 57), and that EXIT ends in stages
(log 98). -/
def Obligations.ThreadInstructions : Prop :=
  ∀ s : State, s.inFrame = false →
    (∀ d a b ember sl h q s' image s'' segs, s.ready (.spawn d a b ember sl) = true →
      let k := 16 * coreOf s.cur + sl.toNat
      let g := q.g
      let params := if q.replay.isSome then q.copy else g.paddr
      slotNo s.cur = 0 → s.cur ≠ k → (s.slot k).mode = .free → (s.slot k).barrier ≠ some .reap → s.me.sb = [] → s.settled s.cur = true →
      s.promised k (s.me.getX a) ((s.me.getX b).toNat % 2 ^ 32) = some (h, q) →
      s.readImage s.cur g.kaddr = (s', .ok image) → s'.spawnStatus k g image ember = 0 →
      s'.readSegs s'.cur params image.segs (Vector.replicate 8 Seg.empty) = (s'', .ok segs) →
      ∃ t : State, exec (.spawn d a b ember sl) s = .next t ∧ t.me.getX d = 0 ∧ t.me.pc = s''.me.pc + 4 ∧
        (t.slot k).mode = .running ∧ (t.slot k).pc = 0 ∧ (∀ r, (t.slot k).getX r = 0 ∧ (t.slot k).fullX r = true) ∧
        (t.slot k).ctl.lid = s.me.getX b ∧ (t.slot k).ctl.rcba = s.me.getX a ∧ (t.slot k).ctl.fdom = g.fdom ∧
        (t.slot k).ctl.evec = g.tevec ∧ (t.slot k).sseg = ⟨g.tsegb, g.tsegl.setWidth 48, (g.tsegl >>> 48).setWidth 8⟩ ∧
        (∀ j, j < 64 → (t.slot k).ctl.status.getLsbD j =
          ((j == 0 && g.super) || (j == 1 && g.det) || (j == 3 && ember) || (j == 6 && decide (g.bclass = 2)))) ∧
        (t.slot k).seg 0 = s''.codeSeg g image ∧ (t.slot k).seg 6 = s''.paramSeg g params ∧
        (t.slot k).seg 7 = poolSeg (coreOf k) g.part ember ∧ (t.slot k).taskPos = 0 ∧ (t.slot k).sendCount = 0) ∧
    (∀ d sl, s.ready (.reap d sl) = true →
      let k := 16 * coreOf s.cur + sl.toNat
      (slotNo s.cur ≠ 0 → exec (.reap d sl) s = .next (s.privFault (.reap d sl))) ∧
      (slotNo s.cur = 0 → s.cur ≠ k → (s.slot k).barrier ≠ some .reap →
        ((s.slot k).burning = true → (s.slot k).mode ≠ .stopped → exec (.reap d sl) s = .next s) ∧
        ((s.slot k).burning = false ∨ (s.slot k).mode = .stopped → ∃ t : State, exec (.reap d sl) s = .next t ∧
          t.me.pc = s.me.pc + 4 ∧
          t.me.getX d = (match (s.slot k).mode with
            | .free => 0
            | .stopped => 3
            | .halted => 4
            | _ => if s.isParked k then 2 else 1) ∧
          ((s.slot k).mode ≠ .free → (t.slot k).mode = .leaving ∧ (t.slot k).barrier = some .reap ∧
            (t.slot k).sb = (s.slot k).sb.filter (fun e => !e.held) ∧ (t.slot k).msgs = [] ∧ (t.slot k).completions = [] ∧
            (t.slot k).tagwait = none ∧ (t.slot k).traph = false ∧ (t.core (coreOf k)).frameOf k = none)))) ∧
    (s.ready .exit = true →
      (s.me.burning = true ∨ slotNo s.cur = 14 ∨ slotNo s.cur = 15 ∨ (slotNo s.cur = 0 ∧ s.myCore.resetting = false) →
        exec .exit s = .next (s.ill .exit)) ∧
      (s.me.burning = false → slotNo s.cur ≠ 14 → slotNo s.cur ≠ 15 → (slotNo s.cur = 0 → s.myCore.resetting = true) →
        exec .exit s = .next (s.upd (fun p => { p with park := none, barrier := some .exit })))) ∧
    (s.me.barrier = some .exit → s.me.remoteTag = none → s.fenced s.cur .none = true →
      ∃ t : State, s.settle = (t, false) ∧ t.me.barrier = some .ending) ∧
    (s.me.barrier = some .ending → s.me.remoteTag = none → s.remoteDone s.cur = true → s.frozenStream s.cur = false → s.myCore.kilnOf s.cur = [] →
      s.me.sub = none → (∀ c ∈ s.myCore.commands, c.slot = slotNo s.cur → c.orphan = true) →
      ∃ t : State, s.settle = (t, false) ∧ t.me.mode = .free ∧ t.me.x = s.me.x ∧ t.me.v = s.me.v ∧ t.me.m = s.me.m ∧
        ∀ h g, s.groupOf s.cur = some (h, g) → ∃ q ∈ (t.hearth h).pool, q.lseq = g.lseq ∧ q.nexit = g.nexit + 1) ∧
    (∀ d a, s.ready (.migr d a) = true →
      let pkg := (s.me.getX a).toNat / 2 ^ 16 % 2 ^ 13
      let clamp := (s.me.getX a).toNat / 2 ^ 8 % 2 ^ 7
      (s.me.burning = true ∨ s.me.ember = false → exec (.migr d a) s = .next (s.ill (.migr d a))) ∧
      (s.me.burning = false → s.me.ember = true →
        (pkg = s.pkg.number → clamp = clampOf s.cur → exec (.migr d a) s = .next ((s.writeX d 0 2).advance)) ∧
        (pkg = s.pkg.number → clamp ≠ clampOf s.cur → s.clampExists clamp = false ∨ (s.clamp clamp).gated = true →
          exec (.migr d a) s = .next ((s.writeX d 1 2).advance)) ∧
        (pkg ≠ s.pkg.number → Config.remoteClampOff pkg clamp = true →
          exec (.migr d a) s = .next ((s.writeX d 1 2).advance)) ∧
        ((pkg ≠ s.pkg.number ∧ Config.remoteClampOff pkg clamp = false) ∨
            (pkg = s.pkg.number ∧ clamp ≠ clampOf s.cur ∧ s.clampExists clamp = true ∧ (s.clamp clamp).gated = false) →
          (s.me.fills ≠ [] ∨ s.me.sb ≠ [] → exec (.migr d a) s = .next s) ∧
          (s.me.fills = [] → s.me.sb = [] → ∃ t : State, exec (.migr d a) s = .next t ∧ t.me.getX d = 0 ∧ t.me.fullX d = true ∧
            t.me.mode = .leaving ∧ t.me.barrier = some (.depart pkg clamp 0 (s.me.pc + 4)))))) ∧
    (∀ d, s.ready (.dtask d) = true → s.me.ember = false →
      let task := s.me.ctl.lid.toNat % 2 ^ 32 + s.me.taskPos * s.me.extent
      (s.me.extent ≠ 0 → task < s.me.ntask → ∃ t : State, exec (.dtask d) s = .next t ∧ t.me.getX d = BitVec.ofNat 64 task ∧
        t.me.taskPos = s.me.taskPos + 1 ∧ t.me.pc = s.me.pc + 4 ∧ SameRegisters [d] [] s.me t.me ∧ SameControl s.me t.me ∧
        SameMemory s t ∧ SameElsewhere s t) ∧
      (s.me.extent = 0 ∨ s.me.ntask ≤ task →
        exec (.dtask d) s = .next ((s.writeX d (BitVec.allOnes 64) 2).advance))) ∧
    (∀ d a, s.ready (.slotq d a) = true →
      let k := (s.me.getX a).toNat
      (s.me.priv = false → exec (.slotq d a) s = .next (s.privFault (.slotq d a))) ∧
      (s.me.priv = true → 16 ≤ k → exec (.slotq d a) s = .next ((s.writeX d 0 2).advance)) ∧
      (s.me.priv = true → k < 16 → ∃ v : Word, exec (.slotq d a) s = .next ((s.writeX d v 2).advance) ∧
        ∀ j, j < 16 →
          let p := s.slot (16 * (16 * clampOf s.cur + k) + j)
          v.getLsbD j = decide (p.mode ≠ .free) ∧ v.getLsbD (16 + j) = 
            (decide (p.mode ≠ .free) && s.isParked (16 * (16 * clampOf s.cur + k) + j)) ∧
          v.getLsbD (32 + j) = (decide (p.mode ≠ .free) && p.burning)))

/-- R173, R174, R182, R187: LAUNCH is first a release at `.sys`; a launch that passes the checks enters the pool with the next LSEQ, and
is refused with its status or with FULL otherwise. LAUNCH_ACCEPT does the same for a launch from outside. That a launch of a node that is
no group takes an LSEQ and adds nothing of its own is DEDUCED (log 44), so is where a region's groups are found and that it is FULL when
one of them finds no room (log 88); that a replay is refused on a node that is no region is a DESIGN CHOICE (log 93). -/
def Obligations.LaunchAnswers : Prop :=
  (∀ (d a b : Reg) (s : State), s.inFrame = false → s.ready (.launch d a b false) = true →
    let r := s.releaseHome s.cur
    let rcba := s.me.getX a
    let h := hearthOf s.cur
    let path := (r.path rcba).1
    let status := r.launchStatus h path (r.path rcba).2 false (r.mayLaunch s.me.ctl.rcba rcba) true
    (s.me.burning = true → exec (.launch d a b false) s = .next (s.ill (.launch d a b false))) ∧
    (s.me.burning = false → s.me.sb ≠ [] ∨ s.settled s.cur = false → exec (.launch d a b false) s = .next s) ∧
    (s.me.burning = false → s.me.sb = [] → s.settled s.cur = true →
      (path = [] → exec (.launch d a b false) s = .next ((r.writeX d (BitVec.ofNat 64 (2 ^ 63 + 3)) 2).advance)) ∧
      (path ≠ [] → status ≠ 0 → ∃ t : State, exec (.launch d a b false) s = .next t ∧
        t.me.getX d = BitVec.ofNat 64 (2 ^ 63 + status) ∧ t.me.pc = s.me.pc + 4) ∧
      (path ≠ [] → status = 0 → (rcbOf path).kind = 2 → r.poolRoom h (rcbOf path).parent = true →
        r.overflowOf (rcbOf path).parent = [] → ∃ (t : State) (p : Pend), exec (.launch d a b false) s = .next t ∧
          (t.hearth h).pool = (s.hearth h).pool ++ [p] ∧ p.rcba = rcba ∧ p.g = rcbOf path ∧ p.lseq = (s.hearth h).nextLseq ∧
          p.state = 1 ∧ p.threads = [] ∧ t.me.getX d = BitVec.ofNat 64 (s.hearth h).nextLseq ∧
          (t.hearth h).nextLseq = ((s.hearth h).nextLseq + 1) % 2 ^ 48 ∧ t.me.pc = s.me.pc + 4) ∧
      (path ≠ [] → status = 0 → (rcbOf path).kind = 2 → r.poolRoom h (rcbOf path).parent = false ∨
        r.overflowOf (rcbOf path).parent ≠ [] → r.overflowRoom (rcbOf path).parent = false →
        exec (.launch d a b false) s = .next ((r.writeX d 0x8000000000000010 2).advance)) ∧
      (path ≠ [] → status = 0 → (rcbOf path).kind = 0 → ∃ t : State, exec (.launch d a b false) s = .next t ∧
        (t.hearth h).pool = (s.hearth h).pool ∧ t.me.getX d = BitVec.ofNat 64 (s.hearth h).nextLseq ∧
        (t.hearth h).nextLseq = ((s.hearth h).nextLseq + 1) % 2 ^ 48 ∧ t.me.pc = s.me.pc + 4) ∧
      (path ≠ [] → status = 0 → (rcbOf path).kind = 1 → ∃ t : State, exec (.launch d a b false) s = .next t ∧
        (t.me.getX d = BitVec.ofNat 64 (s.hearth h).nextLseq ∨ t.me.getX d = 0x8000000000000010) ∧ t.me.pc = s.me.pc + 4))) ∧
  (∀ (d a b : Reg) (s : State), s.inFrame = false → s.ready (.launch d a b true) = true →
    let r := s.releaseHome s.cur
    let root := s.me.getX a
    let h := hearthOf s.cur
    let bad := r.replayBad root (r.mayLaunch s.me.ctl.rcba root)
    (s.me.burning = true → exec (.launch d a b true) s = .next (s.ill (.launch d a b true))) ∧
    (s.me.burning = false → s.me.sb ≠ [] ∨ s.settled s.cur = false → exec (.launch d a b true) s = .next s) ∧
    (s.me.burning = false → s.me.sb = [] → s.settled s.cur = true →
      ((r.path root).1 = [] → exec (.launch d a b true) s = .next ((r.writeX d (BitVec.ofNat 64 (2 ^ 63 + 3)) 2).advance)) ∧
      ((r.path root).1 ≠ [] → bad = true → ∃ t : State, exec (.launch d a b true) s = .next t ∧
        t.me.getX d = BitVec.ofNat 64 (2 ^ 63 + 3) ∧ t.me.pc = s.me.pc + 4) ∧
      ((r.path root).1 ≠ [] → bad = false → ∃ t : State, exec (.launch d a b true) s = .next t ∧ t.me.pc = s.me.pc + 4 ∧
        (t.me.getX d = 0x8000000000000010 ∨ (t.me.getX d = BitVec.ofNat 64 (s.hearth h).nextLseq ∧
          (t.graph root).next = (s.graph root).next + 1))))) ∧
  (∀ (h rcba : Nat) (s : State),
    let path := (s.path (BitVec.ofNat 64 rcba)).1
    path ≠ [] → s.launchStatus h path (s.path (BitVec.ofNat 64 rcba)).2 false true true = 0 → (rcbOf path).kind = 2 →
    s.poolRoom h (rcbOf path).parent = true → s.overflowOf (rcbOf path).parent = [] →
    ∃ (t : State) (p : Pend), exec (.launchAccept h rcba) s = .next t ∧ (t.hearth h).pool = (s.hearth h).pool ++ [p] ∧
      p.rcba = BitVec.ofNat 64 rcba ∧ p.g = rcbOf path ∧ p.lseq = (s.hearth h).nextLseq ∧ p.state = 1 ∧ p.threads = [])

/-- R18, R174, R176, R177, R179, R181, R356, R357: what the launch unit and the stokers' queue do on their own. An overflow entry moves to
the pool; a ready group ages, and is placed with a spark to each of its stokers; a pre-empted group's thread is saved in its context area,
and the group waits ready again; a completed group leaves its record, CSEQ, STATE, tag and spark and counts its successor down; a checked
group runs again; a line that cannot be written back fails its domain; a held spark enters its queue. That a failed line counts against
the last writer and its domain is DEDUCED (log 60), and so is that PREEMPT goes pass by pass (log 61). -/
def Obligations.LaunchEvents : Prop :=
  ∀ s : State,
    (∀ h e p, s.movable h = some e → e.pend = some p → ∃ t : State, exec (.overflowMove h) s = .next t ∧
      (t.hearth h).pool = (s.hearth h).pool ++ [p] ∧
      (t.hearth h).overflow = (s.hearth h).overflow.filter (fun f => f.lseq != e.lseq)) ∧
    (∀ h p, p ∈ (s.hearth h).pool → p.state = 2 → p.prio < 7 → p.since + 1000000 ≤ s.dtime →
      (∀ q ∈ (s.hearth h).pool, q.lseq = p.lseq → q = p) → (s.hearth h).pool.Nodup →
      ∃ t : State, exec (.priorityAging h) s = .next t ∧
        ({ p with prio := p.prio + 1, since := p.since + 1000000 } : Pend) ∈ (t.hearth h).pool) ∧
    (∀ h p cs, (s.markReady h).choose h 8 [] = some (p, cs) → ∃ t : State, exec (.placement h) s = .next t ∧
      (∃ q ∈ (t.hearth h).pool, q.lseq = p.lseq ∧ q.state = 3 ∧ q.threads.length = p.g.extt) ∧
      ∀ c ∈ cs, (∃ x ∈ (s.markReady h).placeThreads p cs, x.phase = 0 ∧ coreOf x.slot = c) →
        ∃ ts, Spark.place p.rcba p.lseq ts ∈ (t.core c).sparks ++ (t.core c).sparksHeld) ∧
    (∀ h v rcba, s.entryBy h rcba (fun p => p.state == 4) = none → s.victim h = some v → v.rcba = BitVec.ofNat 64 rcba →
      ∃ t : State, exec (.preempt h rcba) s = .next t ∧ ∃ q ∈ (t.hearth h).pool, q.lseq = v.lseq ∧ (q.state = 4 ∨ q.preempted = true ∨ q.left = 0)) ∧
    (∀ h rcba p x a l, s.entryBy h rcba (fun p => p.state == 4) = some p → p.replay = none → p.threads = [x] → x.phase = 1 →
      (∀ q ∈ (s.hearth h).pool, q.lseq = p.lseq → q = p) →
      let q := s.slot x.slot
      q.mode = .leaving → q.barrier = none → s.saveReady x.slot false = true → s.groupOf x.slot = some (h, p) →
      x.lid = q.ctl.lid.toNat % 2 ^ 32 → s.ownsTiles x.slot = false → s.nsg (coreOf x.slot) = 0 →
      Safe s → s.bad = [] → UnitsIdle s h → UnitsIdle s (hearthOf x.slot) →
      LiesHere s (q.ca + 0x10000) a 0x10000 → LiesHere s p.rcba l 256 → Apart a 0x10000 l 256 →
      (∀ b ∈ p.chain, ∃ k, LiesHere s b.rcba k 256 ∧ Apart a 0x10000 k 256) →
      ∃ t : State, exec (.preempt h rcba) s = .next t ∧ (t.slot x.slot).mode = .free ∧ t.homeNat a 1 = 1 ∧
        t.homeNat (a + 0x20) 8 = q.pc.toNat ∧ (∀ r : Reg, t.homeNat (a + 0x60 + 8 * r.toNat) 8 = (q.getX r).toNat) ∧
        t.homeNat (l + 0xF) 1 = 2 ∧
        ∃ g ∈ (t.hearth h).pool, g.lseq = p.lseq ∧ g.state = 2 ∧ g.preempted = true ∧ g.since = s.dtime ∧ g.prio = p.prio) ∧
    (∀ h rcba p, s.entryBy h rcba s.mayComplete = some p → ∃ t : State, exec (.groupComplete h rcba) s = .next t ∧
      ∀ q ∈ (t.hearth h).pool, q.lseq ≠ p.lseq) ∧
    (∀ h rcba p l, s.entryBy h rcba s.mayComplete = some p → p.replay = none → p.window = none → Safe s → s.bad = [] → UnitsIdle s h →
      LiesHere s p.rcba l 256 → p.g.succx = 0 →
      let cseq := s.homeNat (l + 0x80) 8
      ((∀ w ∈ p.g.succ, w = 0) → p.g.caddr ≠ 0 → p.g.ctag = 0 → p.g.cspkd.getLsbD 63 = false →
        ∀ a, LiesHere s (p.g.caddr + BitVec.ofNat 64 (64 + 64 * (cseq % p.g.crn))) a 64 → Apart a 64 l 256 →
        ∃ t : State, exec (.groupComplete h rcba) s = .next t ∧ t.homeNat a 8 = cseq ∧ t.homeNat (a + 0x08) 8 = p.rcba.toNat ∧
          t.homeNat (a + 0x10) 8 = p.lseq % 2 ^ 64 ∧ t.homeNat (a + 0x18) 8 = p.tplace.getD 0 % 2 ^ 64 ∧
          t.homeNat (a + 0x20) 8 = s.dtime % 2 ^ 64 ∧ t.homeNat (a + 0x28) 1 = p.status % 2 ^ 8 ∧
          t.homeNat (a + 0x29) 1 = (if p.preempted then 1 else 0) + (if p.under then 4 else 0) ∧ t.homeNat (a + 0x2A) 2 = 0 ∧
          t.homeNat (a + 0x2C) 4 = 0 ∧ t.homeNat (a + 0x30) 4 = p.nexit % 2 ^ 32 ∧ t.homeNat (a + 0x34) 4 = p.nreap % 2 ^ 32 ∧
          t.homeNat (a + 0x38) 8 = p.usedt % 2 ^ 64 ∧ t.homeNat (l + 0x80) 8 = (cseq + 1) % 2 ^ 64 ∧ t.homeNat (l + 0xF) 1 = 4) ∧
      ((∀ w ∈ p.g.succ, w = 0) → p.g.caddr = 0 → p.g.ctag ≠ 0 → ∀ a, LiesHere s p.g.ctag a 8 → Apart a 8 l 256 →
        ∃ t : State, exec (.groupComplete h rcba) s = .next t ∧ t.homeTag a = true ∧ t.homeNat a 8 = cseq ∧
          t.homeNat (l + 0x80) 8 = (cseq + 1) % 2 ^ 64 ∧ t.homeNat (l + 0xF) 1 = 4) ∧
      ((∀ w ∈ p.g.succ, w = 0) → p.g.cspkd.getLsbD 63 = true → p.g.cspkd.toNat / 2 ^ 16 % 2 ^ 13 = s.pkg.number → p.g.caddr = 0 →
        p.g.ctag = 0 → ∃ t : State, exec (.groupComplete h rcba) s = .next t ∧ t.flights = s.flights ++
          [⟨unitSlot h, p.g.cspkd.toNat % 2 ^ 15, false, true, ⟨2 ^ 32 - 1, cseq % 2 ^ 32, [p.g.cspkh, p.rcba]⟩, none⟩]) ∧
      (∀ w k, p.g.succ.filter (fun x => x != 0) = [w] → p.g.caddr = 0 → p.g.ctag = 0 → p.g.cspkd.getLsbD 63 = false → LiesHere s w k 256 →
        Apart k 256 l 256 →
        (0 < s.homeNat (k + 0x4C) 4 → ∃ t : State, exec (.groupComplete h rcba) s = .next t ∧
          t.homeNat (k + 0x4C) 4 + 1 = s.homeNat (k + 0x4C) 4) ∧
        (s.homeNat (k + 0x4C) 4 = 0 → ∃ t : State, exec (.groupComplete h rcba) s = .next t ∧ t.homeNat (k + 0x4C) 4 = 0 ∧
          (w ∈ t.pkg.under ∨ ∃ g q, q ∈ (t.hearth g).pool ++ (t.hearth g).overflow.filterMap (·.pend) ∧ q.rcba = w ∧ q.under = true)))) ∧
    (∀ h rcba p, s.entryBy h rcba Pend.rerunDue = some p → ∃ t : State, exec (.checkedRerun h rcba) s = .next t ∧
      ∃ q ∈ (t.hearth h).pool, q.lseq = p.lseq ∧ q.run = 2 ∧ q.state = 2 ∧ q.threads = [] ∧ q.firstDigest = p.digest) ∧
    (∀ h line w, s.lastWriter h line = some (w, none) →
      ∃ t : State, exec (.l2WritebackFail h line) s = .next t ∧
        (∀ x, (s.hearth h).onLine line x = true → Table.find (t.hearth h).dirty x = none) ∧ (∀ x, t.homeByte x = s.homeByte x) ∧
        ∀ i ∈ s.lineWriters h line, (t.slot i).fstat.getLsbD 4 = true) ∧
    (∀ h line w dom, s.lastWriter h line = some (w, some dom) →
      ((∃ i ∈ s.slotsOf dom, (s.slot i).unreapable = true) → exec (.l2WritebackFail h line) s = .next s) ∧
      ((∀ i ∈ s.slotsOf dom, (s.slot i).unreapable = false) →
        ∃ t : State, exec (.l2WritebackFail h line) s = .next t ∧
          (∀ x, (s.hearth h).onLine line x = true → Table.find (t.hearth h).dirty x = none) ∧
          (∀ i ∈ s.slotsOf dom, (t.slot i).barrier = some .reap) ∧
          (∀ i, s.recordSlot w dom = some i → (t.slot i).reserved = none) ∧
          ∀ k g, g ∈ (s.hearth k).pool → s.inDomain k g dom = true →
            ∃ q ∈ (t.hearth k).pool, q.lseq = g.lseq ∧ q.state = 3 ∧ q.fail = some 0x21)) ∧
    (∀ core k rest, (s.core core).sparksHeld = k :: rest → (s.core core).sparks.length < 32 →
      ∃ t : State, exec (.sparkDelivery core) s = .next t ∧ (t.core core).sparks = (s.core core).sparks ++ [k] ∧
        (t.core core).sparksHeld = rest)

/-! ## The kiln and contexts (12_two_contexts, 15_kiln) -/

/-- R196, R239, R241, R242, R248 to R251, R256: a kiln instruction waits for its position, takes ACCFIRST, KILNFMT, SEGRIGHTS, ALIGN and SEGLIM
in this order, and otherwise leaves a request that captures its operands; KFMT and KSCALE complete at issue, KSYNC makes the next
instruction wait until the slot's requests have retired, in an earlier cycle. That the wait for the position comes before ACCFIRST and
what EINFO holds for SEGRIGHTS, ALIGN and SEGLIM is the model's reading (log 39). -/
def Obligations.KilnIssues : Prop :=
  ∀ s : State, s.inFrame = false →
    (∀ i k, kilnRow s i = some k → s.ready i = true →
      (KilnBusy s k.t → exec i s = .next s) ∧
      (¬ KilnBusy s k.t → TilesForeign s → exec i s = .next (s.raise Cause.accfirst 0 (BitVec.ofNat 64 (k.t.toNat * 2 ^ 32)))) ∧
      (¬ KilnBusy s k.t → ¬ TilesForeign s →
        (k.formatOk = false → exec i s = .next (s.raise Cause.kilnfmt 0 (BitVec.ofNat 64 (wordOf i % 2 ^ 32 * 2 ^ 32)))) ∧
        (k.formatOk = true → k.right = true → (s.me.seg 7).rights.getLsbD 6 = false →
          exec i s = .next (s.raise Cause.segrights 0 kilnInfo)) ∧
        (k.formatOk = true → (k.right = true → (s.me.seg 7).rights.getLsbD 6 = true) →
          (∀ c a, k.fault = some (c, a) → exec i s = .next (s.raise c a kilnInfo)) ∧
          (k.fault = none → ∃ (t : State) (q : KReq), exec i s = .next t ∧ HoldsRow s k q ∧
            (s.me.burning = true → t.myCore.kTimed = some q ∧ t.myCore.kUntimed = s.myCore.kUntimed) ∧
            (s.me.burning = false → t.myCore.kUntimed = some q ∧ t.myCore.kTimed = s.myCore.kTimed) ∧
            t.me.pc = s.me.pc + 4 ∧ SameRegisters [] [] s.me t.me ∧ SameControl s.me t.me ∧ SameMemory s t ∧
            t.myCore.tiles = s.myCore.tiles)))) ∧
    (∀ c nan strict fb fa, s.ready (.kfmt c nan strict fb fa) = true → ∃ t : State, exec (.kfmt c nan strict fb fa) s = .next t ∧
      t.myCore.kfmt = s.myCore.kfmt.set c.toNat (BitVec.ofNat 64 (kformatCode fa + 8 * kformatCode fb + (if strict then 64 else 0) +
        (if nan then 128 else 0))) ∧ t.me.pc = s.me.pc + 4 ∧ SameRegisters [] [] s.me t.me ∧ SameControl s.me t.me ∧ SameMemory s t) ∧
    (∀ a b, s.ready (.kscaleA a b) = true → ∃ t : State, exec (.kscaleA a b) s = .next t ∧ t.me.ctl = { s.me.ctl with
      kscba := (s.me.ctl.kscba &&& ~~~ 0xF7FFFF) ||| (s.me.getX a &&& 0xF7FFFF)
      kscsa := (s.me.ctl.kscsa &&& ~~~ 0x3F) ||| (s.me.getX b &&& 0x3F) } ∧ t.me.pc = s.me.pc + 4 ∧
      SameRegisters [] [] s.me t.me ∧ SameMemory s t) ∧
    (∀ a b, s.ready (.kscaleB a b) = true → ∃ t : State, exec (.kscaleB a b) s = .next t ∧ t.me.ctl = { s.me.ctl with
      kscbb := (s.me.ctl.kscbb &&& ~~~ 0xF7FFFF) ||| (s.me.getX a &&& 0xF7FFFF)
      kscsb := (s.me.ctl.kscsb &&& ~~~ 0x3F) ||| (s.me.getX b &&& 0x3F) } ∧ t.me.pc = s.me.pc + 4 ∧
      SameRegisters [] [] s.me t.me ∧ SameMemory s t) ∧
    (s.ready .ksync = true → ∃ t : State, exec .ksync s = .next t ∧ t.me.barrier = some .ksync ∧ t.me.pc = s.me.pc + 4) ∧
    (s.me.barrier = some .ksync → s.me.remoteTag = none → ((∃ q ∈ s.myCore.kilnOf s.cur, q.cmd = none) ∨ s.cycle < s.me.kDone) →
      s.settle = (s, false)) ∧
    (s.me.barrier = some .ksync → s.me.remoteTag = none → s.me.mode = .running → s.me.trapWait = none → s.myCore.kilnOf s.cur = [] →
      s.me.kDone ≤ s.cycle →
      ∃ t : State, s.settle = (t, true) ∧ t.me.barrier = none ∧ t.me.pc = s.me.pc)

/-- R239, R240, R251: a grant goes to the first core in turn with a request, the timed one first, for 16 cycles; the position frees with
the last grant; a request retires once its last grant has ended, with its tile elements, its scratchpad bytes and its sticky bits, or
with a deferred ECCUNC and no change to tile and scratchpad, for an uncorrectable byte of an operand or of the tile it reads. EINFO of
that ECCUNC is the model's reading (log 39). -/
def Obligations.KilnGrantsAndRetires : Prop :=
  ∀ s : State,
    (∀ clamp d q, d < 16 → (s.clamp clamp).kBusy ≤ s.cycleOf (16 * clamp) →
      let core (j : Nat) : Nat := 16 * clamp + ((s.clamp clamp).lastCore + 1 + j) % 16
      (∀ j, j < d → (s.core (core j)).kTimed = none ∧ (s.core (core j)).kUntimed = none) →
      (s.core (core d)).kTimed = some q ∨ ((s.core (core d)).kTimed = none ∧ (s.core (core d)).kUntimed = some q) →
      q.timed = (s.core (core d)).kTimed.isSome →
      (q.grants + 1 < q.needs → ∃ (t : State) (r : KReq), exec (.kilnGrant clamp) s = .next t ∧
        (t.clamp clamp).kBusy = s.cycleOf (16 * clamp) + 16 ∧ (t.core (core d)).kRun = (s.core (core d)).kRun ∧
        r.grants = q.grants + 1 ∧ r.t = q.t ∧ r.kind = q.kind ∧ r.slot = q.slot ∧
        (q.timed = true → (t.core (core d)).kTimed = some r) ∧ (q.timed = false → (t.core (core d)).kUntimed = some r)) ∧
      (q.grants + 1 = q.needs → ∃ (t : State) (r : KReq), exec (.kilnGrant clamp) s = .next t ∧ (t.clamp clamp).lastCore = core d % 16 ∧
        (t.clamp clamp).kBusy = s.cycleOf (16 * clamp) + 16 ∧ (t.core (core d)).kRun = (s.core (core d)).kRun ++ [r] ∧
        r.ends = s.cycleOf (16 * clamp) + 16 ∧ r.t = q.t ∧ r.kind = q.kind ∧ r.slot = q.slot ∧
        (q.timed = true → (t.core (core d)).kTimed = none) ∧ (q.timed = false → (t.core (core d)).kUntimed = none))) ∧
    (∀ clamp, s.cycleOf (16 * clamp) < (s.clamp clamp).kBusy → exec (.kilnGrant clamp) s = .next s) ∧
    (∀ core q rest, (s.core core).kRun = q :: rest → q.ends ≤ s.cycleOf core → s.ownsKiln core q = true →
      (∀ a, q.bad = some a ∨ (q.bad = none ∧ s.tileBad core q = some a) → ∃ t : State, exec (.kilnRetire core) s = .next t ∧ (t.core core).kRun = rest ∧
        (t.core core).tiles = (s.core core).tiles ∧ SameMemory s t ∧
        (t.slot q.slot).deferred = (s.slot q.slot).deferred ++ [⟨Cause.eccunc, a, deferInfo q.pc kilnInfo⟩]) ∧
      (q.bad = none → s.tileBad core q = none →
        (q.kind = .zero → ∃ t : State, exec (.kilnRetire core) s = .next t ∧ (t.core core).kRun = rest ∧
          (∀ k, k < 1024 → ((t.core core).tile q.t.toNat)[k]? = some 0) ∧
          ∀ n, n ≠ q.t.toNat → (t.core core).tile n = (s.core core).tile n) ∧
        (q.kind = .mma ∨ q.kind = .mmas ∨ q.kind = .mmv → ∃ t : State, exec (.kilnRetire core) s = .next t ∧
          (t.core core).kRun = rest ∧ (t.core core).tile q.t.toNat = (q.product ((s.core core).tile q.t.toNat)).1 ∧
          (∀ n, n ≠ q.t.toNat → (t.core core).tile n = (s.core core).tile n) ∧ SameMemory s t ∧
          (t.slot q.slot).fltstAt (s.cycleOf core) = (s.slot q.slot).fltstAt (s.cycleOf core) |||
            (q.product ((s.core core).tile q.t.toNat)).2.flt.setWidth 64) ∧
        (q.kind = .lda → q.a.length = 32 → (∀ r ∈ q.a, r.data.length = 128) → ((s.core core).tile q.t.toNat).length = 1024 →
          ∃ t : State, exec (.kilnRetire core) s = .next t ∧ (t.core core).kRun = rest ∧
          ∀ i j r, i < 32 → j < 32 → q.a[i]? = some r →
            let x := leNat ((r.data.drop (4 * j)).take 4)
            ((t.core core).tile q.t.toNat)[32 * i + j]? = some (BitVec.ofNat 32 (if q.acc
              then (fmtF32.add ((((s.core core).tile q.t.toNat)[32 * i + j]?).getD 0).toNat x).1 else x))) ∧
        (q.kind = .sta → Safe s → 128 ≤ descRp q.oa → descBase q.ea + 31 * descRp q.oa + 128 ≤ 2 ^ 19 →
          ((s.core core).tile q.t.toNat).length = 1024 →
          ∃ t : State, exec (.kilnRetire core) s = .next t ∧ (t.core core).kRun = rest ∧ (t.core core).tiles = (s.core core).tiles ∧
          ∀ i j, i < 32 → j < 32 → t.homeNat (poolAddr (core / 16 * 16 + descCore q.ea) (descBase q.ea + i * descRp q.oa + 4 * j)) 4 =
            ((((s.core core).tile q.t.toNat)[32 * i + j]?).getD 0).toNat) ∧
        (∀ k, q.kind = .cvt → cvtFormat q.fmt = some k → Safe s → cvtRow k ≤ descRp q.oa →
          descBase q.ea + 31 * descRp q.oa + cvtRow k ≤ 2 ^ 19 → ((s.core core).tile q.t.toNat).length = 1024 →
          ∃ t : State, exec (.kilnRetire core) s = .next t ∧ (t.core core).kRun = rest ∧ (t.core core).tiles = (s.core core).tiles ∧
          ∀ i j, i < 32 → j < 32 →
            let w := tyBits (kTy k)
            t.homeNat (poolAddr (core / 16 * 16 + descCore q.ea) (descBase q.ea + i * descRp q.oa)) (cvtRow k) / 2 ^ (w * j) % 2 ^ w =
              (convert .f32 (kTy k) .rne (bitW q.fmt 7) 0
                ((((s.core core).tile q.t.toNat)[32 * i + j]?).getD 0).toNat).1 % 2 ^ w)))

/-- R166, R194 to R198, R252 to R254: CTXSV takes its slot out of the rotation and the record stands in the context area once it is
saved; CTXLD refuses by its rules and otherwise restores the slot from the record; ACCSPILL and ACCFILL change the owner, and wait for
the kiln and for an earlier spill. That CTXSV takes its target out of the rotation at its issue and saves it in a later step is the
model's reading (log 55). -/
def Obligations.ContextsMove : Prop :=
  ∀ s : State, s.inFrame = false →
    (∀ keep sl, s.ready (.ctxsv keep sl) = true →
      let k := 16 * coreOf s.cur + sl.toNat
      (s.me.burning = true → exec (.ctxsv keep sl) s = .next (s.ill (.ctxsv keep sl))) ∧
      (s.me.burning = false → slotNo s.cur ≠ 0 → exec (.ctxsv keep sl) s = .next (s.privFault (.ctxsv keep sl))) ∧
      (s.me.burning = false → slotNo s.cur = 0 → s.cur ≠ k →
        ((s.slot k).mode = .free → exec (.ctxsv keep sl) s = .next s.advance) ∧
        ((s.slot k).mode = .stopped ∨ (s.slot k).mode = .halted → exec (.ctxsv keep sl) s = .next (s.ill (.ctxsv keep sl))) ∧
        ((s.slot k).mode = .leaving → exec (.ctxsv keep sl) s = .next s) ∧
        ((s.slot k).mode = .running → (s.slot k).burning = true ∨ (s.slot k).traph = true → exec (.ctxsv keep sl) s = .next s) ∧
        ((s.slot k).mode = .running → (s.slot k).burning = false → (s.slot k).traph = false → (s.slot k).deferred = [] →
          ∃ t : State, exec (.ctxsv keep sl) s = .next t ∧ (t.slot k).mode = .leaving ∧ t.me.barrier = some (.ctxsv k keep) ∧
            t.me.pc = s.me.pc + 4))) ∧
    (∀ k, s.me.barrier = some (.ctxsv k true) → s.me.remoteTag = none → s.cur ≠ k → (s.slot k).mode = .leaving →
      s.saveReady k true = true → Safe s →
      let a := globalLocal ((s.slot k).ca + 0x10000)
      (s.groupOf k = none ∧ (s.slot k).ctl.rcba = 0 ∨ ∃ h g, s.groupOf k = some (h, g) ∧ UnitsIdle s (hearthOf k) ∧
        ∀ b ∈ g.chain, ∃ l, LiesHere s b.rcba l 256 ∧ Apart a 0x10000 l 256) →
      globalPkg ((s.slot k).ca + 0x10000) = s.pkg.number → s.populated a = true →
      ∃ (t : State) (b : Bool), s.settle = (t, b) ∧ (t.slot k).mode = .free ∧ (t.slot k).x = (s.slot k).x ∧ t.me.barrier = none ∧
        t.homeNat a 1 = 1 ∧ t.homeNat (a + 0x20) 8 = (s.slot k).pc.toNat ∧
        ∀ r : Reg, t.homeNat (a + 0x60 + 8 * r.toNat) 8 = ((s.slot k).getX r).toNat) ∧
    (∀ a sl, s.ready (.ctxld a sl) = true →
      let k := 16 * coreOf s.cur + sl.toNat
      let ca := s.me.getX a
      (s.me.burning = true → exec (.ctxld a sl) s = .next (s.ill (.ctxld a sl))) ∧
      (s.me.burning = false → slotNo s.cur ≠ 0 → exec (.ctxld a sl) s = .next (s.privFault (.ctxld a sl))) ∧
      (s.me.burning = false → slotNo s.cur = 0 → ca.toNat % 131072 ≠ 0 →
        exec (.ctxld a sl) s = .next (s.raise Cause.align ca (BitVec.ofNat 64 (3 * 2 ^ 21 + 2 ^ 24)))) ∧
      (s.me.burning = false → slotNo s.cur = 0 → ca.toNat % 131072 = 0 →
        ((s.slot k).mode ≠ .free → exec (.ctxld a sl) s = .next (s.ill (.ctxld a sl))) ∧
        (∀ s1 ws, (s.slot k).mode = .free → s.cur ≠ k → s.readWords s.cur (ca + 0x10000) recordWords = (s1, .ok ws) →
          (s1.recordRefused (coreOf s.cur) ws = true →
            exec (.ctxld a sl) s = .next ((s1.upd Slot.forgetReads).ill (.ctxld a sl))) ∧
          (∀ s2 image, s1.recordRefused (coreOf s.cur) ws = false →
            (bitOf (fieldOf ws 1 1) 2 = true → bitOf (fieldOf ws 1 1) 0 = true) →
            s1.readImage s1.cur (match s1.saved k (recWord ws 0x210) (fieldOf ws 0x208 4) with
              | some (_, g) => g.g
              | none => rcbOf (s1.path (recWord ws 0x210)).1).kaddr = (s2, .ok image) →
            ∃ t : State, exec (.ctxld a sl) s = .next t ∧ (t.slot k).mode = .running ∧
              (t.slot k).pc = BitVec.ofNat 64 (ws.getD (0x20 / 8) 0) ∧ (t.slot k).ca = ca ∧
              (∀ r : Reg, (t.slot k).getX r = BitVec.ofNat 64 (ws.getD (0x60 / 8 + r.toNat) 0)) ∧
              (t.slot k).ctl.status = BitVec.ofNat 64 (ws.getD (0x200 / 8) 0) ∧
              (t.slot k).ctl.lid = BitVec.ofNat 64 (ws.getD (0x208 / 8) 0) ∧
              (t.slot k).ctl.fltst = BitVec.ofNat 64 (ws.getD (0x2D8 / 8) 0) ∧
              (∀ m : MReg, (t.slot k).getM m = BitVec.ofNat 64 (ws.getD (0x2E0 / 8 + m.toNat) 0)) ∧
              (t.core (coreOf s.cur)).kfmt = (List.range 4).map (fun j => BitVec.ofNat 64 (ws.getD (0x320 / 8 + j) 0)))))) ∧
    (s.ready .accspill = true →
      (s.me.burning = true → exec .accspill s = .next (s.ill .accspill)) ∧
      (s.me.burning = false → s.me.priv = false → exec .accspill s = .next (s.privFault .accspill)) ∧
      (s.me.burning = false → s.me.priv = true →
        (s.myCore.accown.getLsbD 0 = false → exec .accspill s = .next s.advance) ∧
        (s.myCore.accown.getLsbD 0 = true → s.myCore.kilnIdle = false ∨ s.spillPending (coreOf s.cur) = true →
          exec .accspill s = .next s) ∧
        (s.myCore.accown.getLsbD 0 = true → s.myCore.kilnIdle = true → s.spillPending (coreOf s.cur) = false → ∃ t : State, exec .accspill s = .next t ∧
          t.myCore.accown.getLsbD 0 = false ∧ t.myCore.tiles = s.myCore.tiles ∧ t.me.pc = s.me.pc + 4 ∧
          (t.sending t.cur = true → t.me.barrier = some .sentAll)))) ∧
    (s.ready .accfill = true →
      (s.me.burning = true → exec .accfill s = .next (s.ill .accfill)) ∧
      (s.me.burning = false → s.me.priv = false → exec .accfill s = .next (s.privFault .accfill)) ∧
      (s.me.burning = false → s.me.priv = true → s.myCore.kilnIdle = false → exec .accfill s = .next s) ∧
      (s.me.burning = false → s.me.priv = true → s.myCore.kilnIdle = true → s.spillPending (coreOf s.cur) = true →
        exec .accfill s = .next (s.closeAll s.cur)) ∧
      (∀ s1, s.me.burning = false → s.me.priv = true → s.myCore.kilnIdle = true → s.spillPending (coreOf s.cur) = false →
        (s.spill s.cur (coreOf s.cur)).spillPending (coreOf s.cur) = false →
        (s.spill s.cur (coreOf s.cur)).fillTiles s.cur s.me.ca (List.range (getField s.myCore.part 2 5)) = (s1, .ok ()) →
        ∃ t : State, exec .accfill s = .next t ∧ t.myCore.accown = BitVec.ofNat 64 (s.me.ca.toNat / 2 ^ 17 * 2 ^ 17 + 1) ∧
          t.myCore.accsave = s.me.ca ∧ t.myCore.tiles = s1.myCore.tiles ∧ t.me.pc = s1.me.pc + 4))

/-! ## Copies (19_collier) -/

/-- R295, R296, R302, R305, R306: CPYW writes its two mailbox words while the tag is empty, CPYQ counts, CPYX waits where it stands and then
writes and clears its counts, and a CPY form captures the mailbox, its flags, the segments and the scale registers. -/
def Obligations.CopyInstructions : Prop :=
  ∀ s : State, s.inFrame = false →
    (∀ a b k, s.ready (.cpyw a b k) = true →
      (s.me.ember = true → exec (.cpyw a b k) s = .next (s.ill (.cpyw a b k))) ∧
      (s.me.ember = false → s.me.sub ≠ none → exec (.cpyw a b k) s = .next s) ∧
      (s.me.ember = false → s.me.sub = none → s.me.mb.length = 8 → ∃ t : State, exec (.cpyw a b k) s = .next t ∧
        t.me.mb[2 * k.toNat]? = some (s.me.getX a) ∧ t.me.mb[2 * k.toNat + 1]? = some (s.me.getX b) ∧
        (∀ n, n ≠ 2 * k.toNat → n ≠ 2 * k.toNat + 1 → t.me.mb[n]? = s.me.mb[n]?) ∧ t.me.pc = s.me.pc + 4 ∧
        SameRegisters [] [] s.me t.me ∧ SameControl s.me t.me ∧ SameMemory s t)) ∧
    (∀ d, s.ready (.cpyq d) = true →
      (s.me.ember = true → exec (.cpyq d) s = .next (s.ill (.cpyq d))) ∧
      (s.me.ember = false → exec (.cpyq d) s = .next ((s.writeX d (BitVec.ofNat 64
        ((s.myCore.commands.filter (fun k => k.slot == slotNo s.cur && !k.orphan)).length % 256 +
          (if s.me.sub.isSome then 256 else 0))) 2).advance))) ∧
    (∀ d, s.ready (.cpyx d) = true →
      (s.me.ember = true ∨ s.me.burning = true → exec (.cpyx d) s = .next (s.ill (.cpyx d))) ∧
      (s.me.ember = false → s.me.burning = false → ∃ t : State, exec (.cpyx d) s = .next t ∧ t.me.barrier = some (.cpyx d) ∧
        t.me.pc = s.me.pc)) ∧
    (∀ d, s.me.barrier = some (.cpyx d) → s.me.remoteTag = none →
      (s.me.sub ≠ none ∨ s.commandsOf s.cur ≠ [] → s.settle = (s, false)) ∧
      (s.me.sub = none → s.commandsOf s.cur = [] → ∃ t : State, s.settle = (t, false) ∧
        t.me.getX d = BitVec.ofNat 64 (s.me.cpyBad + s.me.cpyLast * 2 ^ 16) ∧ t.me.cpyBad = 0 ∧ t.me.cpyLast = 0 ∧
        t.me.barrier = none ∧ t.me.pc = s.me.pc + 4 ∧ SameRegisters [d] [] s.me t.me)) ∧
    (∀ i k, copyRow i = some k → s.ready i = true →
      let w := s.me.mb.getD 0 0
      (s.me.ember = true ∨ s.me.burning = true → exec i s = .next (s.ill i)) ∧
      (s.me.ember = false → s.me.burning = false →
        (s.me.sub ≠ none → exec i s = .next s) ∧
        (s.me.sub = none → BlockWrong k.form w → exec i s = .next (s.ill i)) ∧
        (s.me.sub = none → ¬ BlockWrong k.form w →
          (w.toNat % 4 = 2 → (s.me.mb.getD 5 0).toNat % 4 ≠ 0 →
            exec i s = .next (s.raise Cause.align (s.me.mb.getD 5 0) targetInfo)) ∧
          (w.toNat % 4 = 0 ∨ (w.toNat % 4 = 2 ∧ (s.me.mb.getD 5 0).toNat % 4 = 0) →
            ∃ t : State, exec i s = .next t ∧ Submits s t k) ∧
          (∀ s' c, w.toNat % 4 = 1 → s.resolve s.cur (completionAccess s.me) = (s', .fault c) →
            exec i s = .next (s'.raise c (s.me.mb.getD 4 0) (completionAccess s.me).einfo)) ∧
          (∀ s' p, w.toNat % 4 = 1 → s.resolve s.cur (completionAccess s.me) = (s', .ok [p]) →
            ∃ t : State, exec i s = .next t ∧ Submits s' t k))))

/-- R297 to R299, R301 to R304, R307, R354: acceptance goes round-robin and checks the command, a plain copy moves its bytes, a command with
a status leaves the queue once its writes to other packages are resolved, a page fault is retried or declined, a CPYK asks the kiln once,
and a read of flash ends its command. That a step moves at most 64 bytes (log 58), that a declined completion word ends the command
without the word, and that a command runs under the page table its issuer had (log 90), are the model's readings. -/
def Obligations.CopyEvents : Prop :=
  ∀ s : State,
    (∀ core d b, d < 15 → (s.core core).commands.length < 32 →
      let slot (j : Nat) : Slot := s.slot (16 * core + ((s.core core).acceptNext + j) % 15)
      (∀ j, j < d → (slot j).sub = none ∨ (slot j).mode = .free) → (slot d).sub = some b → (slot d).mode ≠ .free →
      ∃ (t : State) (c : Command), exec (.commandAccept core) s = .next t ∧
        (t.core core).commands = (s.core core).commands ++ [c] ∧ c.slot = ((s.core core).acceptNext + d) % 15 ∧ c.sub = b ∧ c.moved = 0 ∧
        c.parked = none ∧ c.lseq = (slot d).lseq ∧ c.rcba = (slot d).ctl.rcba ∧
        (t.slot (16 * core + ((s.core core).acceptNext + d) % 15)).sub = none ∧
        (t.core core).acceptNext = (((s.core core).acceptNext + d) % 15 + 1) % 15 ∧
        (b.form = 0 → b.tags = false → segGlobal (b.seg b.ssg) = false → segGlobal (b.seg b.dsg) = false →
          let n := (b.word 3).toNat
          OffWindow (b.seg b.ssg) b.soff.toNat n → OffWindow (b.seg b.dsg) b.doff.toNat n →
          (n = 0 ∨ 2 ^ 32 ≤ n → c.status = some CStatus.badcmd) ∧
          (0 < n → n < 2 ^ 32 →
            (¬ Inside (b.seg b.ssg) b.soff.toNat n → c.status = some CStatus.seglim) ∧
            (Inside (b.seg b.ssg) b.soff.toNat n → (b.seg b.ssg).rights.getLsbD 0 = false → c.status = some CStatus.segrights) ∧
            (Inside (b.seg b.ssg) b.soff.toNat n → (b.seg b.ssg).rights.getLsbD 0 = true →
              (¬ Inside (b.seg b.dsg) b.doff.toNat n → c.status = some CStatus.seglim) ∧
              (Inside (b.seg b.dsg) b.doff.toNat n → (b.seg b.dsg).rights.getLsbD 1 = false → c.status = some CStatus.segrights) ∧
              (Inside (b.seg b.dsg) b.doff.toNat n → (b.seg b.dsg).rights.getLsbD 1 = true →
                (b.ssg = b.dsg → b.soff.toNat < b.doff.toNat + n → b.doff.toNat < b.soff.toNat + n → c.status = some CStatus.overlap) ∧
                (b.ssg ≠ b.dsg ∨ b.doff.toNat + n ≤ b.soff.toNat ∨ b.soff.toNat + n ≤ b.doff.toNat → c.status = none)))))) ∧
    (∀ core k c x p, s.mayRun core k = some c → c.pos = some p → c.status = some x → s.streamDone core p = false →
      ∃ t : State, exec (.copyComplete core k) s = .next t ∧ (t.core core).commands = (s.core core).commands) ∧
    (∀ core k c x p, s.mayRun core k = some c → c.pos = some p → c.status = some x → s.streamDone core p = true → c.filled = false →
      c.sub.cmode = 0 → c.sub.rel = false →
      ∃ t : State, exec (.copyComplete core k) s = .next t ∧ (t.core core).commands = (s.core core).commands.eraseIdx k ∧ SameMemory s t ∧
        (s.issuerHolds core c = true → x ≠ 0 → (t.slot (16 * core + c.slot)).cpyLast = x ∧
          (t.slot (16 * core + c.slot)).cpyBad = min ((s.slot (16 * core + c.slot)).cpyBad + 1) 0xFFFF)) ∧
    (∀ core k c x p, s.mayRun core k = some c → c.pos = some p → c.status = some x → s.streamDone core p = true → c.filled = false →
      c.sub.cmode = 2 → c.noWord = false → c.sub.rel = false → s.issuerHolds core c = true →
      (s.slot (16 * core + c.slot)).completions.length < 8 →
      ∃ t : State, exec (.copyComplete core k) s = .next t ∧ (t.core core).commands = (s.core core).commands.eraseIdx k ∧
        (t.slot (16 * core + c.slot)).completions = (s.slot (16 * core + c.slot)).completions ++
          [(BitVec.ofNat 64 (c.sub.seq + x % 2 ^ 16 * 2 ^ 32 + min c.refusedChunks 0xFFFF * 2 ^ 48), c.sub.word 5)]) ∧
    (∀ core k c s1 s2 a b va vb ha hb, s.mayRun core k = some c → c.pos ≠ none → c.status = none → c.lost = false → c.sub.form = 0 →
      c.sub.tags = false → c.moved = 0 → c.sub.cmode = 0 → c.sub.rel = false →
      let n := (c.sub.word 3).toNat
      let slot := 16 * core + c.slot
      0 < n → n ≤ 64 - ((c.sub.seg c.sub.dsg).base.toNat + c.sub.doff.toNat) % 64 →
      s.resolveAs slot c.sub.root (!c.sub.priv) (c.sub.seg c.sub.ssg) ⟨c.sub.ssg, c.sub.soff, n, 1, 0x01, 0, false, false⟩ = (s1, .ok [⟨.here a, n, va, ha⟩]) →
      s1.resolveAs slot c.sub.root (!c.sub.priv) (c.sub.seg c.sub.dsg) ⟨c.sub.dsg, c.sub.doff, n, 1, 0x02, 1, false, false⟩ = (s2, .ok [⟨.here b, n, vb, hb⟩]) →
      s2.bad = [] → (s2.hearth (core / 256)).bad = [] → s2.flue.streams = [] → s2.flue.releases = [] → (s2.slot (16 * core + 15)).sb = [] → isPool b = false →
      4096 * ((s2.hearth (core / 256)).dirty.length + (s2.hearth (core / 256)).dtags.length) < l2Bytes →
      ∃ t : State, exec (.copyComplete core k) s = .next t ∧ (t.core core).commands = (s2.core core).commands.eraseIdx k ∧
        (∀ i, i < n → t.hearthByte (core / 256) (b + i) = s2.hearthByte (core / 256) (a + i)) ∧
        (∀ x, x < b ∨ b + n ≤ x → t.hearthByte (core / 256) x = s2.hearthByte (core / 256) x) ∧ t.tags = s2.tags) ∧
    (∀ core k c token decline, (s.core core).commands[k]? = some c → c.parked = some token →
      ∃ t : State, exec (.copyFaultResume core k decline) s = .next t ∧ (t.core core).commands[k]? =
        some { c with
          parked := none
          status := if decline then some CStatus.pagefail else c.status
          noWord := c.noWord || (decline && c.status.isSome) }) ∧
    (∀ core k c, s.kilnDue core k = some c →
      (∀ x, s.cpykRequest core c = .inr x → ∃ t : State, exec (.cpykKilnIssue core k) s = .next t ∧
        (t.core core).commands[k]? = some { c with status := some x } ∧ (t.core core).kUntimed = (s.core core).kUntimed) ∧
      (∀ r, s.cpykRequest core c = .inl r → ∃ t : State, exec (.cpykKilnIssue core k) s = .next t ∧
        (t.core core).commands[k]? = some { c with kilnIssued := true } ∧ (t.core core).kUntimed = some r ∧
        r.slot = 16 * core + c.slot ∧ r.ksc = c.sub.ksc ∧ r.cmd = some c.sub.seq ∧ r.timed = false) ∧
      (kilnWord c.sub.kword ≠ none → (s.core core).accown.getLsbD 0 = false → s.cpykRequest core c = .inr CStatus.accown)) ∧
    (∀ k error data r, s.pkg.nvme[k]? = some r → r.data = none →
      (s.readCommand r = none → ∃ t : State, exec (.nvmeReadComplete k error data) s = .next t ∧ t.pkg.nvme = s.pkg.nvme.eraseIdx k ∧
        t.cores = s.cores ∧ SameMemory s t) ∧
      (∀ j c, s.readCommand r = some (j, c) →
        (error = true → ∃ t : State, exec (.nvmeReadComplete k error data) s = .next t ∧
          (t.core r.core).commands[j]? = some { c with status := some CStatus.storerr } ∧ SameMemory s t) ∧
        (∀ s1 a va h, error = false → r.stage = 0 → 0 < r.bytes → data.length = r.bytes → Safe s → s.bad = [] → isDram a = true →
          ({ s with pkg := { s.pkg with nvme := s.pkg.nvme.eraseIdx k } }).resolveAs (16 * r.core + r.slot) c.sub.root (!c.sub.priv) (c.sub.seg c.sub.dsg)
            ⟨c.sub.dsg, c.sub.doff + 0, r.bytes, 1, 0x02, 1, false, false⟩ = (s1, .ok [⟨.here a, r.bytes, va, h⟩]) →
          ∃ t : State, exec (.nvmeReadComplete k error data) s = .next t ∧
            (t.core r.core).commands[j]? = some { c with status := some 0 } ∧ ∀ i, i < r.bytes → data[i]? = some (t.homeByte (a + i))))) ∧
    (∃ t : State, exec .storageControllerReset s = .next t ∧ t.pkg.nvme = [] ∧ SameMemory s t ∧ ∀ core, (t.core core).commands =
      (s.core core).commands.map (fun c => if c.handed = true ∧ c.status = none then { c with status := some CStatus.storerr } else c)) ∧
    (∀ n kmac ed448, (n < 16 → ∃ t : State, exec (.keySlotInstall n kmac ed448) s = .next t ∧
        Table.get ([], []) t.pkg.keySlots n = (kmac, ed448) ∧
        ∀ m, m ≠ n → Table.get ([], []) t.pkg.keySlots m = Table.get ([], []) s.pkg.keySlots m) ∧
      (16 ≤ n → exec (.keySlotInstall n kmac ed448) s = .next s))

/-! ## Media windows and time (20_counted_release, 22_media) -/

/-- R312, R347: in a step MWIN and MTICK read the window fixed at launch and MACK retires its records; in any other thread every form takes
ILL. That MACK of a step whose group another package launched changes nothing here is the model's choice (log 92). -/
def Obligations.MediaInstructions : Prop :=
  ∀ s : State, s.inFrame = false →
    (∀ i, (∃ d a, i = .mwinCount d ∨ i = .mwin d a ∨ i = .mtick d ∨ i = .mack a) → s.ready i = true → s.windowOf s.cur = none →
      exec i s = .next (s.ill i)) ∧
    (∀ w, s.windowOf s.cur = some w →
      (∀ d, s.ready (.mwinCount d) = true →
        exec (.mwinCount d) s = .next ((s.writeX d (BitVec.ofNat 64 w.recs.length) 2).advance)) ∧
      (∀ d a, s.ready (.mwin d a) = true → (s.me.getX a).toNat < w.recs.length → ∃ r, w.recs[(s.me.getX a).toNat]? = some r ∧
        exec (.mwin d a) s = .next ((s.writeX d (BitVec.ofNat 64 r.off) 2).advance)) ∧
      (∀ d a, s.ready (.mwin d a) = true → w.recs.length ≤ (s.me.getX a).toNat →
        exec (.mwin d a) s = .next ((s.writeX d (BitVec.allOnes 64) 2).advance)) ∧
      (∀ d, s.ready (.mtick d) = true →
        exec (.mtick d) s = .next ((s.writeX d (BitVec.ofNat 64 w.tick) 2).advance)) ∧
      (∀ a, s.ready (.mack a) = true →
        let k := (s.me.getX a).toNat
        (s.me.fills ≠ [] → exec (.mack a) s = .next s) ∧
        (s.me.fills = [] → s.me.burning = true → s.me.held < 32 → ∃ (t : State) (e : SbEntry), exec (.mack a) s = .next t ∧
          t.me.sb = s.me.sb ++ [e] ∧ e.kind = .mack k ∧ e.held = true ∧ t.me.pc = s.me.pc + 4 ∧ SameMemory s t) ∧
        (s.me.fills = [] → s.me.burning = false → s.groupOf s.cur = none → exec (.mack a) s = .next s.advance) ∧
        (∀ h g, s.me.fills = [] → s.me.burning = false → s.groupOf s.cur = some (h, g) →
          ∃ (t : State) (g' : Pend) (w' : StepWindow), exec (.mack a) s = .next t ∧ g' ∈ (t.hearth h).pool ∧ g'.lseq = g.lseq ∧
            g'.window = some w' ∧ w'.recs.length = w.recs.length ∧ w'.tick = w.tick ∧
            (∀ n (r : WindowRec), w.recs[n]? = some r → w'.recs[n]? = some (if n < k then { r with retired := true } else r)) ∧
            t.me.pc = s.me.pc + 4 ∧ SameRegisters [] [] s.me t.me) ∧
        (∀ h g (r : WindowRec), s.me.fills = [] → s.me.burning = false → s.groupOf s.cur = some (h, g) → 0 < k → w.recs = [r] →
          r.retired = false → (s.sink w.desc).done = [] → s.homeNat (r.sink + 8) 8 = r.n → r.n + 1 < 2 ^ 64 → Safe s →
          ∃ t : State, exec (.mack a) s = .next t ∧ t.homeNat (r.sink + 8) 8 = r.n + 1)))

/-- R337 to R345: a tick of a legal descriptor counts and takes the records whose own tick or the one after it is, with LATE written; held
ticks merge into one launch, whose window is in the order of R312; a descriptor that memory no longer enables stays in effect until its
next instant; a record becomes present or is dropped, and expires; DTADJ steps time only outside burns, and the references set TIMEST and
the slew within 100 ppm. That SRC is 3 whenever PTP is absent after a reference has been seen is the model's reading (log 43). -/
def Obligations.TicksAndTime : Prop :=
  ∀ s : State, Safe s →
    (∀ n d, s.tickDesc n = some d →
      let ok := 100000 ≤ d.period ∧ d.period ≤ 10 ^ 9 ∧ 10 ^ 9 % d.period = 0 ∧ d.phase < d.period ∧ d.guard < d.width ∧
        d.width ≤ d.period + d.guard
      let due (e : TickDesc) : Prop := e.phase ≤ s.dtime ∧ (s.dtime - e.phase) % e.period = 0 ∧
        ∀ t, (s.sink n).lastTick = some t → t < s.dtime
      let served := (s.sink n).desc = none ∨ (s.sink n).desc = some d
      (¬ ok → (s.sink n).desc = none → d.ctl / 16 % 2 = 0 →
        ∃ t : State, exec (.tick n) s = .next t ∧ t.homeNat (d.at_ + 0x30) 4 = d.ctl + 16) ∧
      (∀ e, (s.sink n).desc = some e → ¬ due e → exec (.tick n) s = .next s) ∧
      (ok → served → ¬ due d → exec (.tick n) s = .next s) ∧
      (ok → served → due d → s.bad = [] → (s.sink n).step ≠ none → (s.sink n).recs = [] → ∃ t : State, exec (.tick n) s = .next t ∧
        t.homeNat (d.sink + 0x18) 4 = (s.homeNat (d.sink + 0x18) 4 + 1) % 2 ^ 32 ∧
        t.homeNat (d.sink + 0x1C) 4 = (s.homeNat (d.sink + 0x1C) 4 + 1) % 2 ^ 32 ∧
        (t.sink n).lastTick = some s.dtime ∧ (t.sink n).heldTick = some s.dtime ∧ (t.sink n).desc = some d ∧
        (t.sink n).heldRecs = (s.sink n).heldRecs) ∧
      (∀ (r : SinkRec) (late : Nat), ok → served → due d → s.bad = [] → (s.sink n).step ≠ none → (s.sink n).recs = [r] → (s.sink n).passed = [] →
        r.returned = false → r.presentAt ≤ s.dtime → r.item.sink = d.sink → 64 ≤ r.item.off →
        d.ownTick r.item.stamp + late * d.period = s.dtime → late < 2 → ∃ t : State, exec (.tick n) s = .next t ∧
          (t.sink n).recs = [] ∧ (t.sink n).heldRecs = (s.sink n).heldRecs ++ [r.item] ∧
          t.homeNat (d.sink + r.item.off + 0x0A) 2 / 2 % 2 = late ∧
          t.homeNat (d.sink + 0x20) 4 = (s.homeNat (d.sink + 0x20) 4 + late) % 2 ^ 32)) ∧
    (∀ n e, s.hasTick n = true → (s.sink n).desc = some e → s.tickDesc n = none → s.tickDue n e = true →
      ∃ t : State, exec (.tick n) s = .next t ∧ (t.sink n).desc = none ∧ (t.sink n).lastTick = (s.sink n).lastTick ∧ SameMemory s t) ∧
    (∀ rs : List WindowRec, (orderWindow rs).Perm rs ∧ (orderWindow rs).Pairwise (fun (a b : WindowRec) => a.stamp < b.stamp ∨
      (a.stamp = b.stamp ∧ (a.stream < b.stream ∨ (a.stream = b.stream ∧ a.seq ≤ b.seq))))) ∧
    (∀ n d s1 r, s.slipDue n = some d →
      s.submit (d.ctl / 2 % 8) d.rcba true (some ⟨n, (s.sink n).heldTick.getD 0, orderWindow (s.sink n).heldRecs⟩) = (s1, r) →
      r < 2 ^ 63 → (rcbOf (s.path d.rcba).1).kind = 2 →
      ∃ t : State, exec (.slippedTickLaunch n) s = .next t ∧ (t.sink n).step = some (d.ctl / 2 % 8, r) ∧ (t.sink n).heldRecs = [] ∧
        (t.sink n).heldTick = none ∧ t.hearths = s1.hearths) ∧
    (∀ n d k, s.nextRecord n = some (d, k) →
      let off := 64 * (k % s.homeNat (d.sink + 0x10) 4 + 1)
      let a := d.sink + off
      (s.recordBad d a = false → ∃ t : State, exec (.recordPresent n) s = .next t ∧ Table.get 0 (t.sink n).seen d.sink = k + 1 ∧ (t.sink n).recs =
        (s.sink n).recs ++ [(⟨⟨d.sink, k, off, s.homeNat a 6 * 10 ^ 9 + s.homeNat (a + 6) 4, s.homeNat (a + 0x0C) 4,
          s.homeNat (a + 0x10) 8, false⟩, s.dtime, false⟩ : SinkRec)] ∧ SameMemory s t) ∧
      (s.bad = [] → s.homeNat (a + 0x0C) 4 ≠ s.homeNat (d.sink + 0x14) 4 ∨ 4 ≤ s.homeNat (a + 0x0A) 2 ∨ 10 ^ 9 ≤ s.homeNat (a + 6) 4 →
        ∃ t : State, exec (.recordPresent n) s = .next t ∧ Table.get 0 (t.sink n).seen d.sink = k + 1 ∧ (t.sink n).recs = (s.sink n).recs ∧
          t.homeNat (d.sink + 0x24) 4 = (s.homeNat (d.sink + 0x24) 4 + 1) % 2 ^ 32)) ∧
    (∀ n r, s.nextExpired n = some r → s.bad = [] → ∃ t : State, exec (.recordExpire n) s = .next t ∧
      (t.sink n).recs = (s.sink n).recs.filter (fun x => x != r) ∧
      t.homeNat (r.item.sink + 0x24) 4 = (s.homeNat (r.item.sink + 0x24) 4 + 1) % 2 ^ 32) ∧
    (∀ v, (∃ e ∈ s.slots, e.2.mode ≠ .free ∧ e.2.mode ≠ .stopped ∧ e.2.burning = true) → ∃ t : State, exec (.dtadjStep v) s = .next t ∧ t.clock = s.clock ∧
      t.pkg.timest.getLsbD 5 = true ∧ SameMemory s t) ∧
    (∀ v, (∀ e ∈ s.slots, e.2.mode ≠ .free → e.2.mode ≠ .stopped → e.2.burning = false) → ∃ t : State, exec (.dtadjStep v) s = .next t ∧
      t.dtime = (s.dtime + v.toNat) % 2 ^ 64 ∧ t.pkg.timest.getLsbD 4 = true ∧ t.slots = s.slots) ∧
    (∀ r : TimeReference, r.kind < 3 → ∃ t : State, exec (.timeReferenceInput r) s = .next t ∧
      t.pkg.refs.getLsbD r.kind = r.present ∧ (∀ j, j ≠ r.kind → t.pkg.refs.getLsbD j = s.pkg.refs.getLsbD j) ∧
      t.pkg.timest.getLsbD 3 = t.pkg.refs.getLsbD 1 ∧ t.pkg.timest.getLsbD 2 = t.pkg.refs.getLsbD 2 ∧
      (t.pkg.refs.getLsbD 0 = true → t.pkg.timest.toNat % 4 = if t.pkg.refs.getLsbD 1 then 2 else 1) ∧
      (t.pkg.refs.getLsbD 0 = false → s.pkg.timest.toNat % 4 ≠ 0 → t.pkg.timest.toNat % 4 = 3) ∧
      -100000 ≤ t.pkg.slew ∧ t.pkg.slew ≤ 100000 ∧ (t.pkg.refs = 0 → -20000 ≤ t.pkg.slew ∧ t.pkg.slew ≤ 20000) ∧ t.clock = s.clock) ∧
    (∀ r : TimeReference, 2 < r.kind → exec (.timeReferenceInput r) s = .next s)

/-! ## Embers (02_machine, 21_flue) -/

/-- R25, R26, R335: a packet enters its clamp's queue once and in order, or is refused for want of room; EMBERACK frees the source or keeps
the ember; the departing slot is free once its packet is queued; the slot it is handed to reads its record and holds the packet's
fields. When a departing ember leaves and how it lands (log 62), the remembered refused sources (log 63) and the waits before its packet
(log 85) are the model's readings. -/
def Obligations.EmbersMove : Prop :=
  ∀ s : State,
    (∀ clamp pkg slot (e : EmberPacket),
      ((e.rcba, e.lid, e.mseq) ∈ (s.clamp clamp).accepted → pkg = s.pkg.number → exec (.emberArrival clamp pkg slot e) s = .next s) ∧
      ((e.rcba, e.lid, e.mseq) ∈ (s.clamp clamp).accepted → pkg ≠ s.pkg.number →
        exec (.emberArrival clamp pkg slot e) s = .next (s.emit (.emberack pkg slot true))) ∧
      ((e.rcba, e.lid, e.mseq) ∉ (s.clamp clamp).accepted → (s.clamp clamp).embers.length < 64 →
        ∃ t u : State, exec (.emberArrival clamp pkg slot e) s = .next t ∧
          t = (if pkg = s.pkg.number then u else u.emit (.emberack pkg slot true)) ∧
          (t.clamp clamp).embers = (s.clamp clamp).embers ++ [e] ∧
          (e.rcba, e.lid, e.mseq) ∈ (t.clamp clamp).accepted ∧ SameMemory s t) ∧
      ((e.rcba, e.lid, e.mseq) ∉ (s.clamp clamp).accepted → 64 ≤ (s.clamp clamp).embers.length → pkg ≠ s.pkg.number →
        ∃ t u : State, exec (.emberArrival clamp pkg slot e) s = .next t ∧ t = u.emit (.emberack pkg slot false) ∧
          (t.clamp clamp).embers = (s.clamp clamp).embers ∧ (t.clamp clamp).refused = (s.clamp clamp).refused ++ [(pkg, slot)])) ∧
    (∀ slot pkg clamp e refused, (s.slot slot).barrier = some (.sent pkg clamp e refused) →
      (refused = false → ∃ t : State, exec (.emberack slot true) s = .next t ∧ (t.slot slot).mode = .free ∧
        (t.slot slot).x = (s.slot slot).x) ∧
      (∃ t : State, exec (.emberack slot false) s = .next t ∧ (t.slot slot).barrier = some (.sent pkg clamp e true)) ∧
      (refused = true → ∃ t u : State, exec (.emberack slot true) s = .next t ∧ t = u.emit (.ember pkg clamp s.pkg.number slot e) ∧
        (t.slot slot).barrier = some (.sent pkg clamp e false))) ∧
    (∀ clamp e rest k, (s.clamp clamp).embers = e :: rest → s.clampOff clamp = false → s.emberSlot clamp e = some k →
      ∃ t : State, exec (.emberHandoff clamp) s = .next t ∧ (t.clamp clamp).embers = rest ∧ (t.slot k).mode = .running ∧
        (t.slot k).barrier = some (.landing e) ∧ (t.slot k).pc = e.pc ∧ (t.slot k).ctl.status = e.status ∧ (t.slot k).ctl.lid = e.lid ∧
        (t.slot k).ctl.rcba = e.rcba ∧ ∀ j, j ≠ k → t.slot j = s.slot j) ∧
    (∀ clamp e rest, (s.clamp clamp).embers = e :: rest → s.emberSlot clamp e = none → exec (.emberHandoff clamp) s = .next s) ∧
    (∀ clamp haddr pc, s.me.barrier = some (.depart s.pkg.number clamp haddr pc) → s.me.remoteTag = none → s.me.deferred = [] →
      s.fenced s.cur .none = true → s.me.written = [] → s.remoteDone s.cur = true → s.sending s.cur = false → s.me.ember = true →
      globalPkg (s.me.ca + 0x10000) = s.pkg.number →
      (s.me.ctl.rcba, s.me.ctl.lid, s.me.mseq + 1) ∉ (s.clamp clamp).accepted →
      (64 ≤ (s.clamp clamp).embers.length → ∃ (t : State) (b : Bool), s.settle = (t, b) ∧
        t.me.barrier = some (.departing s.pkg.number clamp haddr pc) ∧ (t.clamp clamp).embers = (s.clamp clamp).embers) ∧
      ((s.clamp clamp).embers.length < 64 →
      ∃ (t : State) (b : Bool) (e : EmberPacket), s.settle = (t, b) ∧ (t.slot s.cur).mode = .free ∧ (t.slot s.cur).x = s.me.x ∧
        (t.clamp clamp).embers = (s.clamp clamp).embers ++ [e] ∧ e.rcba = s.me.ctl.rcba ∧ e.lid = s.me.ctl.lid ∧ e.haddr = haddr ∧
        e.mseq = s.me.mseq + 1 ∧ e.pc = pc ∧ e.xfull = s.me.xf ∧ e.status = s.me.ctl.status ∧ e.x = s.me.x.toList ∧
        e.sg = s.me.sg.toList)) ∧
    (∀ e s1 s2 s3 path b ws image, s.me.barrier = some (.landing e) → s.me.remoteTag = none →
      s.readPath s.cur 8 e.rcba = (s1, .ok (path, b)) → s1.allPends = [] →
      s1.readWords s1.cur ((rcbOf path).savea + BitVec.ofNat 64 (131072 * (e.lid.toNat % 2 ^ 32)) + 0x10000) recordWords = (s2, .ok ws) →
      s2.readImage s2.cur (rcbOf path).kaddr = (s3, .ok image) →
      ∃ (t : State) (b : Bool), s.settle = (t, b) ∧
        (∀ r : Reg, (t.slot s3.cur).getX r = (e.x[r.toNat]?).getD 0 ∧ (t.slot s3.cur).fullX r = e.xfull.getLsbD r.toNat) ∧
        (t.slot s3.cur).pc = e.pc ∧ (t.slot s3.cur).mseq = e.mseq ∧ (t.slot s3.cur).ctl.status = e.status ∧
        (t.slot s3.cur).ctl.lid = e.lid ∧ (t.slot s3.cur).ctl.rcba = e.rcba ∧
        ∀ g, g < 8 → (t.slot s3.cur).seg g = (e.sg[g]?).getD Seg.empty)

/-! ## The flue fabric (21_flue) -/

/-- R317, R319 to R323: a flit takes the one live link with its LSEQ and a counter value, or waits; a flit that fails its checks or comes
out of order is discarded; LACK frees, a failure replays, a link that goes down hands its flits on; PAUSE stops the lossless class; keys
are exchanged, used up, and lost after 50 ms. That flits of link control take no LSEQ (log 70), that KEYX travels as an offer and a
signature and that a bundle without a live link hands its flits to another (log 91), and since when no link is live (log 69), are the
model's readings. -/
def Obligations.LinksCarry : Prop :=
  ∀ s : State,
    (∀ f, (∀ p, p < 32 → (s.link p).live = false) ∨ (∃ d, flitDest f = some d ∧ s.inTree d = false) →
      s.emit f = { s with flue := { s.flue with waiting := s.flue.waiting ++ (flitsOf f).map (fun x => (⟨x, s.dtime⟩ : QueuedFlit)) } }) ∧
    (∀ p f, OnlyLink s p → (∀ d, flitDest f = some d → s.inTree d = true) → flitsBefore f = 0 → (s.link p).replay.length < 512 →
      (s.link p).keyoutAt = none → (s.link p).stalled = false → (s.link p).fctr < 2 ^ 40 - 1 → (s.link p).paused = false →
      (s.link p).held = [] → (s.link p).again = [] →
      (s.emit f).flue.out = s.flue.out ++ [(p, (s.link p).frame 0 (s.link p).lseq f)] ∧
      ((s.emit f).link p).lseq = ((s.link p).lseq + 1) % 2 ^ 16 ∧ ((s.emit f).link p).fctr = (s.link p).fctr + 1 ∧
      ((s.emit f).link p).replay = (s.link p).replay ++ [((s.link p).lseq, ⟨f, s.dtime⟩)]) ∧
    (∀ port k age lseq f, (s.link port).keys = some k →
      ((s.link port).frame age lseq f).iv = k.saltOut ++ [0, 0, 0] ++ bytesOfNat 5 (s.link port).fctr ∧
      ((s.link port).frame age lseq f).age = age ∧ ((s.link port).frame age lseq f).lseq = lseq) ∧
    (∀ port f, port < 32 → (s.link port).live = true →
      ((f.crcOk = false ∨ (s.link port).sealHolds f = false ∨ legalFlit f = false) → ∃ t : State, exec (.flitReceive port f) s = .next t ∧
        t.pkg.crcFails = s.pkg.crcFails + 1 ∧ (t.link port).rxNext = (s.link port).rxNext ∧ SameMemory s t ∧ t.slots = s.slots) ∧
      (f.crcOk = true → (s.link port).sealHolds f = true → legalFlit f = true →
        (∀ seq nak, f.body = .lack seq nak → exec (.flitReceive port f) s = exec (.lack port seq nak) s) ∧
        (∀ on, f.body = .pause on → exec (.flitReceive port f) s = exec (.pause port on) s) ∧
        (∀ d, flitDest f.body = some d → f.lseq ≠ (s.link port).rxNext → exec (.flitReceive port f) s = .next s) ∧
        (∀ d, flitDest f.body = some d → f.lseq = (s.link port).rxNext → s.answersTo d = false →
          ∃ t : State, exec (.flitReceive port f) s = .next t ∧ t.pkg.discards = s.pkg.discards + 1 ∧ SameMemory s t ∧
            (t.link port).rxNext = ((s.link port).rxNext + 1) % 2 ^ 16) ∧
        (∀ d, flitDest f.body = some d → f.lseq = (s.link port).rxNext → s.answersTo d = true →
          ∃ u : State, exec (.flitReceive port f) s = .next (u.takeFlit port f.body) ∧ SameMemory s u ∧ u.slots = s.slots ∧
            (u.link port).rxNext = ((s.link port).rxNext + 1) % 2 ^ 16))) ∧
    (∀ port f, port < 32 → (s.link port).live = false → f.type ≠ 0x22 → exec (.flitReceive port f) s = .next s) ∧
    (∀ port f m, port < 32 → f.crcOk = true → (s.link port).sealHolds f = true → legalFlit f = true → f.body = .keyx m →
      let l := s.link port
      let offer := (port, l.frame 0 0 (.keyx (offerOf port l.epoch [])))
      let sign := (port, l.frame 0 0 (.keyx (offerOf port l.epoch (Config.ed448Sign (transcript port l.epoch m)))))
      (m.signature ≠ [] → exec (.flitReceive port f) s = exec (.keyx port m) s) ∧
      (m.signature = [] → l.rekeying = true → l.signed = true → exec (.flitReceive port f) s = .next s) ∧
      (m.signature = [] → l.rekeying = true → l.signed = false → ∃ t : State, exec (.flitReceive port f) s = .next t ∧
        (t.link port).signed = true ∧ t.flue.out = s.flue.out ++ [sign]) ∧
      (m.signature = [] → l.rekeying = false → ∃ t : State, exec (.flitReceive port f) s = .next t ∧
        (t.link port).rekeying = true ∧ (t.link port).signed = true ∧ t.flue.out = s.flue.out ++ [offer, sign])) ∧
    (∀ port seq f pre rest, port < 32 → (s.link port).replay = pre ++ (seq, f) :: rest → (∀ e ∈ pre, e.1 ≠ seq) →
      (s.link port).held = [] → (s.link port).again = [] → ∃ t : State, exec (.lack port seq false) s = .next t ∧
        (t.link port).replay = rest ∧ (t.link port).replays = 0 ∧ t.flue.out = s.flue.out) ∧
    (∀ port seq, port < 32 → (s.link port).replay ≠ [] → (∀ e ∈ (s.link port).replay, e.1 ≠ seq) → (s.link port).held = [] →
      (s.link port).again = [] → (s.link port).fctr + (s.link port).replay.length < 2 ^ 40 →
      ∃ t : State, exec (.lack port seq true) s = .next t ∧
        (t.link port).replay = (s.link port).replay ∧ (t.link port).replays = (s.link port).replays + 1 ∧
        (t.link port).fctr = (s.link port).fctr + (s.link port).replay.length ∧
        t.flue.out.length = s.flue.out.length + (s.link port).replay.length ∧ t.flue.out.take s.flue.out.length = s.flue.out ∧
        ∀ n e, (s.link port).replay[n]? = some e → t.flue.out[s.flue.out.length + n]? =
          some (port, { s.link port with fctr := (s.link port).fctr + n }.frame (flitAge s.dtime e.2.since) e.1 e.2.body)) ∧
    (∀ port, port < 32 → (s.link port).down = false → (∀ q, q < 32 → q ≠ port → (s.link q).live = false) →
      ∃ t : State, exec (.linkDown port) s = .next t ∧ (t.link port).down = true ∧ (t.link port).replay = [] ∧ (t.link port).held = [] ∧
        t.flue.waiting = s.flue.waiting ++ ((s.link port).replay.map (·.2) ++ (s.link port).again ++ (s.link port).held) ∧
        (s.flue.cutSince = none → t.flue.cutSince = some s.dtime)) ∧
    (∀ port q, port < 32 → q < 32 → q ≠ port → (s.link port).down = false → (s.link q).live = true →
      (∀ k, k < 32 → k ≠ port → k ≠ q → (s.link k).live = false) →
      let fs := (s.link port).replay.map (·.2) ++ (s.link port).again ++ (s.link port).held
      (s.link q).replay.length + fs.length ≤ 512 → (s.link q).fctr + fs.length ≤ 2 ^ 40 - 1 → (s.link q).keyoutAt = none →
      (s.link q).stalled = false → (s.link q).paused = false → (s.link q).held = [] → (s.link q).again = [] →
      ∃ t : State, exec (.linkDown port) s = .next t ∧ (t.link q).replay.map (·.2) = (s.link q).replay.map (·.2) ++ fs ∧
        t.flue.waiting = s.flue.waiting) ∧
    (∀ port, port < 32 → ∃ t : State, exec (.pause port true) s = .next t ∧ (t.link port).paused = true ∧ t.flue.out = s.flue.out) ∧
    (∀ port, port < 32 → (s.link port).held = [] → (s.link port).again = [] →
      ∃ t : State, exec (.pause port false) s = .next t ∧ (t.link port).paused = false) ∧
    (∀ port m, port < 32 → Config.ed448Verify m.identity (transcript port (s.link port).epoch m) m.signature = true →
      (s.link port).held = [] → (s.link port).again = [] → (s.link port).owed = [] → (s.link port).stalled = false →
      s.flue.waiting = [] → ∃ t : State, exec (.keyx port m) s = .next t ∧
        (t.link port).keys = some (keySetOf port (s.link port).epoch m) ∧ (t.link port).fctr = 0 ∧ (t.link port).down = false ∧
        (t.link port).rekeying = false ∧ (t.link port).kph = (if (s.link port).keys = none then (s.link port).kph else !(s.link port).kph)) ∧
    (∀ port m, port < 32 → Config.ed448Verify m.identity (transcript port (s.link port).epoch m) m.signature = false →
      ∃ t : State, exec (.keyx port m) s = .next t ∧ (t.link port).keys = (s.link port).keys ∧
        ((s.link port).keys = none → (t.link port).down = true) ∧ ((s.link port).keys ≠ none → (t.link port).down = (s.link port).down)) ∧
    (∀ port, (s.link port).live = true → (s.link port).rekeying = false → 2 ^ 39 ≤ (s.link port).fctr →
      ∃ t : State, exec (.rekeyStart port) s = .next t ∧ (t.link port).rekeying = true ∧
        t.flue.out = s.flue.out ++ [(port, (s.link port).frame 0 0 (.keyx (offerOf port (s.link port).epoch [])))]) ∧
    (∀ port, (s.link port).fctr < 2 ^ 39 → exec (.rekeyStart port) s = .next s) ∧
    (∀ port, (s.link port).live = true → (s.link port).keyoutAt = none → 2 ^ 40 - 1 ≤ (s.link port).fctr →
      ∃ t : State, exec (.keyout port) s = .next t ∧ (t.link port).keyoutAt = some s.dtime ∧
        t.flue.out = s.flue.out ++ [(port, (s.link port).frame 0 0 .keyout)]) ∧
    (∀ port x, port < 32 → (s.link port).down = false → (s.link port).keyoutAt = some x →
      (x + 50000000 ≤ s.dtime → exec (.keyoutTimeout port) s = exec (.linkDown port) s) ∧
      (s.dtime < x + 50000000 → exec (.keyoutTimeout port) s = .next s))

/-- R280, R317, R328 to R332: an admitted write of the oldest window is applied once, a release once its windows are complete, and both are
acknowledged; a window that stays short asks three times and is then given up with its release; a request that is not admitted freezes its
stream until the service answers. That a refused window is passed over and that a release's own refusal freezes its stream (log 65), and
that a release over a window with a refused write is not applied (log 66), are the model's readings. -/
def Obligations.ArrivalsApply : Prop :=
  ∀ s : State, Safe s →
    (∀ grate f, grate ≠ f.sid % 4 → exec (.writeArrival grate f) s = .next s) ∧
    (∀ f, s.entryOf f.sid = none → 65536 ≤ (s.flue.table.filter (fun e => e.grate == f.sid % 4)).length →
      exec (.writeArrival (f.sid % 4) f) s = .next (s.emit (.notable ⟨f.sid, f.dst, f.win⟩ f.seq))) ∧
    (∀ f e, QuietArrivals s → FirstInTurn s f e → (e.win f.win).base = none → s.bad = [] → s.admit280 f.block 64 0x02 = .ok →
      ∃ (t : State) (e' : StreamEntry), exec (.writeArrival (f.sid % 4) f) s = .next t ∧ t.entryOf f.sid = some e' ∧ e'.seen f = true ∧
        (∀ k b, k < 64 → f.mask.testBit k = true → f.bytes[k]? = some b → t.homeByte (f.block + k) = b) ∧
        (∀ a, (∀ k, k < 64 → f.mask.testBit k = true → a ≠ f.block + k) → t.homeByte a = s.homeByte a) ∧ t.tags = s.tags) ∧
    (∀ f e, QuietArrivals s → s.entryOf f.sid = some e → e.seen f = true → exec (.writeArrival (f.sid % 4) f) s = .next s) ∧
    (∀ f e, QuietArrivals s → FirstInTurn s f e → s.admit280 f.block 64 0x02 ≠ .ok → s.pkg.fzsvc.getLsbD 63 = true →
      ∃ t : State, exec (.writeArrival (f.sid % 4) f) s = .next t ∧ t.entryOf f.sid = some { e with frozen := some s.flue.nextToken } ∧
        t.flue.hold = [(e.grate, f)] ∧ t.flue.nextToken = (s.flue.nextToken + 1) % 2 ^ 32 ∧ SameMemory s t) ∧
    (∀ f e r a bs, QuietArrivals s → windowsOf f = [(f.sid, r)] → f.body = .write a bs none → f.probe = false →
      s.entryOf f.sid = some e → e.frozen = none → e.oldest = r.win → r.win < 2 ^ 16 →
      ((e.win r.win).applied.length = r.n → (e.win ((r.win + 1) % 2 ^ 16)).base = none → (e.win r.win).failed = true →
        ∃ (t : State) (e' : StreamEntry), exec (.releaseArrival (f.sid % 4) f) s = .next t ∧ t.entryOf f.sid = some e' ∧
          e'.oldest = (r.win + 1) % 2 ^ 16 ∧ SameMemory s t) ∧
      ((e.win r.win).applied.length = r.n → (e.win ((r.win + 1) % 2 ^ 16)).base = none → (e.win r.win).failed = false → bs ≠ [] →
        s.bad = [] → s.admit280 a bs.length 0x02 = .ok → ∃ (t : State) (e' : StreamEntry), exec (.releaseArrival (f.sid % 4) f) s = .next t ∧ t.entryOf f.sid = some e' ∧
          e'.oldest = (r.win + 1) % 2 ^ 16 ∧ (∀ i, i < bs.length → bs[i]? = some (t.homeByte (a + i)))) ∧
      ((e.win r.win).applied.length < r.n → ∃ t : State, exec (.releaseArrival (f.sid % 4) f) s = .next t ∧
        t.flue.withheld = [⟨f.sid % 4, f, s.dtime⟩] ∧ SameMemory s t)) ∧
    (∀ w e, s.shortDue w = true → s.entryOf w.sid = some e →
      ((e.win w.win).rounds < 3 → ∃ (t u : State) (e' : StreamEntry), exec (.shortfallTimeout (w.sid % 4) w) s = .next t ∧
        t = u.emit (.shortfall w ((e.win w.win).base.getD 0) (e.win w.win).n (e.win w.win).bitmap) ∧ t.entryOf w.sid = some e' ∧
        (e'.win w.win).rounds = (e.win w.win).rounds + 1 ∧ SameMemory s t) ∧
      (∀ x r, 3 ≤ (e.win w.win).rounds → s.flue.hold = [] → s.flue.withheld = [x] → windowsOf x.flit = [(w.sid, r)] → r.win = w.win →
        x.flit.probe = false → s.flue.table = [e] → w.win = e.oldest →
        ∃ t : State, exec (.shortfallTimeout (w.sid % 4) w) s = .next t ∧ t.flue.withheld = [] ∧ SameMemory s t)) ∧
    (∀ grate sid e, ∃ t : State, exec (.streamEntryFree grate sid) s = .next t ∧ SameMemory s t ∧
      (e ∈ t.flue.table ↔ e ∈ s.flue.table ∧ ¬ (e.grate = grate ∧ e.sid = sid ∧ e.wins = [] ∧ e.frozen = none ∧ e.idleSince + 100000 ≤ s.dtime ∧
        (∀ h ∈ s.flue.hold, h.2.sid ≠ sid) ∧ ∀ x ∈ s.flue.withheld, x.flit.sid ≠ sid))) ∧
    (∀ f, windowsOf f = [] → f.body = .none →
      ((∃ i e, i < 4 ∧ s.entryOf (f.sid / 4 * 4 + i) = some e ∧ e.frozen ≠ none) →
        exec (.probe (f.sid % 4) f) s = .next (s.emit (.probeack ⟨f.sid, f.dst, 0⟩ true))) ∧
      (QuietArrivals s → (∀ i e, i < 4 → s.entryOf (f.sid / 4 * 4 + i) = some e → e.frozen = none) →
        exec (.probe (f.sid % 4) f) s = .next (s.emit (.probeack ⟨f.sid, f.dst, 0⟩ false)))) ∧
    (∀ grate (f : ReadFlit), f.atomic = none →
      (s.admit280 f.a f.size (if f.tagged then 0x09 else 0x01) = .ok → s.badAt f.a f.size = false →
        exec (.remoteRead grate f) s = .next (s.emit (.resp (sidPkg f.sid) f.id (s.homeBytes f.a f.size) (s.homeTag f.a) .ok))) ∧
      (s.admit280 f.a f.size (if f.tagged then 0x09 else 0x01) = .ok → s.badAt f.a f.size = true →
        exec (.remoteRead grate f) s = .next (s.emit (.resp (sidPkg f.sid) f.id [] false .ecc))) ∧
      (s.admit280 f.a f.size (if f.tagged then 0x09 else 0x01) ≠ .ok → s.pkg.fzsvc.getLsbD 63 = false →
        exec (.remoteRead grate f) s = .next (s.emit (.resp (sidPkg f.sid) f.id [] false .refused))) ∧
      (s.admit280 f.a f.size (if f.tagged then 0x09 else 0x01) ≠ .ok → s.pkg.fzsvc.getLsbD 63 = true →
        ∃ t : State, exec (.remoteRead grate f) s = .next t ∧ t.flue.faulted = s.flue.faulted ++ [⟨grate, s.flue.nextToken, .read f⟩] ∧
          SameMemory s t)) ∧
    (∀ grate token h f, s.flue.faulted.find? (fun h => h.token == token) = some h → h.body = .read f → f.atomic = none →
      (exec (.fzctlRefuse grate token) s = .next (({ s with flue := { s.flue with
        faulted := s.flue.faulted.filter (fun x => x != h) } }).emit (.resp (sidPkg f.sid) f.id [] false .refused))) ∧
      (exec (.fzctlRetry grate token) s = exec (.remoteRead h.grate f) { s with flue := { s.flue with
        faulted := s.flue.faulted.filter (fun x => x != h) } })) ∧
    (∀ grate token e, (∀ h ∈ s.flue.faulted, h.token ≠ token) → QuietArrivals s →
      s.flue.table.find? (fun e => e.frozen == some token && e.grate == grate) = some e → s.entryOf e.sid = some e →
      (∃ t : State, exec (.fzctlRetry grate token) s = .next t ∧ t.entryOf e.sid = some { e with frozen := none } ∧ SameMemory s t) ∧
      ((e.win ((e.oldest + 1) % 2 ^ 16)).base = none → ∃ t : State, exec (.fzctlRefuse grate token) s = .next t ∧ SameMemory s t ∧
        ∃ e', t.entryOf e.sid = some e' ∧ e'.frozen = none ∧ e'.oldest = (e.oldest + 1) % 2 ^ 16)) ∧
    (∀ grate token, (∀ h ∈ s.flue.faulted, h.token ≠ token) → (∀ e ∈ s.flue.table, e.frozen ≠ some token) →
      exec (.fzctlRetry grate token) s = .next s ∧ exec (.fzctlRefuse grate token) s = .next s)

/-- R327 to R332, R148: an acknowledged window frees its writes and its release; a SHORTFALL resends what was not applied; a GIVEUP or a lost
path counts the writes in FAILED and gives a release REMOTE; NOTABLE backs off from 1 to 64 microseconds and gives up after 10 ms; a frozen
stream sends nothing until it resumes. That a loss by NOTABLE sets EXHAUST (log 64), and that a release is dropped with REMOTE when a window
it covers is lost (logs 66, 68), are the model's readings. -/
def Obligations.SourceRecovers : Prop :=
  ∀ s : State,
    (∀ w : WindowName, (∃ x ∈ (s.stream w.sid w.dst).wins, x.win = w.win ∧ x.closed = true) → ∃ t : State, exec (.flagack w) s = .next t ∧
      (∀ e ∈ t.flue.store, e ∈ s.flue.store ∧ ¬ (e.flit.sid = w.sid ∧ e.flit.dst = w.dst ∧ e.flit.win = w.win)) ∧
      (∀ x ∈ (t.stream w.sid w.dst).wins, x.win ≠ w.win) ∧ (∀ r ∈ t.flue.releases, w ∉ r.wins) ∧
      (∀ r, s.flue.releases = [r] → r.wins = [w] → r.slot = sidSlot w.sid → r.dst = w.dst → r.flit.probe = false → windowsOf r.flit ≠ [] →
        t.flue.releases = [])) ∧
    (∀ (w : WindowName) bitmap e, s.flue.store = [e] → e.flit.sid = w.sid → e.flit.dst = w.dst → e.flit.win = w.win → e.flit.atomic = none →
      e.flit.reduce = none → e.bad = false → e.unit = false →
      let bit := ((e.flit.seq + 2 ^ 32 - s.windowBaseOf w) % 2 ^ 32) % 4096
      (bitmap.testBit bit = false → exec (.shortfall w bitmap) s = .next (s.emit (.write e.flit))) ∧
      (bitmap.testBit bit = true → ∃ t : State, exec (.shortfall w bitmap) s = .next t ∧ t.flue.out = s.flue.out ∧
        t.flue.store = [{ e with applied := true }]) ∧
      (bitmap.testBit bit = false → (∃ x ∈ (s.stream w.sid w.dst).wins, x.win = w.win) → s.flue.releases = [] → ∃ t : State, exec (.giveup w bitmap) s = .next t ∧ t.flue.store = [] ∧
          (t.slot (sidSlot w.sid)).fstat.getLsbD 3 = true ∧ getField (t.slot (sidSlot w.sid)).fstat 16 16 =
            min (getField (s.slot (sidSlot w.sid)).fstat 16 16 + 1) 0xFFFF) ∧
      (∀ r a bs tag, bitmap.testBit bit = false → (∃ x ∈ (s.stream w.sid w.dst).wins, x.win = w.win) → s.flue.releases = [r] →
        r.slot = sidSlot w.sid → r.dst = w.dst → w ∈ r.wins → r.flit.probe = false → r.queued = false → r.unit = false → r.flit.body = .write a bs tag →
        ∃ t : State, exec (.giveup w bitmap) s = .next t ∧ t.flue.releases = [] ∧ SameMemory s t ∧
          (t.slot r.slot).deferred = (s.slot r.slot).deferred ++ [⟨Cause.remote, r.ea, deferInfo r.pc 0⟩])) ∧
    (∀ w seq e, s.entryAt w seq = some e →
      (e.backoff = none → ∃ t : State, exec (.notable w seq) s = .next t ∧
        { e with backoff := some (s.dtime, 1000, s.dtime + 1000) } ∈ t.flue.store) ∧
      (∀ since wait_ at_, e.backoff = some (since, wait_, at_) →
        (s.dtime < since + 10 ^ 7 → ∃ t : State, exec (.notable w seq) s = .next t ∧
          { e with backoff := some (since, min (2 * wait_) 64000, s.dtime + min (2 * wait_) 64000) } ∈ t.flue.store) ∧
        (since + 10 ^ 7 ≤ s.dtime → ∃ t : State, exec (.notable w seq) s = .next t ∧ e ∉ t.flue.store ∧
          (e.flit.atomic = none → e.unit = false → (t.slot e.slot).fstat.getLsbD 3 = true)) ∧
        (s.dtime < at_ → exec (.notableRetry w seq) s = .next s) ∧
        (at_ ≠ 0 → at_ ≤ s.dtime → s.dtime < since + 10 ^ 7 → e.bad = false → ∃ t : State, exec (.notableRetry w seq) s = .next t ∧
          { e with backoff := some (since, wait_, 0) } ∈ t.flue.store))) ∧
    (∀ (w : WindowName) r, s.flue.releases.find? (fun r => r.flit.probe && r.slot == sidSlot w.sid && r.dst == w.dst) = some r →
      (∃ t : State, exec (.probeack w true) s = .next t ∧ r ∉ t.flue.releases ∧ (t.slot r.slot).fstat.getLsbD 2 = true) ∧
      (∃ t : State, exec (.probeack w false) s = .next t ∧ r ∉ t.flue.releases ∧
        ∀ e ∈ t.flue.store, ∀ x ∈ r.wins, ¬ (e.flit.sid = x.sid ∧ e.flit.dst = x.dst ∧ e.flit.win = x.win))) ∧
    (∀ w, ∃ t : State, exec (.frozen w) s = .next t ∧ (t.stream w.sid w.dst).frozen = true ∧
      ∀ sid dst, sid ≠ w.sid ∨ dst ≠ w.dst → t.stream sid dst = s.stream sid dst) ∧
    (∀ w : WindowName, (∀ e ∈ s.flue.store, e.bad = false) → ∃ t : State, exec (.resume w none) s = .next t ∧ (t.stream w.sid w.dst).frozen = false ∧
      (∀ e ∈ t.flue.store, e.flit.sid = w.sid → e.flit.dst = w.dst → e.sent = true) ∧ t.slots = s.slots) ∧
    (∀ pkg, (∀ e ∈ s.flue.store, e.flit.dst = pkg → e.flit.atomic = none) → s.flue.releases = [] → s.flue.waiting = [] →
      (∀ e ∈ s.slots, s.awaited e.2 pkg = []) →
      ∃ t : State, exec (.deadlinkTimeout pkg) s = .next t ∧ pkg ∈ t.flue.dead ∧ (∀ e ∈ t.flue.store, e.flit.dst ≠ pkg) ∧
      ∀ e, s.flue.store = [e] → e.flit.dst = pkg → e.unit = false → (t.slot e.slot).fstat.getLsbD 0 = true ∧
        getField (t.slot e.slot).fstat 16 16 = min (getField (s.slot e.slot).fstat 16 16 + 1) 0xFFFF)

/-! ## Handlers, the host and the device (21_flue, 23_host) -/

/-- R333, R334, R351 to R353, R355, R358 to R362, R364, R365, R110, R169, R293: loading handlers, the launch rings, reads and writes of
the host (none until an image is accepted), ceilings and power samples, scrubbing, failover, and the resets of a device and of a core.
Where BAR0, BAR2's placement and HARVEST lie in the host's addresses (logs 74, 82), the average before 100 measurements (log 72), what the
two resets keep (log 73), the boot states (log 95) and a record hidden by an error (log 93) are the model's choices. -/
def Obligations.HostAndDevice : Prop :=
  ∀ s : State, Safe s →
    (∀ n v, s.recovering = false → n < 128 → (v.toNat < (s.ring n).tail → exec (.ringTailWrite n v) s = .next s) ∧
      ((s.ring n).tail ≤ v.toNat → ∃ t : State, exec (.ringTailWrite n v) s = .next t ∧ (t.ring n).tail = v.toNat ∧
        (t.ring n).accept = (s.ring n).accept)) ∧
    (∀ n v, s.recovering = false → n < 128 → v.getLsbD 9 = false →
      ((s.ring n).en = false → v.getLsbD 8 = true → ∃ t : State, exec (.ringEnable n v) s = .next t ∧
        t.ring n = { s.ring n with log2n := v.toNat % 32, en := true, tail := 0, accept := 0, state := 0, cause := 0 }) ∧
      ((s.ring n).en = true → ∃ t : State, exec (.ringEnable n v) s = .next t ∧ t.ring n = { s.ring n with en := v.getLsbD 8 })) ∧
    (∀ n, s.recovering = false → n < 128 → ((s.ring n).state = 2 → ∃ t : State, exec (.ringResume n) s = .next t ∧
        t.ring n = { s.ring n with state := 0, cause := 0 }) ∧
      ((s.ring n).state ≠ 2 → exec (.ringResume n) s = .next s)) ∧
    (∀ n, n < 128 → (s.ring n).en = true → (s.ring n).state ≠ 2 → (s.ring n).accept < (s.ring n).tail →
      let a := (s.ring n).rbase.toNat + 128 * ((s.ring n).accept % 2 ^ (s.ring n).log2n)
      let seq := s.homeNat a 8
      (s.badAt a 128 = true → exec (.ringRecord n) s = .next s) ∧
      (s.badAt a 128 = false → seq ≠ (s.ring n).accept + 1 → ∃ t : State, exec (.ringRecord n) s = .next t ∧
        t.ring n = { s.ring n with state := 2, cause := if (s.ring n).accept + 1 < seq then 1 else 2 } ∧ SameMemory s t) ∧
      (∀ u x, s.badAt a 128 = false → seq = (s.ring n).accept + 1 → s.submitRecord n a = (u, x) →
        (x = 2 ^ 63 + 0x10 → ∃ t : State, exec (.ringRecord n) s = .next t ∧ t.ring n = { s.ring n with state := 1 } ∧ SameMemory s t) ∧
        (x ≠ 2 ^ 63 + 0x10 → ∃ t : State, exec (.ringRecord n) s = .next t ∧ t.hearths = u.hearths ∧
          t.ring n = { s.ring n with state := 0, accept := (s.ring n).accept + 1 }))) ∧
    (s.recovering = true → (∀ n v, exec (.ringTailWrite n v) s = .next s ∧ exec (.ringEnable n v) s = .next s ∧
        exec (.ringResume n) s = .next s) ∧
      (∀ port addr data, addr ≠ 2 ^ 51 + 2 ^ 32 → exec (.hostWrite ⟨port, addr⟩ data) s = .next s) ∧
      (∀ port addr size, addr < 2 ^ 51 + 2 ^ 32 → ∃ t : State, exec (.hostRead ⟨port, addr⟩ size) s = .next t ∧
        t.pkg.reports = s.pkg.reports ++ [[]] ∧ SameMemory s t)) ∧
    (∀ port data, ∃ t : State, exec (.hostWrite ⟨port, 2 ^ 51 + 2 ^ 32⟩ data) s = .next t ∧
      Table.get 0 t.pkg.bar2 port = leNat (data.take 8) ∧ SameMemory s t) ∧
    (∀ port addr data, s.recovering = false → s.inBar2 port addr data.length = true → s.bad = [] → ∃ t : State,
      exec (.hostWrite ⟨port, addr⟩ data) s = .next t ∧ (∀ k, k < data.length → data[k]? = some (t.homeByte (addr + k))) ∧
      ∀ a, a < addr ∨ addr + data.length ≤ a → t.homeByte a = s.homeByte a) ∧
    (∀ port addr data, addr < 2 ^ 51 → s.inBar2 port addr data.length = false → exec (.hostWrite ⟨port, addr⟩ data) s = .next s) ∧
    (∀ port n data, port < 2 → n < 128 → exec (.hostWrite ⟨port, 2 ^ 51 + 0x10000 + 64 * n + 0x10⟩ data) s =
      exec (.ringTailWrite n (BitVec.ofNat 64 (leNat (data.take 8)))) s) ∧
    (∀ port, ∃ t : State, exec (.hostRead ⟨port, 2 ^ 51 + 2 ^ 32⟩ 8) s = .next t ∧ t.pkg.reports = s.pkg.reports ++ [bytesOf s.pkg.harvest 8]) ∧
    (∀ port addr size, s.recovering = false → s.inBar2 port addr size = true → s.badAt addr size = false → ∃ t : State,
      exec (.hostRead ⟨port, addr⟩ size) s = .next t ∧ t.pkg.reports = s.pkg.reports ++ [s.homeBytes addr size] ∧ SameMemory s t) ∧
    (∀ i, i < 16 → ((s.handlerWords i).all handlerWord = true → s.bad = [] → ∃ t : State, exec (.ahloadLoad i) s = .next t ∧
        (Table.get [] t.pkg.handlers (16 + i)).head? = some ⟨some (s.handlerWords i), s.cycle, s.fresh⟩ ∧
        (Table.get [] t.pkg.handlers (16 + i)).tail = Table.get [] s.pkg.handlers (16 + i) ∧ t.pkg.ahBad.getLsbD i = false) ∧
      ((s.handlerWords i).all handlerWord = false → ∃ t : State, exec (.ahloadLoad i) s = .next t ∧ t.pkg.handlers = s.pkg.handlers ∧
        t.pkg.ahBad.getLsbD i = true) ∧
      (∃ t : State, exec (.ahloadUnload i) s = .next t ∧ (Table.get [] t.pkg.handlers (16 + i)).head? = some ⟨none, s.cycle, s.fresh⟩)) ∧
    (∀ i v, i ≤ 155 → (Table.find s.pkg.islceil i = none → ∃ t : State, exec (.islceilWrite i v) s = .next t ∧
        Table.find t.pkg.islceil i = some v) ∧
      (∀ w, Table.find s.pkg.islceil i = some w → exec (.islceilWrite i v) s = .next s)) ∧
    (∀ i power, i ≤ 155 → let l := (power :: Table.get [] s.pkg.samples i).take 100
      ∃ t : State, exec (.islandPowerSample i power) s = .next t ∧ Table.get [] t.pkg.samples i = l ∧
      (s.floorHeld i = true ∨ i = 154 → t.islandFreq i = islandNominal i) ∧
      (s.floorHeld i = false → i ≠ 154 → (Table.get 0 s.pkg.islceil i).toNat < l.sum / l.length → 0 < s.islandFreq i → t.islandFreq i < s.islandFreq i) ∧
      (s.floorHeld i = false → i ≠ 154 → l.sum / l.length ≤ (Table.get 0 s.pkg.islceil i).toNat → s.islandFreq i < islandNominal i →
        s.islandFreq i < t.islandFreq i ∧ t.islandFreq i ≤ islandNominal i)) ∧
    (∀ place, exec (.scrub place none) s = .next s ∧
      ∃ t : State, exec (.scrub place (some false)) s = .next t ∧ t.pkg.corrected = s.pkg.corrected + 1 ∧ SameMemory s t) ∧
    (∀ addr, (s.populated addr = true → ∃ t : State, exec (.scrub (.home addr) (some true)) s = .next t ∧ t.badAt addr 1 = true ∧
        SameMemory s t) ∧
      ∀ h, s.holdsWord h addr = true → ∃ t : State, exec (.scrub (.l2 h addr) (some true)) s = .next t ∧
        (t.hearth h).bad.contains (addr / 8) = true ∧ SameMemory s t) ∧
    (∀ e ∈ s.flue.store, ∃ t : State, exec (.scrub (.store e.flit.sid e.flit.dst e.flit.seq) (some true)) s = .next t ∧
      { e with bad := true } ∈ t.flue.store ∧ SameMemory s t) ∧
    (∀ pkg spare, ∃ t : State, exec (.packageFailover pkg spare) s = .next t ∧ Table.find t.flue.remap pkg = some spare ∧
      ∀ e ∈ t.flue.table, sidPkg e.sid ≠ pkg) ∧
    (∃ t : State, exec .deviceReset s = .next t ∧ t.slots = [] ∧ t.cores = [] ∧ t.tags = [] ∧ t.home = s.home ∧ t.clock = s.clock ∧
      t.pkg.harvest = s.pkg.harvest ∧ t.pkg.islceil = [] ∧ ∀ n, t.ring n = Ring.reset) ∧
    (∀ image, s.pkg.bootState = 1 ∨ s.pkg.bootState = 3 → exec (.boot image) s = .next s) ∧
    (∀ image, s.pkg.bootState ≠ 1 → s.pkg.bootState ≠ 3 →
      let ok := Config.shake256 (Config.imageKey image) 32 = Config.fusedKeyDigest ∧
        Config.ed448Verify (Config.imageKey image) (Config.shake256 (Config.imageBody image) 64) (Config.imageSignature image) = true ∧
        Config.fusedVersion ≤ Config.imageVersion image
      (ok → ∃ t : State, exec (.boot image) s = .next t ∧
        ((∀ i, i < 156 → Table.find s.pkg.islceil i ≠ none) → 3600000 < s.powerSum → t.pkg.bootState = 3) ∧
        ((∃ i, i < 156 ∧ Table.find s.pkg.islceil i = none) ∨ s.powerSum ≤ 3600000 → t.pkg.bootState = 1) ∧
        t.pkg.fwDigest = Config.shake256 (Config.imageBody image) 64) ∧
      (¬ ok → ∃ t : State, exec (.boot image) s = .next t ∧ t.pkg.bootState = 2)) ∧
    (∀ nonce, nonce.length = 32 → s.pkg.fwDigest.length = 64 → ∃ (t : State) (r : List Byte),
      exec (.attestationRequest nonce) s = .next t ∧ t.pkg.reports = s.pkg.reports ++ [r] ∧ r.length = 0x11A ∧ r.take 32 = nonce ∧
      r[0x59]? = some (if s.pkg.harvest.toNat / 2 ^ 32 % 2 ^ 8 = 0 then 0 else 1) ∧ (r.drop 0x60).take 64 = s.pkg.fwDigest) ∧
    (∀ core, core < 2048 →
      ((s.slot (16 * core)).mode = .running → (s.core core).resetting = false → ∃ t : State, exec (.coreReset core) s = .next t ∧
        (t.core core).resetting = true ∧ t.slots = s.slots) ∧
      ((s.slot (16 * core)).mode ≠ .running ∨ (s.core core).resetting = true → ∃ t : State, exec (.coreReset core) s = .next t ∧
        t.core core = { Core.reset with closed := (s.clamp (core / 16)).out })) ∧
    (∀ clamp, clamp < 128 → (∃ t : State, exec (.powerGate clamp true) s = .next t ∧ (t.clamp clamp).gated = true ∧ (t.clamp clamp).tlb = []) ∧
      (∃ t : State, exec (.powerGate clamp false) s = .next t ∧ (t.clamp clamp).gated = false ∧ (t.clamp clamp).tlb = (s.clamp clamp).tlb))

/-! ## The machine -/

/-- R27, R28, R48, R85: the checks that come before the effect of every instruction. An illegal word takes ILL; an instruction of the
rotation waits for its slot's own frame; an empty source parks the slot; the latency of an x source and an outstanding fill of a destination
make it wait; an ILL or a PRIV that no operand decides comes before these waits (the model's choice, log 20). -/
def Obligations.EveryInstructionChecks : Prop :=
  ∀ (i : Instr) (s : State), (encode i).isSome = true →
    let now := s.cycleOf (coreOf s.cur)
    (s.legalIn s.cur i = false → exec i s = .next (s.ill i)) ∧
    (s.legalIn s.cur i = true →
      (s.inFrame = false → (uses i).heavy = true → (∃ f, s.myCore.frameOf s.cur = some f ∧ f.frozen = false) →
        exec i s = .next (s.waits i s)) ∧
      (s.frameBusy i = false →
        (∀ r, s.inFrame = false → (uses i).xs.find? (fun r => !s.me.fullX r) = some r →
          exec i s = .next (s.waits i (s.upd (fun p => p.parkOn s.dtime (.reg r.toNat))))) ∧
        (∀ v, s.inFrame = false → (∀ r ∈ (uses i).xs, s.me.fullX r = true) →
          (uses i).vs.find? (fun v => !s.me.presentAt now v) = some v →
          exec i s = .next (s.waits i (s.upd (fun p => p.parkOn s.dtime (.vreg v.toNat))))) ∧
        ((∀ r ∈ (uses i).xs, s.me.fullX r = true) → (∀ v ∈ (uses i).vs, s.me.presentAt now v = true) →
          ((∃ r ∈ (uses i).xs, s.me.ran now r.toNat = false) ∨ (∃ r ∈ (uses i).xd, s.me.fillX r.toNat = true) ∨ ∃ v ∈ (uses i).vd, s.me.fillV v.toNat = true) →
          exec i s = .next (s.waits i s)))) ∧
    (∀ t : State, (s.me.illHere i = true → s.waits i t = s.ill i) ∧
      (s.me.illHere i = false → s.privHere i = true → s.waits i t = s.privFault i) ∧
      (s.me.illHere i = false → s.privHere i = false → s.waits i t = t))

/-- R16, R41, R47, R109: on the turn of a core whose slot has nothing to do before it, the step runs the instruction that the word at the PC
decodes to, or takes ILL when it decodes to none; words of each family, written out from the encodings of the spec, decode to their
instructions. -/
def Obligations.StepRunsDecoded : Prop :=
  (∀ (s u v : State) (core w : Nat), s.agenda = [] → due s = none → s.todo.head? = some core →
    u = { s with todo := s.todo.filter (fun c => c != core), cur := 16 * core + s.cycleOf core % 16, lent := false, inFrame := false } →
    u.me.mode = .running → u.me.haltRequest = false → u.me.overdue u.dtime 1 = false → u.me.overdue u.dtime 2 = false →
    u.me.trapWait = none → u.me.deferred = [] → u.me.barrier = none → u.me.remoteTag = none → u.me.park = none → u.me.yielded = false →
    u.me.userPending = false →
    u.fetch u.cur u.me.pc = (v, .word w) →
    (∀ i, readWord w = some i → (v.legalIn v.cur i && v.late i) = false → step s = exec i (v.markPipe i)) ∧
    (∀ i, readWord w = some i → v.legalIn v.cur i = true → v.late i = true → step s = .next v) ∧
    (readWord w = none → step s = exec (.illegalWord (BitVec.ofNat 32 w)) v)) ∧
  (∀ (s : State) (slot : Nat), let p := s.slot slot
    let l := globalLocal (p.seg 0).base + p.pc.toNat
    p.seg 0 ≠ Seg.empty → (p.seg 0).rights.getLsbD 2 = true → (p.seg 0).rights.getLsbD 7 = true → globalPkg (p.seg 0).base = s.pkg.number →
    p.pc.toNat % 4 = 0 → p.pc.toNat + 3 ≤ (p.seg 0).limit.toNat → l < 2 ^ 51 → s.populated l = true → s.populated (l + 3) = true →
    p.overlays = [] → p.sb = [] → s.bad = [] →
    s.fetch slot p.pc = (s, .word (leNat (s.hearthBytes (hearthOf slot) l 4)))) ∧
  decode 0x09CA4010 = .ok (.add 7 2 9 .w32) ∧ decode 0x0D37FFF9 = .ok (.addi 4 13 0x3FFF9) ∧ decode 0x24C00008 = .ok (.movw 3 0 false 8) ∧
  decode 0x34848005 = .ok (.bc .lt 1 2 5) ∧ decode 0x4C000000 = .ok .burne ∧ decode 0x555927FE = .ok (.ldn 5 6 2 .b32 true 0x3FE) ∧
  decode 0x89008014 = .ok (.vfma 8 0 16 .f32 false) ∧ decode 0xB4CA8010 = .ok (.kmma 3 2 10 0 false true) ∧
  decode 0xC0C0001B = .ok (.cpy 3 .ar .pkg) ∧ decode 0xCA400100 = .ok (.mtick 9)

/-- R42, R43, R47, R48: the encoder and the decoder agree on every well-formed instruction with every operand at every value, and a word that
decodes is the word of its instruction: no word has two meanings, and no reserved bit is dropped. -/
def Obligations.EncodingsRoundTrip : Prop :=
  (∀ (i : Instr) (w : Nat), wellFormed i = true → encode i = some w → w < 2 ^ 32 ∧ decode w = .ok i) ∧
  (∀ (w : Nat) (i : Instr), decode w = .ok i → wellFormed i = true ∧ encode i = some w)

/-- R36, R37, R351: after reset every per-slot control register reads 0, every tag full, every ring register 0; memory is in its canonical
form and the L2s are in order. That STATUS, LID, RCBA and the other registers without a reset value in the spec are 0 is the model's choice
(log 1). -/
def Obligations.ResetState : Prop :=
  Safe State.reset ∧ L2Ordered State.reset ∧ (∀ k, (State.reset.slot k).ctl = Ctl.zero) ∧ (∀ a, State.reset.homeTag a = true) ∧
  (∀ n, State.reset.ring n = Ring.reset) ∧ (∀ c, (State.reset.core c).part = 0 ∧ (State.reset.core c).accown = 0) ∧
  State.reset.pkg.timest = 0 ∧ State.reset.pkg.tickctl = 0

/-- Every step keeps home memory and the tags in canonical form (keys rise strictly and no entry holds what an unlisted address reads as),
and keeps the dirty bytes and tags of every L2 in order, one entry each. -/
def Obligations.StepKeepsMemory : Prop :=
  ∀ s t : State, step s = .next t → (Safe s → Safe t) ∧ (L2Ordered s → L2Ordered t)
end

