-- ==== Sys2Proof/Laws/Tables.lean ====
section
/-! SUPPORT. Reading a sparse table after a write, and its canonical form. -/
namespace Sys2Proof.Machine.Table
variable {α : Type}

theorem find_put_self (t : Table α) (k : Nat) (v : α) : find (put t k v) k = some v := by
  induction t with
  | nil => simp [put, find]
  | cons e r ih =>
    obtain ⟨a, w⟩ := e
    simp only [put]
    split
    · simp [find]
    · split
      · simp [find]
      · rename_i h; simp [find, Ne.symm h, ih]

theorem find_put_ne (t : Table α) (k j : Nat) (v : α) (h : j ≠ k) : find (put t k v) j = find t j := by
  induction t with
  | nil => simp [put, find, Ne.symm h]
  | cons e r ih =>
    obtain ⟨a, w⟩ := e
    simp only [put]
    split
    · simp [find, Ne.symm h]
    · split
      · rename_i h2; subst h2; simp [find, Ne.symm h]
      · simp only [find, ih]

theorem find_put (t : Table α) (k j : Nat) (v : α) : find (put t k v) j = if j = k then some v else find t j := by
  by_cases h : j = k
  · rw [h, if_pos rfl, find_put_self]
  · rw [if_neg h, find_put_ne t k j v h]

theorem get_put (d : α) (t : Table α) (k j : Nat) (v : α) : get d (put t k v) j = if j = k then v else get d t j := by
  simp only [get, find_put]
  split <;> rfl

theorem get_put_self (d : α) (t : Table α) (k : Nat) (v : α) : get d (put t k v) k = v := by simp [get_put]

theorem put_put (t : Table α) (k : Nat) (v w : α) : put (put t k v) k w = put t k w := by
  induction t with
  | nil => simp [put]
  | cons e r ih =>
    obtain ⟨a, u⟩ := e
    simp only [put]
    split
    · simp [put]
    · split
      · simp [put]
      · rename_i h1 h2; simp [put, h1, h2, ih]

/-! ## Rising keys -/

/-- Every key of the table lies above `a`. -/
def above (a : Nat) (t : Table α) : Prop := ∀ e ∈ t, a < e.1

theorem sorted_cons (a : Nat) (v : α) (r : Table α) : sorted ((a, v) :: r) = true ↔ above a r ∧ sorted r = true := by
  induction r generalizing a v with
  | nil => simp [sorted, above]
  | cons e r ih =>
    obtain ⟨b, w⟩ := e
    rw [sorted, Bool.and_eq_true, ih, decide_eq_true_eq]
    constructor
    · rintro ⟨h1, h2, h3⟩
      refine ⟨fun e he => ?_, h2, h3⟩
      rcases List.mem_cons.1 he with rfl | he
      · exact h1
      · exact Nat.lt_trans h1 (h2 e he)
    · rintro ⟨h1, h2, h3⟩
      exact ⟨h1 _ List.mem_cons_self, h2, h3⟩

theorem above_put (a : Nat) (t : Table α) (k : Nat) (v : α) (h : above a t) (hk : a < k) : above a (put t k v) := by
  induction t with
  | nil => intro e he; simp [put] at he; subst he; exact hk
  | cons e r ih =>
    obtain ⟨b, w⟩ := e
    have hr : above a r := fun e he => h e (List.mem_cons_of_mem _ he)
    have hb : a < b := h _ List.mem_cons_self
    intro e he
    simp only [put] at he
    split at he
    · rcases List.mem_cons.1 he with rfl | he
      · exact hk
      · exact h e he
    · split at he
      · rcases List.mem_cons.1 he with rfl | he
        · exact hk
        · exact hr e he
      · rcases List.mem_cons.1 he with rfl | he
        · exact hb
        · exact ih hr e he

theorem sorted_put (t : Table α) (k : Nat) (v : α) (h : sorted t = true) : sorted (put t k v) = true := by
  induction t with
  | nil => rfl
  | cons e r ih =>
    obtain ⟨a, w⟩ := e
    obtain ⟨h1, h2⟩ := (sorted_cons a w r).1 h
    simp only [put]
    split
    · rename_i hk
      rw [sorted_cons]
      refine ⟨fun e he => ?_, h⟩
      rcases List.mem_cons.1 he with rfl | he
      · exact hk
      · exact Nat.lt_trans hk (h1 e he)
    · split
      · rename_i hk; subst hk; exact (sorted_cons _ _ _).2 ⟨h1, h2⟩
      · rename_i n1 n2
        exact (sorted_cons _ _ _).2 ⟨above_put a r k v h1 (by omega), ih h2⟩

theorem above_filter (p : Nat × α → Bool) (a : Nat) (t : Table α) (h : above a t) : above a (t.filter p) :=
  fun e he => h e (List.mem_filter.1 he).1

theorem sorted_filter (p : Nat × α → Bool) (t : Table α) (h : sorted t = true) : sorted (t.filter p) = true := by
  induction t with
  | nil => rfl
  | cons e r ih =>
    obtain ⟨a, v⟩ := e
    obtain ⟨h1, h2⟩ := (sorted_cons a v r).1 h
    rw [List.filter_cons]
    split
    · exact (sorted_cons a v _).2 ⟨above_filter p a r h1, ih h2⟩
    · exact ih h2

/-- A map that keeps the keys keeps their order. -/
theorem sorted_map (f : Nat × α → Nat × α) (hf : ∀ e, (f e).1 = e.1) (t : Table α) (h : sorted t = true) : sorted (t.map f) = true := by
  induction t with
  | nil => rfl
  | cons e r ih =>
    obtain ⟨a, v⟩ := e
    obtain ⟨h1, h2⟩ := (sorted_cons a v r).1 h
    rw [List.map_cons, show f (a, v) = ((f (a, v)).1, (f (a, v)).2) from rfl, hf (a, v)]
    refine (sorted_cons a _ _).2 ⟨fun x hx => ?_, ih h2⟩
    obtain ⟨y, hy, rfl⟩ := List.mem_map.1 hx
    rw [hf y]; exact h1 y hy

theorem mem_del (t : Table α) (k : Nat) (e : Nat × α) (h : e ∈ del t k) : e ∈ t := (List.mem_filter.1 h).1

theorem sorted_del (t : Table α) (k : Nat) (h : sorted t = true) : sorted (del t k) = true := sorted_filter _ t h

theorem mem_of_find (t : Table α) (k : Nat) (v : α) (h : find t k = some v) : (k, v) ∈ t := by
  induction t with
  | nil => cases h
  | cons e r ih =>
    obtain ⟨a, w⟩ := e
    rw [find] at h
    split at h
    · rename_i hk; cases h; subst hk; exact List.mem_cons_self
    · exact List.mem_cons_of_mem _ (ih h)

theorem mem_put (t : Table α) (k : Nat) (v : α) (e : Nat × α) (h : e ∈ put t k v) : e = (k, v) ∨ e ∈ t := by
  induction t with
  | nil => simp [put] at h; exact .inl h
  | cons f r ih =>
    obtain ⟨a, w⟩ := f
    simp only [put] at h
    split at h
    · rcases List.mem_cons.1 h with rfl | h
      · exact .inl rfl
      · exact .inr h
    · split at h
      · rcases List.mem_cons.1 h with rfl | h
        · exact .inl rfl
        · exact .inr (List.mem_cons_of_mem _ h)
      · rcases List.mem_cons.1 h with rfl | h
        · exact .inr List.mem_cons_self
        · rcases ih h with h | h
          · exact .inl h
          · exact .inr (List.mem_cons_of_mem _ h)

/-- A write keeps the canonical form. -/
theorem wf_set [DecidableEq α] (d : α) (t : Table α) (k : Nat) (v : α) (h : wf d t = true) : wf d (set d t k v) = true := by
  simp only [wf, Bool.and_eq_true, List.all_eq_true, decide_eq_true_eq] at h ⊢
  rw [set]
  split
  · exact ⟨sorted_del t k h.1, fun e he => h.2 e (mem_del t k e he)⟩
  · refine ⟨sorted_put t k v h.1, fun e he => ?_⟩
    rcases mem_put t k v e he with rfl | he
    · assumption
    · exact h.2 e he

theorem find_above (a : Nat) (t : Table α) (h : above a t) : find t a = none := by
  induction t with
  | nil => rfl
  | cons e r ih =>
    obtain ⟨b, w⟩ := e
    have hb : a < b := h _ List.mem_cons_self
    simp only [find, if_neg (Nat.ne_of_gt hb)]
    exact ih (fun e he => h e (List.mem_cons_of_mem _ he))

theorem find_del (t : Table α) (k j : Nat) : find (del t k) j = if j = k then none else find t j := by
  induction t with
  | nil => simp [del, find]
  | cons e r ih =>
    obtain ⟨a, w⟩ := e
    rw [del] at ih ⊢
    rw [List.filter_cons]
    by_cases hk : a = k
    · subst hk
      simp only [bne_self_eq_false, Bool.false_eq_true, if_false, ih, find]
      by_cases hj : j = a
      · simp [hj]
      · simp [hj, Ne.symm hj]
    · simp only [bne_iff_ne, ne_eq, hk, not_false_eq_true, if_true, find, ih]
      by_cases hj : j = k
      · subst hj; simp [hk]
      · simp [hj]

theorem find_del_ne (t : Table α) (k j : Nat) (h : j ≠ k) : find (del t k) j = find t j := by rw [find_del, if_neg h]

theorem find_del_self (t : Table α) (k : Nat) : find (del t k) k = none := by rw [find_del, if_pos rfl]

/-- Reading a table after a write. -/
theorem get_set [DecidableEq α] (d : α) (t : Table α) (k j : Nat) (v : α) :
    get d (set d t k v) j = if j = k then v else get d t j := by
  rw [set]
  split
  · rename_i hv
    rw [get, find_del]
    split
    · rw [hv]; rfl
    · rfl
  · exact get_put d t k j v

end Sys2Proof.Machine.Table
end

