-- ==== Sys2Proof/Laws/State.lean ====
section
/-! SUPPORT. What each update of the state leaves alone, one lemma a field, and what the accessors read after it. -/
namespace Sys2Proof.Machine

@[simp] theorem State.setSlot_agenda (s : State) (k : Nat) (x : Slot) : (s.setSlot k x).agenda = s.agenda := rfl
@[simp] theorem State.setSlot_fresh (s : State) (k : Nat) (x : Slot) : (s.setSlot k x).fresh = s.fresh := rfl
@[simp] theorem State.setSlot_cur (s : State) (k : Nat) (x : Slot) : (s.setSlot k x).cur = s.cur := rfl
@[simp] theorem State.setSlot_inFrame (s : State) (k : Nat) (x : Slot) : (s.setSlot k x).inFrame = s.inFrame := rfl
@[simp] theorem State.setSlot_lent (s : State) (k : Nat) (x : Slot) : (s.setSlot k x).lent = s.lent := rfl
@[simp] theorem State.setSlot_todo (s : State) (k : Nat) (x : Slot) : (s.setSlot k x).todo = s.todo := rfl
@[simp] theorem State.setSlot_cycle (s : State) (k : Nat) (x : Slot) : (s.setSlot k x).cycle = s.cycle := rfl
@[simp] theorem State.setSlot_clock (s : State) (k : Nat) (x : Slot) : (s.setSlot k x).clock = s.clock := rfl
@[simp] theorem State.setSlot_cores (s : State) (k : Nat) (x : Slot) : (s.setSlot k x).cores = s.cores := rfl
@[simp] theorem State.setSlot_clamps (s : State) (k : Nat) (x : Slot) : (s.setSlot k x).clamps = s.clamps := rfl
@[simp] theorem State.setSlot_hearths (s : State) (k : Nat) (x : Slot) : (s.setSlot k x).hearths = s.hearths := rfl
@[simp] theorem State.setSlot_grates (s : State) (k : Nat) (x : Slot) : (s.setSlot k x).grates = s.grates := rfl
@[simp] theorem State.setSlot_home (s : State) (k : Nat) (x : Slot) : (s.setSlot k x).home = s.home := rfl
@[simp] theorem State.setSlot_tags (s : State) (k : Nat) (x : Slot) : (s.setSlot k x).tags = s.tags := rfl
@[simp] theorem State.setSlot_bad (s : State) (k : Nat) (x : Slot) : (s.setSlot k x).bad = s.bad := rfl
@[simp] theorem State.setSlot_atomics (s : State) (k : Nat) (x : Slot) : (s.setSlot k x).atomics = s.atomics := rfl
@[simp] theorem State.setSlot_reductions (s : State) (k : Nat) (x : Slot) : (s.setSlot k x).reductions = s.reductions := rfl
@[simp] theorem State.setSlot_flights (s : State) (k : Nat) (x : Slot) : (s.setSlot k x).flights = s.flights := rfl
@[simp] theorem State.setSlot_pkg (s : State) (k : Nat) (x : Slot) : (s.setSlot k x).pkg = s.pkg := rfl
@[simp] theorem State.setSlot_flue (s : State) (k : Nat) (x : Slot) : (s.setSlot k x).flue = s.flue := rfl

@[simp] theorem State.upd_agenda (s : State) (f : Slot → Slot) : (s.upd f).agenda = s.agenda := rfl
@[simp] theorem State.upd_fresh (s : State) (f : Slot → Slot) : (s.upd f).fresh = s.fresh := rfl
@[simp] theorem State.upd_cur (s : State) (f : Slot → Slot) : (s.upd f).cur = s.cur := rfl
@[simp] theorem State.upd_inFrame (s : State) (f : Slot → Slot) : (s.upd f).inFrame = s.inFrame := rfl
@[simp] theorem State.upd_lent (s : State) (f : Slot → Slot) : (s.upd f).lent = s.lent := rfl
@[simp] theorem State.upd_todo (s : State) (f : Slot → Slot) : (s.upd f).todo = s.todo := rfl
@[simp] theorem State.upd_cycle (s : State) (f : Slot → Slot) : (s.upd f).cycle = s.cycle := rfl
@[simp] theorem State.upd_clock (s : State) (f : Slot → Slot) : (s.upd f).clock = s.clock := rfl
@[simp] theorem State.upd_cores (s : State) (f : Slot → Slot) : (s.upd f).cores = s.cores := rfl
@[simp] theorem State.upd_clamps (s : State) (f : Slot → Slot) : (s.upd f).clamps = s.clamps := rfl
@[simp] theorem State.upd_hearths (s : State) (f : Slot → Slot) : (s.upd f).hearths = s.hearths := rfl
@[simp] theorem State.upd_grates (s : State) (f : Slot → Slot) : (s.upd f).grates = s.grates := rfl
@[simp] theorem State.upd_home (s : State) (f : Slot → Slot) : (s.upd f).home = s.home := rfl
@[simp] theorem State.upd_tags (s : State) (f : Slot → Slot) : (s.upd f).tags = s.tags := rfl
@[simp] theorem State.upd_bad (s : State) (f : Slot → Slot) : (s.upd f).bad = s.bad := rfl
@[simp] theorem State.upd_atomics (s : State) (f : Slot → Slot) : (s.upd f).atomics = s.atomics := rfl
@[simp] theorem State.upd_reductions (s : State) (f : Slot → Slot) : (s.upd f).reductions = s.reductions := rfl
@[simp] theorem State.upd_flights (s : State) (f : Slot → Slot) : (s.upd f).flights = s.flights := rfl
@[simp] theorem State.upd_pkg (s : State) (f : Slot → Slot) : (s.upd f).pkg = s.pkg := rfl
@[simp] theorem State.upd_flue (s : State) (f : Slot → Slot) : (s.upd f).flue = s.flue := rfl

@[simp] theorem State.updSlot_agenda (s : State) (k : Nat) (f : Slot → Slot) : (s.updSlot k f).agenda = s.agenda := rfl
@[simp] theorem State.updSlot_fresh (s : State) (k : Nat) (f : Slot → Slot) : (s.updSlot k f).fresh = s.fresh := rfl
@[simp] theorem State.updSlot_cur (s : State) (k : Nat) (f : Slot → Slot) : (s.updSlot k f).cur = s.cur := rfl
@[simp] theorem State.updSlot_inFrame (s : State) (k : Nat) (f : Slot → Slot) : (s.updSlot k f).inFrame = s.inFrame := rfl
@[simp] theorem State.updSlot_lent (s : State) (k : Nat) (f : Slot → Slot) : (s.updSlot k f).lent = s.lent := rfl
@[simp] theorem State.updSlot_todo (s : State) (k : Nat) (f : Slot → Slot) : (s.updSlot k f).todo = s.todo := rfl
@[simp] theorem State.updSlot_cycle (s : State) (k : Nat) (f : Slot → Slot) : (s.updSlot k f).cycle = s.cycle := rfl
@[simp] theorem State.updSlot_clock (s : State) (k : Nat) (f : Slot → Slot) : (s.updSlot k f).clock = s.clock := rfl
@[simp] theorem State.updSlot_cores (s : State) (k : Nat) (f : Slot → Slot) : (s.updSlot k f).cores = s.cores := rfl
@[simp] theorem State.updSlot_clamps (s : State) (k : Nat) (f : Slot → Slot) : (s.updSlot k f).clamps = s.clamps := rfl
@[simp] theorem State.updSlot_hearths (s : State) (k : Nat) (f : Slot → Slot) : (s.updSlot k f).hearths = s.hearths := rfl
@[simp] theorem State.updSlot_grates (s : State) (k : Nat) (f : Slot → Slot) : (s.updSlot k f).grates = s.grates := rfl
@[simp] theorem State.updSlot_home (s : State) (k : Nat) (f : Slot → Slot) : (s.updSlot k f).home = s.home := rfl
@[simp] theorem State.updSlot_tags (s : State) (k : Nat) (f : Slot → Slot) : (s.updSlot k f).tags = s.tags := rfl
@[simp] theorem State.updSlot_bad (s : State) (k : Nat) (f : Slot → Slot) : (s.updSlot k f).bad = s.bad := rfl
@[simp] theorem State.updSlot_atomics (s : State) (k : Nat) (f : Slot → Slot) : (s.updSlot k f).atomics = s.atomics := rfl
@[simp] theorem State.updSlot_reductions (s : State) (k : Nat) (f : Slot → Slot) : (s.updSlot k f).reductions = s.reductions := rfl
@[simp] theorem State.updSlot_flights (s : State) (k : Nat) (f : Slot → Slot) : (s.updSlot k f).flights = s.flights := rfl
@[simp] theorem State.updSlot_pkg (s : State) (k : Nat) (f : Slot → Slot) : (s.updSlot k f).pkg = s.pkg := rfl
@[simp] theorem State.updSlot_flue (s : State) (k : Nat) (f : Slot → Slot) : (s.updSlot k f).flue = s.flue := rfl

@[simp] theorem State.setCore_agenda (s : State) (k : Nat) (x : Core) : (s.setCore k x).agenda = s.agenda := rfl
@[simp] theorem State.setCore_fresh (s : State) (k : Nat) (x : Core) : (s.setCore k x).fresh = s.fresh := rfl
@[simp] theorem State.setCore_cur (s : State) (k : Nat) (x : Core) : (s.setCore k x).cur = s.cur := rfl
@[simp] theorem State.setCore_inFrame (s : State) (k : Nat) (x : Core) : (s.setCore k x).inFrame = s.inFrame := rfl
@[simp] theorem State.setCore_lent (s : State) (k : Nat) (x : Core) : (s.setCore k x).lent = s.lent := rfl
@[simp] theorem State.setCore_todo (s : State) (k : Nat) (x : Core) : (s.setCore k x).todo = s.todo := rfl
@[simp] theorem State.setCore_cycle (s : State) (k : Nat) (x : Core) : (s.setCore k x).cycle = s.cycle := rfl
@[simp] theorem State.setCore_clock (s : State) (k : Nat) (x : Core) : (s.setCore k x).clock = s.clock := rfl
@[simp] theorem State.setCore_slots (s : State) (k : Nat) (x : Core) : (s.setCore k x).slots = s.slots := rfl
@[simp] theorem State.setCore_clamps (s : State) (k : Nat) (x : Core) : (s.setCore k x).clamps = s.clamps := rfl
@[simp] theorem State.setCore_hearths (s : State) (k : Nat) (x : Core) : (s.setCore k x).hearths = s.hearths := rfl
@[simp] theorem State.setCore_grates (s : State) (k : Nat) (x : Core) : (s.setCore k x).grates = s.grates := rfl
@[simp] theorem State.setCore_home (s : State) (k : Nat) (x : Core) : (s.setCore k x).home = s.home := rfl
@[simp] theorem State.setCore_tags (s : State) (k : Nat) (x : Core) : (s.setCore k x).tags = s.tags := rfl
@[simp] theorem State.setCore_bad (s : State) (k : Nat) (x : Core) : (s.setCore k x).bad = s.bad := rfl
@[simp] theorem State.setCore_atomics (s : State) (k : Nat) (x : Core) : (s.setCore k x).atomics = s.atomics := rfl
@[simp] theorem State.setCore_reductions (s : State) (k : Nat) (x : Core) : (s.setCore k x).reductions = s.reductions := rfl
@[simp] theorem State.setCore_flights (s : State) (k : Nat) (x : Core) : (s.setCore k x).flights = s.flights := rfl
@[simp] theorem State.setCore_pkg (s : State) (k : Nat) (x : Core) : (s.setCore k x).pkg = s.pkg := rfl
@[simp] theorem State.setCore_flue (s : State) (k : Nat) (x : Core) : (s.setCore k x).flue = s.flue := rfl

@[simp] theorem State.updCore_agenda (s : State) (k : Nat) (f : Core → Core) : (s.updCore k f).agenda = s.agenda := rfl
@[simp] theorem State.updCore_fresh (s : State) (k : Nat) (f : Core → Core) : (s.updCore k f).fresh = s.fresh := rfl
@[simp] theorem State.updCore_cur (s : State) (k : Nat) (f : Core → Core) : (s.updCore k f).cur = s.cur := rfl
@[simp] theorem State.updCore_inFrame (s : State) (k : Nat) (f : Core → Core) : (s.updCore k f).inFrame = s.inFrame := rfl
@[simp] theorem State.updCore_lent (s : State) (k : Nat) (f : Core → Core) : (s.updCore k f).lent = s.lent := rfl
@[simp] theorem State.updCore_todo (s : State) (k : Nat) (f : Core → Core) : (s.updCore k f).todo = s.todo := rfl
@[simp] theorem State.updCore_cycle (s : State) (k : Nat) (f : Core → Core) : (s.updCore k f).cycle = s.cycle := rfl
@[simp] theorem State.updCore_clock (s : State) (k : Nat) (f : Core → Core) : (s.updCore k f).clock = s.clock := rfl
@[simp] theorem State.updCore_slots (s : State) (k : Nat) (f : Core → Core) : (s.updCore k f).slots = s.slots := rfl
@[simp] theorem State.updCore_clamps (s : State) (k : Nat) (f : Core → Core) : (s.updCore k f).clamps = s.clamps := rfl
@[simp] theorem State.updCore_hearths (s : State) (k : Nat) (f : Core → Core) : (s.updCore k f).hearths = s.hearths := rfl
@[simp] theorem State.updCore_grates (s : State) (k : Nat) (f : Core → Core) : (s.updCore k f).grates = s.grates := rfl
@[simp] theorem State.updCore_home (s : State) (k : Nat) (f : Core → Core) : (s.updCore k f).home = s.home := rfl
@[simp] theorem State.updCore_tags (s : State) (k : Nat) (f : Core → Core) : (s.updCore k f).tags = s.tags := rfl
@[simp] theorem State.updCore_bad (s : State) (k : Nat) (f : Core → Core) : (s.updCore k f).bad = s.bad := rfl
@[simp] theorem State.updCore_atomics (s : State) (k : Nat) (f : Core → Core) : (s.updCore k f).atomics = s.atomics := rfl
@[simp] theorem State.updCore_reductions (s : State) (k : Nat) (f : Core → Core) : (s.updCore k f).reductions = s.reductions := rfl
@[simp] theorem State.updCore_flights (s : State) (k : Nat) (f : Core → Core) : (s.updCore k f).flights = s.flights := rfl
@[simp] theorem State.updCore_pkg (s : State) (k : Nat) (f : Core → Core) : (s.updCore k f).pkg = s.pkg := rfl
@[simp] theorem State.updCore_flue (s : State) (k : Nat) (f : Core → Core) : (s.updCore k f).flue = s.flue := rfl

@[simp] theorem State.updClamp_agenda (s : State) (k : Nat) (f : Clamp → Clamp) : (s.updClamp k f).agenda = s.agenda := rfl
@[simp] theorem State.updClamp_fresh (s : State) (k : Nat) (f : Clamp → Clamp) : (s.updClamp k f).fresh = s.fresh := rfl
@[simp] theorem State.updClamp_cur (s : State) (k : Nat) (f : Clamp → Clamp) : (s.updClamp k f).cur = s.cur := rfl
@[simp] theorem State.updClamp_inFrame (s : State) (k : Nat) (f : Clamp → Clamp) : (s.updClamp k f).inFrame = s.inFrame := rfl
@[simp] theorem State.updClamp_lent (s : State) (k : Nat) (f : Clamp → Clamp) : (s.updClamp k f).lent = s.lent := rfl
@[simp] theorem State.updClamp_todo (s : State) (k : Nat) (f : Clamp → Clamp) : (s.updClamp k f).todo = s.todo := rfl
@[simp] theorem State.updClamp_cycle (s : State) (k : Nat) (f : Clamp → Clamp) : (s.updClamp k f).cycle = s.cycle := rfl
@[simp] theorem State.updClamp_clock (s : State) (k : Nat) (f : Clamp → Clamp) : (s.updClamp k f).clock = s.clock := rfl
@[simp] theorem State.updClamp_slots (s : State) (k : Nat) (f : Clamp → Clamp) : (s.updClamp k f).slots = s.slots := rfl
@[simp] theorem State.updClamp_cores (s : State) (k : Nat) (f : Clamp → Clamp) : (s.updClamp k f).cores = s.cores := rfl
@[simp] theorem State.updClamp_hearths (s : State) (k : Nat) (f : Clamp → Clamp) : (s.updClamp k f).hearths = s.hearths := rfl
@[simp] theorem State.updClamp_grates (s : State) (k : Nat) (f : Clamp → Clamp) : (s.updClamp k f).grates = s.grates := rfl
@[simp] theorem State.updClamp_home (s : State) (k : Nat) (f : Clamp → Clamp) : (s.updClamp k f).home = s.home := rfl
@[simp] theorem State.updClamp_tags (s : State) (k : Nat) (f : Clamp → Clamp) : (s.updClamp k f).tags = s.tags := rfl
@[simp] theorem State.updClamp_bad (s : State) (k : Nat) (f : Clamp → Clamp) : (s.updClamp k f).bad = s.bad := rfl
@[simp] theorem State.updClamp_atomics (s : State) (k : Nat) (f : Clamp → Clamp) : (s.updClamp k f).atomics = s.atomics := rfl
@[simp] theorem State.updClamp_reductions (s : State) (k : Nat) (f : Clamp → Clamp) : (s.updClamp k f).reductions = s.reductions := rfl
@[simp] theorem State.updClamp_flights (s : State) (k : Nat) (f : Clamp → Clamp) : (s.updClamp k f).flights = s.flights := rfl
@[simp] theorem State.updClamp_pkg (s : State) (k : Nat) (f : Clamp → Clamp) : (s.updClamp k f).pkg = s.pkg := rfl
@[simp] theorem State.updClamp_flue (s : State) (k : Nat) (f : Clamp → Clamp) : (s.updClamp k f).flue = s.flue := rfl

@[simp] theorem State.updHearth_agenda (s : State) (k : Nat) (f : Hearth → Hearth) : (s.updHearth k f).agenda = s.agenda := rfl
@[simp] theorem State.updHearth_fresh (s : State) (k : Nat) (f : Hearth → Hearth) : (s.updHearth k f).fresh = s.fresh := rfl
@[simp] theorem State.updHearth_cur (s : State) (k : Nat) (f : Hearth → Hearth) : (s.updHearth k f).cur = s.cur := rfl
@[simp] theorem State.updHearth_inFrame (s : State) (k : Nat) (f : Hearth → Hearth) : (s.updHearth k f).inFrame = s.inFrame := rfl
@[simp] theorem State.updHearth_lent (s : State) (k : Nat) (f : Hearth → Hearth) : (s.updHearth k f).lent = s.lent := rfl
@[simp] theorem State.updHearth_todo (s : State) (k : Nat) (f : Hearth → Hearth) : (s.updHearth k f).todo = s.todo := rfl
@[simp] theorem State.updHearth_cycle (s : State) (k : Nat) (f : Hearth → Hearth) : (s.updHearth k f).cycle = s.cycle := rfl
@[simp] theorem State.updHearth_clock (s : State) (k : Nat) (f : Hearth → Hearth) : (s.updHearth k f).clock = s.clock := rfl
@[simp] theorem State.updHearth_slots (s : State) (k : Nat) (f : Hearth → Hearth) : (s.updHearth k f).slots = s.slots := rfl
@[simp] theorem State.updHearth_cores (s : State) (k : Nat) (f : Hearth → Hearth) : (s.updHearth k f).cores = s.cores := rfl
@[simp] theorem State.updHearth_clamps (s : State) (k : Nat) (f : Hearth → Hearth) : (s.updHearth k f).clamps = s.clamps := rfl
@[simp] theorem State.updHearth_grates (s : State) (k : Nat) (f : Hearth → Hearth) : (s.updHearth k f).grates = s.grates := rfl
@[simp] theorem State.updHearth_home (s : State) (k : Nat) (f : Hearth → Hearth) : (s.updHearth k f).home = s.home := rfl
@[simp] theorem State.updHearth_tags (s : State) (k : Nat) (f : Hearth → Hearth) : (s.updHearth k f).tags = s.tags := rfl
@[simp] theorem State.updHearth_bad (s : State) (k : Nat) (f : Hearth → Hearth) : (s.updHearth k f).bad = s.bad := rfl
@[simp] theorem State.updHearth_atomics (s : State) (k : Nat) (f : Hearth → Hearth) : (s.updHearth k f).atomics = s.atomics := rfl
@[simp] theorem State.updHearth_reductions (s : State) (k : Nat) (f : Hearth → Hearth) : (s.updHearth k f).reductions = s.reductions := rfl
@[simp] theorem State.updHearth_flights (s : State) (k : Nat) (f : Hearth → Hearth) : (s.updHearth k f).flights = s.flights := rfl
@[simp] theorem State.updHearth_pkg (s : State) (k : Nat) (f : Hearth → Hearth) : (s.updHearth k f).pkg = s.pkg := rfl
@[simp] theorem State.updHearth_flue (s : State) (k : Nat) (f : Hearth → Hearth) : (s.updHearth k f).flue = s.flue := rfl

@[simp] theorem State.updGrate_agenda (s : State) (k : Nat) (f : Grate → Grate) : (s.updGrate k f).agenda = s.agenda := rfl
@[simp] theorem State.updGrate_fresh (s : State) (k : Nat) (f : Grate → Grate) : (s.updGrate k f).fresh = s.fresh := rfl
@[simp] theorem State.updGrate_cur (s : State) (k : Nat) (f : Grate → Grate) : (s.updGrate k f).cur = s.cur := rfl
@[simp] theorem State.updGrate_inFrame (s : State) (k : Nat) (f : Grate → Grate) : (s.updGrate k f).inFrame = s.inFrame := rfl
@[simp] theorem State.updGrate_lent (s : State) (k : Nat) (f : Grate → Grate) : (s.updGrate k f).lent = s.lent := rfl
@[simp] theorem State.updGrate_todo (s : State) (k : Nat) (f : Grate → Grate) : (s.updGrate k f).todo = s.todo := rfl
@[simp] theorem State.updGrate_cycle (s : State) (k : Nat) (f : Grate → Grate) : (s.updGrate k f).cycle = s.cycle := rfl
@[simp] theorem State.updGrate_clock (s : State) (k : Nat) (f : Grate → Grate) : (s.updGrate k f).clock = s.clock := rfl
@[simp] theorem State.updGrate_slots (s : State) (k : Nat) (f : Grate → Grate) : (s.updGrate k f).slots = s.slots := rfl
@[simp] theorem State.updGrate_cores (s : State) (k : Nat) (f : Grate → Grate) : (s.updGrate k f).cores = s.cores := rfl
@[simp] theorem State.updGrate_clamps (s : State) (k : Nat) (f : Grate → Grate) : (s.updGrate k f).clamps = s.clamps := rfl
@[simp] theorem State.updGrate_hearths (s : State) (k : Nat) (f : Grate → Grate) : (s.updGrate k f).hearths = s.hearths := rfl
@[simp] theorem State.updGrate_home (s : State) (k : Nat) (f : Grate → Grate) : (s.updGrate k f).home = s.home := rfl
@[simp] theorem State.updGrate_tags (s : State) (k : Nat) (f : Grate → Grate) : (s.updGrate k f).tags = s.tags := rfl
@[simp] theorem State.updGrate_bad (s : State) (k : Nat) (f : Grate → Grate) : (s.updGrate k f).bad = s.bad := rfl
@[simp] theorem State.updGrate_atomics (s : State) (k : Nat) (f : Grate → Grate) : (s.updGrate k f).atomics = s.atomics := rfl
@[simp] theorem State.updGrate_reductions (s : State) (k : Nat) (f : Grate → Grate) : (s.updGrate k f).reductions = s.reductions := rfl
@[simp] theorem State.updGrate_flights (s : State) (k : Nat) (f : Grate → Grate) : (s.updGrate k f).flights = s.flights := rfl
@[simp] theorem State.updGrate_pkg (s : State) (k : Nat) (f : Grate → Grate) : (s.updGrate k f).pkg = s.pkg := rfl
@[simp] theorem State.updGrate_flue (s : State) (k : Nat) (f : Grate → Grate) : (s.updGrate k f).flue = s.flue := rfl

@[simp] theorem State.setHomeByte_agenda (s : State) (a : Nat) (b : Byte) : (s.setHomeByte a b).agenda = s.agenda := rfl
@[simp] theorem State.setHomeByte_fresh (s : State) (a : Nat) (b : Byte) : (s.setHomeByte a b).fresh = s.fresh := rfl
@[simp] theorem State.setHomeByte_cur (s : State) (a : Nat) (b : Byte) : (s.setHomeByte a b).cur = s.cur := rfl
@[simp] theorem State.setHomeByte_inFrame (s : State) (a : Nat) (b : Byte) : (s.setHomeByte a b).inFrame = s.inFrame := rfl
@[simp] theorem State.setHomeByte_lent (s : State) (a : Nat) (b : Byte) : (s.setHomeByte a b).lent = s.lent := rfl
@[simp] theorem State.setHomeByte_todo (s : State) (a : Nat) (b : Byte) : (s.setHomeByte a b).todo = s.todo := rfl
@[simp] theorem State.setHomeByte_cycle (s : State) (a : Nat) (b : Byte) : (s.setHomeByte a b).cycle = s.cycle := rfl
@[simp] theorem State.setHomeByte_clock (s : State) (a : Nat) (b : Byte) : (s.setHomeByte a b).clock = s.clock := rfl
@[simp] theorem State.setHomeByte_slots (s : State) (a : Nat) (b : Byte) : (s.setHomeByte a b).slots = s.slots := rfl
@[simp] theorem State.setHomeByte_cores (s : State) (a : Nat) (b : Byte) : (s.setHomeByte a b).cores = s.cores := rfl
@[simp] theorem State.setHomeByte_clamps (s : State) (a : Nat) (b : Byte) : (s.setHomeByte a b).clamps = s.clamps := rfl
@[simp] theorem State.setHomeByte_hearths (s : State) (a : Nat) (b : Byte) : (s.setHomeByte a b).hearths = s.hearths := rfl
@[simp] theorem State.setHomeByte_grates (s : State) (a : Nat) (b : Byte) : (s.setHomeByte a b).grates = s.grates := rfl
@[simp] theorem State.setHomeByte_tags (s : State) (a : Nat) (b : Byte) : (s.setHomeByte a b).tags = s.tags := rfl
@[simp] theorem State.setHomeByte_bad (s : State) (a : Nat) (b : Byte) : (s.setHomeByte a b).bad = s.bad := rfl
@[simp] theorem State.setHomeByte_atomics (s : State) (a : Nat) (b : Byte) : (s.setHomeByte a b).atomics = s.atomics := rfl
@[simp] theorem State.setHomeByte_reductions (s : State) (a : Nat) (b : Byte) : (s.setHomeByte a b).reductions = s.reductions := rfl
@[simp] theorem State.setHomeByte_flights (s : State) (a : Nat) (b : Byte) : (s.setHomeByte a b).flights = s.flights := rfl
@[simp] theorem State.setHomeByte_pkg (s : State) (a : Nat) (b : Byte) : (s.setHomeByte a b).pkg = s.pkg := rfl
@[simp] theorem State.setHomeByte_flue (s : State) (a : Nat) (b : Byte) : (s.setHomeByte a b).flue = s.flue := rfl

@[simp] theorem State.writeHome_agenda (s : State) (a : Nat) (b : List Byte) : (s.writeHome a b).agenda = s.agenda := rfl
@[simp] theorem State.writeHome_fresh (s : State) (a : Nat) (b : List Byte) : (s.writeHome a b).fresh = s.fresh := rfl
@[simp] theorem State.writeHome_cur (s : State) (a : Nat) (b : List Byte) : (s.writeHome a b).cur = s.cur := rfl
@[simp] theorem State.writeHome_inFrame (s : State) (a : Nat) (b : List Byte) : (s.writeHome a b).inFrame = s.inFrame := rfl
@[simp] theorem State.writeHome_lent (s : State) (a : Nat) (b : List Byte) : (s.writeHome a b).lent = s.lent := rfl
@[simp] theorem State.writeHome_todo (s : State) (a : Nat) (b : List Byte) : (s.writeHome a b).todo = s.todo := rfl
@[simp] theorem State.writeHome_cycle (s : State) (a : Nat) (b : List Byte) : (s.writeHome a b).cycle = s.cycle := rfl
@[simp] theorem State.writeHome_clock (s : State) (a : Nat) (b : List Byte) : (s.writeHome a b).clock = s.clock := rfl
@[simp] theorem State.writeHome_slots (s : State) (a : Nat) (b : List Byte) : (s.writeHome a b).slots = s.slots := rfl
@[simp] theorem State.writeHome_cores (s : State) (a : Nat) (b : List Byte) : (s.writeHome a b).cores = s.cores := rfl
@[simp] theorem State.writeHome_clamps (s : State) (a : Nat) (b : List Byte) : (s.writeHome a b).clamps = s.clamps := rfl
@[simp] theorem State.writeHome_hearths (s : State) (a : Nat) (b : List Byte) : (s.writeHome a b).hearths = s.hearths := rfl
@[simp] theorem State.writeHome_grates (s : State) (a : Nat) (b : List Byte) : (s.writeHome a b).grates = s.grates := rfl
@[simp] theorem State.writeHome_tags (s : State) (a : Nat) (b : List Byte) : (s.writeHome a b).tags = s.tags := rfl
@[simp] theorem State.writeHome_atomics (s : State) (a : Nat) (b : List Byte) : (s.writeHome a b).atomics = s.atomics := rfl
@[simp] theorem State.writeHome_reductions (s : State) (a : Nat) (b : List Byte) : (s.writeHome a b).reductions = s.reductions := rfl
@[simp] theorem State.writeHome_flights (s : State) (a : Nat) (b : List Byte) : (s.writeHome a b).flights = s.flights := rfl
@[simp] theorem State.writeHome_pkg (s : State) (a : Nat) (b : List Byte) : (s.writeHome a b).pkg = s.pkg := rfl
@[simp] theorem State.writeHome_flue (s : State) (a : Nat) (b : List Byte) : (s.writeHome a b).flue = s.flue := rfl

@[simp] theorem State.writeHomeNat_agenda (s : State) (a n v : Nat) : (s.writeHomeNat a n v).agenda = s.agenda := rfl
@[simp] theorem State.writeHomeNat_fresh (s : State) (a n v : Nat) : (s.writeHomeNat a n v).fresh = s.fresh := rfl
@[simp] theorem State.writeHomeNat_cur (s : State) (a n v : Nat) : (s.writeHomeNat a n v).cur = s.cur := rfl
@[simp] theorem State.writeHomeNat_inFrame (s : State) (a n v : Nat) : (s.writeHomeNat a n v).inFrame = s.inFrame := rfl
@[simp] theorem State.writeHomeNat_lent (s : State) (a n v : Nat) : (s.writeHomeNat a n v).lent = s.lent := rfl
@[simp] theorem State.writeHomeNat_todo (s : State) (a n v : Nat) : (s.writeHomeNat a n v).todo = s.todo := rfl
@[simp] theorem State.writeHomeNat_cycle (s : State) (a n v : Nat) : (s.writeHomeNat a n v).cycle = s.cycle := rfl
@[simp] theorem State.writeHomeNat_clock (s : State) (a n v : Nat) : (s.writeHomeNat a n v).clock = s.clock := rfl
@[simp] theorem State.writeHomeNat_slots (s : State) (a n v : Nat) : (s.writeHomeNat a n v).slots = s.slots := rfl
@[simp] theorem State.writeHomeNat_cores (s : State) (a n v : Nat) : (s.writeHomeNat a n v).cores = s.cores := rfl
@[simp] theorem State.writeHomeNat_clamps (s : State) (a n v : Nat) : (s.writeHomeNat a n v).clamps = s.clamps := rfl
@[simp] theorem State.writeHomeNat_hearths (s : State) (a n v : Nat) : (s.writeHomeNat a n v).hearths = s.hearths := rfl
@[simp] theorem State.writeHomeNat_grates (s : State) (a n v : Nat) : (s.writeHomeNat a n v).grates = s.grates := rfl
@[simp] theorem State.writeHomeNat_tags (s : State) (a n v : Nat) : (s.writeHomeNat a n v).tags = s.tags := rfl
@[simp] theorem State.writeHomeNat_atomics (s : State) (a n v : Nat) : (s.writeHomeNat a n v).atomics = s.atomics := rfl
@[simp] theorem State.writeHomeNat_reductions (s : State) (a n v : Nat) : (s.writeHomeNat a n v).reductions = s.reductions := rfl
@[simp] theorem State.writeHomeNat_flights (s : State) (a n v : Nat) : (s.writeHomeNat a n v).flights = s.flights := rfl
@[simp] theorem State.writeHomeNat_pkg (s : State) (a n v : Nat) : (s.writeHomeNat a n v).pkg = s.pkg := rfl
@[simp] theorem State.writeHomeNat_flue (s : State) (a n v : Nat) : (s.writeHomeNat a n v).flue = s.flue := rfl

@[simp] theorem State.setHomeTag_agenda (s : State) (a : Nat) (b : Bool) : (s.setHomeTag a b).agenda = s.agenda := rfl
@[simp] theorem State.setHomeTag_fresh (s : State) (a : Nat) (b : Bool) : (s.setHomeTag a b).fresh = s.fresh := rfl
@[simp] theorem State.setHomeTag_cur (s : State) (a : Nat) (b : Bool) : (s.setHomeTag a b).cur = s.cur := rfl
@[simp] theorem State.setHomeTag_inFrame (s : State) (a : Nat) (b : Bool) : (s.setHomeTag a b).inFrame = s.inFrame := rfl
@[simp] theorem State.setHomeTag_lent (s : State) (a : Nat) (b : Bool) : (s.setHomeTag a b).lent = s.lent := rfl
@[simp] theorem State.setHomeTag_todo (s : State) (a : Nat) (b : Bool) : (s.setHomeTag a b).todo = s.todo := rfl
@[simp] theorem State.setHomeTag_cycle (s : State) (a : Nat) (b : Bool) : (s.setHomeTag a b).cycle = s.cycle := rfl
@[simp] theorem State.setHomeTag_clock (s : State) (a : Nat) (b : Bool) : (s.setHomeTag a b).clock = s.clock := rfl
@[simp] theorem State.setHomeTag_slots (s : State) (a : Nat) (b : Bool) : (s.setHomeTag a b).slots = s.slots := rfl
@[simp] theorem State.setHomeTag_cores (s : State) (a : Nat) (b : Bool) : (s.setHomeTag a b).cores = s.cores := rfl
@[simp] theorem State.setHomeTag_clamps (s : State) (a : Nat) (b : Bool) : (s.setHomeTag a b).clamps = s.clamps := rfl
@[simp] theorem State.setHomeTag_hearths (s : State) (a : Nat) (b : Bool) : (s.setHomeTag a b).hearths = s.hearths := rfl
@[simp] theorem State.setHomeTag_grates (s : State) (a : Nat) (b : Bool) : (s.setHomeTag a b).grates = s.grates := rfl
@[simp] theorem State.setHomeTag_home (s : State) (a : Nat) (b : Bool) : (s.setHomeTag a b).home = s.home := rfl
@[simp] theorem State.setHomeTag_bad (s : State) (a : Nat) (b : Bool) : (s.setHomeTag a b).bad = s.bad := rfl
@[simp] theorem State.setHomeTag_atomics (s : State) (a : Nat) (b : Bool) : (s.setHomeTag a b).atomics = s.atomics := rfl
@[simp] theorem State.setHomeTag_reductions (s : State) (a : Nat) (b : Bool) : (s.setHomeTag a b).reductions = s.reductions := rfl
@[simp] theorem State.setHomeTag_flights (s : State) (a : Nat) (b : Bool) : (s.setHomeTag a b).flights = s.flights := rfl
@[simp] theorem State.setHomeTag_pkg (s : State) (a : Nat) (b : Bool) : (s.setHomeTag a b).pkg = s.pkg := rfl
@[simp] theorem State.setHomeTag_flue (s : State) (a : Nat) (b : Bool) : (s.setHomeTag a b).flue = s.flue := rfl

@[simp] theorem State.jump_agenda (s : State) (w : Word) : (s.jump w).agenda = s.agenda := rfl
@[simp] theorem State.jump_fresh (s : State) (w : Word) : (s.jump w).fresh = s.fresh := rfl
@[simp] theorem State.jump_cur (s : State) (w : Word) : (s.jump w).cur = s.cur := rfl
@[simp] theorem State.jump_inFrame (s : State) (w : Word) : (s.jump w).inFrame = s.inFrame := rfl
@[simp] theorem State.jump_lent (s : State) (w : Word) : (s.jump w).lent = s.lent := rfl
@[simp] theorem State.jump_todo (s : State) (w : Word) : (s.jump w).todo = s.todo := rfl
@[simp] theorem State.jump_cycle (s : State) (w : Word) : (s.jump w).cycle = s.cycle := rfl
@[simp] theorem State.jump_clock (s : State) (w : Word) : (s.jump w).clock = s.clock := rfl
@[simp] theorem State.jump_cores (s : State) (w : Word) : (s.jump w).cores = s.cores := rfl
@[simp] theorem State.jump_clamps (s : State) (w : Word) : (s.jump w).clamps = s.clamps := rfl
@[simp] theorem State.jump_hearths (s : State) (w : Word) : (s.jump w).hearths = s.hearths := rfl
@[simp] theorem State.jump_grates (s : State) (w : Word) : (s.jump w).grates = s.grates := rfl
@[simp] theorem State.jump_home (s : State) (w : Word) : (s.jump w).home = s.home := rfl
@[simp] theorem State.jump_tags (s : State) (w : Word) : (s.jump w).tags = s.tags := rfl
@[simp] theorem State.jump_bad (s : State) (w : Word) : (s.jump w).bad = s.bad := rfl
@[simp] theorem State.jump_atomics (s : State) (w : Word) : (s.jump w).atomics = s.atomics := rfl
@[simp] theorem State.jump_reductions (s : State) (w : Word) : (s.jump w).reductions = s.reductions := rfl
@[simp] theorem State.jump_flights (s : State) (w : Word) : (s.jump w).flights = s.flights := rfl
@[simp] theorem State.jump_pkg (s : State) (w : Word) : (s.jump w).pkg = s.pkg := rfl
@[simp] theorem State.jump_flue (s : State) (w : Word) : (s.jump w).flue = s.flue := rfl

@[simp] theorem State.stick_agenda (s : State) (f : Sticky) (n : Nat) : (s.stick f n).agenda = s.agenda := rfl
@[simp] theorem State.stick_fresh (s : State) (f : Sticky) (n : Nat) : (s.stick f n).fresh = s.fresh := rfl
@[simp] theorem State.stick_cur (s : State) (f : Sticky) (n : Nat) : (s.stick f n).cur = s.cur := rfl
@[simp] theorem State.stick_inFrame (s : State) (f : Sticky) (n : Nat) : (s.stick f n).inFrame = s.inFrame := rfl
@[simp] theorem State.stick_lent (s : State) (f : Sticky) (n : Nat) : (s.stick f n).lent = s.lent := rfl
@[simp] theorem State.stick_todo (s : State) (f : Sticky) (n : Nat) : (s.stick f n).todo = s.todo := rfl
@[simp] theorem State.stick_cycle (s : State) (f : Sticky) (n : Nat) : (s.stick f n).cycle = s.cycle := rfl
@[simp] theorem State.stick_clock (s : State) (f : Sticky) (n : Nat) : (s.stick f n).clock = s.clock := rfl
@[simp] theorem State.stick_cores (s : State) (f : Sticky) (n : Nat) : (s.stick f n).cores = s.cores := rfl
@[simp] theorem State.stick_clamps (s : State) (f : Sticky) (n : Nat) : (s.stick f n).clamps = s.clamps := rfl
@[simp] theorem State.stick_hearths (s : State) (f : Sticky) (n : Nat) : (s.stick f n).hearths = s.hearths := rfl
@[simp] theorem State.stick_grates (s : State) (f : Sticky) (n : Nat) : (s.stick f n).grates = s.grates := rfl
@[simp] theorem State.stick_home (s : State) (f : Sticky) (n : Nat) : (s.stick f n).home = s.home := rfl
@[simp] theorem State.stick_tags (s : State) (f : Sticky) (n : Nat) : (s.stick f n).tags = s.tags := rfl
@[simp] theorem State.stick_bad (s : State) (f : Sticky) (n : Nat) : (s.stick f n).bad = s.bad := rfl
@[simp] theorem State.stick_atomics (s : State) (f : Sticky) (n : Nat) : (s.stick f n).atomics = s.atomics := rfl
@[simp] theorem State.stick_reductions (s : State) (f : Sticky) (n : Nat) : (s.stick f n).reductions = s.reductions := rfl
@[simp] theorem State.stick_flights (s : State) (f : Sticky) (n : Nat) : (s.stick f n).flights = s.flights := rfl
@[simp] theorem State.stick_pkg (s : State) (f : Sticky) (n : Nat) : (s.stick f n).pkg = s.pkg := rfl
@[simp] theorem State.stick_flue (s : State) (f : Sticky) (n : Nat) : (s.stick f n).flue = s.flue := rfl

@[simp] theorem State.writeX_agenda (s : State) (r : Reg) (w : Word) (n : Nat) : (s.writeX r w n).agenda = s.agenda := rfl
@[simp] theorem State.writeX_fresh (s : State) (r : Reg) (w : Word) (n : Nat) : (s.writeX r w n).fresh = s.fresh := rfl
@[simp] theorem State.writeX_cur (s : State) (r : Reg) (w : Word) (n : Nat) : (s.writeX r w n).cur = s.cur := rfl
@[simp] theorem State.writeX_inFrame (s : State) (r : Reg) (w : Word) (n : Nat) : (s.writeX r w n).inFrame = s.inFrame := rfl
@[simp] theorem State.writeX_lent (s : State) (r : Reg) (w : Word) (n : Nat) : (s.writeX r w n).lent = s.lent := rfl
@[simp] theorem State.writeX_todo (s : State) (r : Reg) (w : Word) (n : Nat) : (s.writeX r w n).todo = s.todo := rfl
@[simp] theorem State.writeX_cycle (s : State) (r : Reg) (w : Word) (n : Nat) : (s.writeX r w n).cycle = s.cycle := rfl
@[simp] theorem State.writeX_clock (s : State) (r : Reg) (w : Word) (n : Nat) : (s.writeX r w n).clock = s.clock := rfl
@[simp] theorem State.writeX_cores (s : State) (r : Reg) (w : Word) (n : Nat) : (s.writeX r w n).cores = s.cores := rfl
@[simp] theorem State.writeX_clamps (s : State) (r : Reg) (w : Word) (n : Nat) : (s.writeX r w n).clamps = s.clamps := rfl
@[simp] theorem State.writeX_hearths (s : State) (r : Reg) (w : Word) (n : Nat) : (s.writeX r w n).hearths = s.hearths := rfl
@[simp] theorem State.writeX_grates (s : State) (r : Reg) (w : Word) (n : Nat) : (s.writeX r w n).grates = s.grates := rfl
@[simp] theorem State.writeX_home (s : State) (r : Reg) (w : Word) (n : Nat) : (s.writeX r w n).home = s.home := rfl
@[simp] theorem State.writeX_tags (s : State) (r : Reg) (w : Word) (n : Nat) : (s.writeX r w n).tags = s.tags := rfl
@[simp] theorem State.writeX_bad (s : State) (r : Reg) (w : Word) (n : Nat) : (s.writeX r w n).bad = s.bad := rfl
@[simp] theorem State.writeX_atomics (s : State) (r : Reg) (w : Word) (n : Nat) : (s.writeX r w n).atomics = s.atomics := rfl
@[simp] theorem State.writeX_reductions (s : State) (r : Reg) (w : Word) (n : Nat) : (s.writeX r w n).reductions = s.reductions := rfl
@[simp] theorem State.writeX_flights (s : State) (r : Reg) (w : Word) (n : Nat) : (s.writeX r w n).flights = s.flights := rfl
@[simp] theorem State.writeX_pkg (s : State) (r : Reg) (w : Word) (n : Nat) : (s.writeX r w n).pkg = s.pkg := rfl
@[simp] theorem State.writeX_flue (s : State) (r : Reg) (w : Word) (n : Nat) : (s.writeX r w n).flue = s.flue := rfl

@[simp] theorem State.writeV_agenda (s : State) (r : VReg) (w : VWord) (n : Nat) : (s.writeV r w n).agenda = s.agenda := rfl
@[simp] theorem State.writeV_fresh (s : State) (r : VReg) (w : VWord) (n : Nat) : (s.writeV r w n).fresh = s.fresh := rfl
@[simp] theorem State.writeV_cur (s : State) (r : VReg) (w : VWord) (n : Nat) : (s.writeV r w n).cur = s.cur := rfl
@[simp] theorem State.writeV_inFrame (s : State) (r : VReg) (w : VWord) (n : Nat) : (s.writeV r w n).inFrame = s.inFrame := rfl
@[simp] theorem State.writeV_lent (s : State) (r : VReg) (w : VWord) (n : Nat) : (s.writeV r w n).lent = s.lent := rfl
@[simp] theorem State.writeV_todo (s : State) (r : VReg) (w : VWord) (n : Nat) : (s.writeV r w n).todo = s.todo := rfl
@[simp] theorem State.writeV_cycle (s : State) (r : VReg) (w : VWord) (n : Nat) : (s.writeV r w n).cycle = s.cycle := rfl
@[simp] theorem State.writeV_clock (s : State) (r : VReg) (w : VWord) (n : Nat) : (s.writeV r w n).clock = s.clock := rfl
@[simp] theorem State.writeV_cores (s : State) (r : VReg) (w : VWord) (n : Nat) : (s.writeV r w n).cores = s.cores := rfl
@[simp] theorem State.writeV_clamps (s : State) (r : VReg) (w : VWord) (n : Nat) : (s.writeV r w n).clamps = s.clamps := rfl
@[simp] theorem State.writeV_hearths (s : State) (r : VReg) (w : VWord) (n : Nat) : (s.writeV r w n).hearths = s.hearths := rfl
@[simp] theorem State.writeV_grates (s : State) (r : VReg) (w : VWord) (n : Nat) : (s.writeV r w n).grates = s.grates := rfl
@[simp] theorem State.writeV_home (s : State) (r : VReg) (w : VWord) (n : Nat) : (s.writeV r w n).home = s.home := rfl
@[simp] theorem State.writeV_tags (s : State) (r : VReg) (w : VWord) (n : Nat) : (s.writeV r w n).tags = s.tags := rfl
@[simp] theorem State.writeV_bad (s : State) (r : VReg) (w : VWord) (n : Nat) : (s.writeV r w n).bad = s.bad := rfl
@[simp] theorem State.writeV_atomics (s : State) (r : VReg) (w : VWord) (n : Nat) : (s.writeV r w n).atomics = s.atomics := rfl
@[simp] theorem State.writeV_reductions (s : State) (r : VReg) (w : VWord) (n : Nat) : (s.writeV r w n).reductions = s.reductions := rfl
@[simp] theorem State.writeV_flights (s : State) (r : VReg) (w : VWord) (n : Nat) : (s.writeV r w n).flights = s.flights := rfl
@[simp] theorem State.writeV_pkg (s : State) (r : VReg) (w : VWord) (n : Nat) : (s.writeV r w n).pkg = s.pkg := rfl
@[simp] theorem State.writeV_flue (s : State) (r : VReg) (w : VWord) (n : Nat) : (s.writeV r w n).flue = s.flue := rfl

@[simp] theorem Slot.setX_mode (p : Slot) (r : Reg) (w : Word) : (p.setX r w).mode = p.mode := rfl
@[simp] theorem Slot.setX_xdead (p : Slot) (r : Reg) (w : Word) : (p.setX r w).xdead = p.xdead := rfl
@[simp] theorem Slot.setX_v (p : Slot) (r : Reg) (w : Word) : (p.setX r w).v = p.v := rfl
@[simp] theorem Slot.setX_vp (p : Slot) (r : Reg) (w : Word) : (p.setX r w).vp = p.vp := rfl
@[simp] theorem Slot.setX_m (p : Slot) (r : Reg) (w : Word) : (p.setX r w).m = p.m := rfl
@[simp] theorem Slot.setX_pc (p : Slot) (r : Reg) (w : Word) : (p.setX r w).pc = p.pc := rfl
@[simp] theorem Slot.setX_sg (p : Slot) (r : Reg) (w : Word) : (p.setX r w).sg = p.sg := rfl
@[simp] theorem Slot.setX_ctl (p : Slot) (r : Reg) (w : Word) : (p.setX r w).ctl = p.ctl := rfl
@[simp] theorem Slot.setX_sbank (p : Slot) (r : Reg) (w : Word) : (p.setX r w).sbank = p.sbank := rfl
@[simp] theorem Slot.setX_sseg (p : Slot) (r : Reg) (w : Word) : (p.setX r w).sseg = p.sseg := rfl
@[simp] theorem Slot.setX_ubank (p : Slot) (r : Reg) (w : Word) : (p.setX r w).ubank = p.ubank := rfl
@[simp] theorem Slot.setX_park (p : Slot) (r : Reg) (w : Word) : (p.setX r w).park = p.park := rfl
@[simp] theorem Slot.setX_barrier (p : Slot) (r : Reg) (w : Word) : (p.setX r w).barrier = p.barrier := rfl
@[simp] theorem Slot.setX_yielded (p : Slot) (r : Reg) (w : Word) : (p.setX r w).yielded = p.yielded := rfl
@[simp] theorem Slot.setX_fills (p : Slot) (r : Reg) (w : Word) : (p.setX r w).fills = p.fills := rfl
@[simp] theorem Slot.setX_lat (p : Slot) (r : Reg) (w : Word) : (p.setX r w).lat = p.lat := rfl
@[simp] theorem Slot.setX_sb (p : Slot) (r : Reg) (w : Word) : (p.setX r w).sb = p.sb := rfl
@[simp] theorem Slot.setX_msgs (p : Slot) (r : Reg) (w : Word) : (p.setX r w).msgs = p.msgs := rfl
@[simp] theorem Slot.setX_sendCount (p : Slot) (r : Reg) (w : Word) : (p.setX r w).sendCount = p.sendCount := rfl
@[simp] theorem Slot.setX_putn (p : Slot) (r : Reg) (w : Word) : (p.setX r w).putn = p.putn := rfl
@[simp] theorem Slot.setX_fstat (p : Slot) (r : Reg) (w : Word) : (p.setX r w).fstat = p.fstat := rfl
@[simp] theorem Slot.setX_fenceRel (p : Slot) (r : Reg) (w : Word) : (p.setX r w).fenceRel = p.fenceRel := rfl
@[simp] theorem Slot.setX_written (p : Slot) (r : Reg) (w : Word) : (p.setX r w).written = p.written := rfl
@[simp] theorem Slot.setX_lost (p : Slot) (r : Reg) (w : Word) : (p.setX r w).lost = p.lost := rfl
@[simp] theorem Slot.setX_taskPos (p : Slot) (r : Reg) (w : Word) : (p.setX r w).taskPos = p.taskPos := rfl
@[simp] theorem Slot.setX_extent (p : Slot) (r : Reg) (w : Word) : (p.setX r w).extent = p.extent := rfl
@[simp] theorem Slot.setX_ntask (p : Slot) (r : Reg) (w : Word) : (p.setX r w).ntask = p.ntask := rfl
@[simp] theorem Slot.setX_ca (p : Slot) (r : Reg) (w : Word) : (p.setX r w).ca = p.ca := rfl
@[simp] theorem Slot.setX_overlays (p : Slot) (r : Reg) (w : Word) : (p.setX r w).overlays = p.overlays := rfl
@[simp] theorem Slot.setX_mb (p : Slot) (r : Reg) (w : Word) : (p.setX r w).mb = p.mb := rfl
@[simp] theorem Slot.setX_sub (p : Slot) (r : Reg) (w : Word) : (p.setX r w).sub = p.sub := rfl
@[simp] theorem Slot.setX_xferCount (p : Slot) (r : Reg) (w : Word) : (p.setX r w).xferCount = p.xferCount := rfl
@[simp] theorem Slot.setX_cpyBad (p : Slot) (r : Reg) (w : Word) : (p.setX r w).cpyBad = p.cpyBad := rfl
@[simp] theorem Slot.setX_cpyLast (p : Slot) (r : Reg) (w : Word) : (p.setX r w).cpyLast = p.cpyLast := rfl
@[simp] theorem Slot.setX_completions (p : Slot) (r : Reg) (w : Word) : (p.setX r w).completions = p.completions := rfl
@[simp] theorem Slot.setX_tagwait (p : Slot) (r : Reg) (w : Word) : (p.setX r w).tagwait = p.tagwait := rfl
@[simp] theorem Slot.setX_deferred (p : Slot) (r : Reg) (w : Word) : (p.setX r w).deferred = p.deferred := rfl
@[simp] theorem Slot.setX_trapWait (p : Slot) (r : Reg) (w : Word) : (p.setX r w).trapWait = p.trapWait := rfl
@[simp] theorem Slot.setX_sticks (p : Slot) (r : Reg) (w : Word) : (p.setX r w).sticks = p.sticks := rfl
@[simp] theorem Slot.setX_faultCount (p : Slot) (r : Reg) (w : Word) : (p.setX r w).faultCount = p.faultCount := rfl
@[simp] theorem Slot.setX_kDone (p : Slot) (r : Reg) (w : Word) : (p.setX r w).kDone = p.kDone := rfl
@[simp] theorem Slot.setX_streams (p : Slot) (r : Reg) (w : Word) : (p.setX r w).streams = p.streams := rfl
@[simp] theorem Slot.setX_reserved (p : Slot) (r : Reg) (w : Word) : (p.setX r w).reserved = p.reserved := rfl
@[simp] theorem Slot.setX_mseq (p : Slot) (r : Reg) (w : Word) : (p.setX r w).mseq = p.mseq := rfl
@[simp] theorem Slot.setX_lseq (p : Slot) (r : Reg) (w : Word) : (p.setX r w).lseq = p.lseq := rfl
@[simp] theorem Slot.setX_launcher (p : Slot) (r : Reg) (w : Word) : (p.setX r w).launcher = p.launcher := rfl
@[simp] theorem Slot.setX_startAt (p : Slot) (r : Reg) (w : Word) : (p.setX r w).startAt = p.startAt := rfl
@[simp] theorem Slot.setX_haltedAt (p : Slot) (r : Reg) (w : Word) : (p.setX r w).haltedAt = p.haltedAt := rfl
@[simp] theorem Slot.setX_haltRequest (p : Slot) (r : Reg) (w : Word) : (p.setX r w).haltRequest = p.haltRequest := rfl
@[simp] theorem Slot.setX_resumeRequest (p : Slot) (r : Reg) (w : Word) : (p.setX r w).resumeRequest = p.resumeRequest := rfl
@[simp] theorem Slot.setX_debugHalt (p : Slot) (r : Reg) (w : Word) : (p.setX r w).debugHalt = p.debugHalt := rfl
@[simp] theorem Slot.setX_remoteTag (p : Slot) (r : Reg) (w : Word) : (p.setX r w).remoteTag = p.remoteTag := rfl
@[simp] theorem Slot.setX_remoteFetch (p : Slot) (r : Reg) (w : Word) : (p.setX r w).remoteFetch = p.remoteFetch := rfl
@[simp] theorem Slot.setX_digest (p : Slot) (r : Reg) (w : Word) : (p.setX r w).digest = p.digest := rfl
@[simp] theorem Slot.setX_hashes (p : Slot) (r : Reg) (w : Word) : (p.setX r w).hashes = p.hashes := rfl

@[simp] theorem Slot.emptyX_mode (p : Slot) (r : Reg) : (p.emptyX r).mode = p.mode := rfl
@[simp] theorem Slot.emptyX_x (p : Slot) (r : Reg) : (p.emptyX r).x = p.x := rfl
@[simp] theorem Slot.emptyX_v (p : Slot) (r : Reg) : (p.emptyX r).v = p.v := rfl
@[simp] theorem Slot.emptyX_vp (p : Slot) (r : Reg) : (p.emptyX r).vp = p.vp := rfl
@[simp] theorem Slot.emptyX_m (p : Slot) (r : Reg) : (p.emptyX r).m = p.m := rfl
@[simp] theorem Slot.emptyX_pc (p : Slot) (r : Reg) : (p.emptyX r).pc = p.pc := rfl
@[simp] theorem Slot.emptyX_sg (p : Slot) (r : Reg) : (p.emptyX r).sg = p.sg := rfl
@[simp] theorem Slot.emptyX_ctl (p : Slot) (r : Reg) : (p.emptyX r).ctl = p.ctl := rfl
@[simp] theorem Slot.emptyX_sbank (p : Slot) (r : Reg) : (p.emptyX r).sbank = p.sbank := rfl
@[simp] theorem Slot.emptyX_sseg (p : Slot) (r : Reg) : (p.emptyX r).sseg = p.sseg := rfl
@[simp] theorem Slot.emptyX_ubank (p : Slot) (r : Reg) : (p.emptyX r).ubank = p.ubank := rfl
@[simp] theorem Slot.emptyX_park (p : Slot) (r : Reg) : (p.emptyX r).park = p.park := rfl
@[simp] theorem Slot.emptyX_barrier (p : Slot) (r : Reg) : (p.emptyX r).barrier = p.barrier := rfl
@[simp] theorem Slot.emptyX_yielded (p : Slot) (r : Reg) : (p.emptyX r).yielded = p.yielded := rfl
@[simp] theorem Slot.emptyX_fills (p : Slot) (r : Reg) : (p.emptyX r).fills = p.fills := rfl
@[simp] theorem Slot.emptyX_sb (p : Slot) (r : Reg) : (p.emptyX r).sb = p.sb := rfl
@[simp] theorem Slot.emptyX_msgs (p : Slot) (r : Reg) : (p.emptyX r).msgs = p.msgs := rfl
@[simp] theorem Slot.emptyX_sendCount (p : Slot) (r : Reg) : (p.emptyX r).sendCount = p.sendCount := rfl
@[simp] theorem Slot.emptyX_putn (p : Slot) (r : Reg) : (p.emptyX r).putn = p.putn := rfl
@[simp] theorem Slot.emptyX_fstat (p : Slot) (r : Reg) : (p.emptyX r).fstat = p.fstat := rfl
@[simp] theorem Slot.emptyX_fenceRel (p : Slot) (r : Reg) : (p.emptyX r).fenceRel = p.fenceRel := rfl
@[simp] theorem Slot.emptyX_written (p : Slot) (r : Reg) : (p.emptyX r).written = p.written := rfl
@[simp] theorem Slot.emptyX_lost (p : Slot) (r : Reg) : (p.emptyX r).lost = p.lost := rfl
@[simp] theorem Slot.emptyX_taskPos (p : Slot) (r : Reg) : (p.emptyX r).taskPos = p.taskPos := rfl
@[simp] theorem Slot.emptyX_extent (p : Slot) (r : Reg) : (p.emptyX r).extent = p.extent := rfl
@[simp] theorem Slot.emptyX_ntask (p : Slot) (r : Reg) : (p.emptyX r).ntask = p.ntask := rfl
@[simp] theorem Slot.emptyX_ca (p : Slot) (r : Reg) : (p.emptyX r).ca = p.ca := rfl
@[simp] theorem Slot.emptyX_overlays (p : Slot) (r : Reg) : (p.emptyX r).overlays = p.overlays := rfl
@[simp] theorem Slot.emptyX_mb (p : Slot) (r : Reg) : (p.emptyX r).mb = p.mb := rfl
@[simp] theorem Slot.emptyX_sub (p : Slot) (r : Reg) : (p.emptyX r).sub = p.sub := rfl
@[simp] theorem Slot.emptyX_xferCount (p : Slot) (r : Reg) : (p.emptyX r).xferCount = p.xferCount := rfl
@[simp] theorem Slot.emptyX_cpyBad (p : Slot) (r : Reg) : (p.emptyX r).cpyBad = p.cpyBad := rfl
@[simp] theorem Slot.emptyX_cpyLast (p : Slot) (r : Reg) : (p.emptyX r).cpyLast = p.cpyLast := rfl
@[simp] theorem Slot.emptyX_completions (p : Slot) (r : Reg) : (p.emptyX r).completions = p.completions := rfl
@[simp] theorem Slot.emptyX_tagwait (p : Slot) (r : Reg) : (p.emptyX r).tagwait = p.tagwait := rfl
@[simp] theorem Slot.emptyX_deferred (p : Slot) (r : Reg) : (p.emptyX r).deferred = p.deferred := rfl
@[simp] theorem Slot.emptyX_trapWait (p : Slot) (r : Reg) : (p.emptyX r).trapWait = p.trapWait := rfl
@[simp] theorem Slot.emptyX_sticks (p : Slot) (r : Reg) : (p.emptyX r).sticks = p.sticks := rfl
@[simp] theorem Slot.emptyX_faultCount (p : Slot) (r : Reg) : (p.emptyX r).faultCount = p.faultCount := rfl
@[simp] theorem Slot.emptyX_kDone (p : Slot) (r : Reg) : (p.emptyX r).kDone = p.kDone := rfl
@[simp] theorem Slot.emptyX_streams (p : Slot) (r : Reg) : (p.emptyX r).streams = p.streams := rfl
@[simp] theorem Slot.emptyX_reserved (p : Slot) (r : Reg) : (p.emptyX r).reserved = p.reserved := rfl
@[simp] theorem Slot.emptyX_mseq (p : Slot) (r : Reg) : (p.emptyX r).mseq = p.mseq := rfl
@[simp] theorem Slot.emptyX_lseq (p : Slot) (r : Reg) : (p.emptyX r).lseq = p.lseq := rfl
@[simp] theorem Slot.emptyX_launcher (p : Slot) (r : Reg) : (p.emptyX r).launcher = p.launcher := rfl
@[simp] theorem Slot.emptyX_startAt (p : Slot) (r : Reg) : (p.emptyX r).startAt = p.startAt := rfl
@[simp] theorem Slot.emptyX_haltedAt (p : Slot) (r : Reg) : (p.emptyX r).haltedAt = p.haltedAt := rfl
@[simp] theorem Slot.emptyX_haltRequest (p : Slot) (r : Reg) : (p.emptyX r).haltRequest = p.haltRequest := rfl
@[simp] theorem Slot.emptyX_resumeRequest (p : Slot) (r : Reg) : (p.emptyX r).resumeRequest = p.resumeRequest := rfl
@[simp] theorem Slot.emptyX_debugHalt (p : Slot) (r : Reg) : (p.emptyX r).debugHalt = p.debugHalt := rfl
@[simp] theorem Slot.emptyX_remoteTag (p : Slot) (r : Reg) : (p.emptyX r).remoteTag = p.remoteTag := rfl
@[simp] theorem Slot.emptyX_remoteFetch (p : Slot) (r : Reg) : (p.emptyX r).remoteFetch = p.remoteFetch := rfl
@[simp] theorem Slot.emptyX_digest (p : Slot) (r : Reg) : (p.emptyX r).digest = p.digest := rfl
@[simp] theorem Slot.emptyX_hashes (p : Slot) (r : Reg) : (p.emptyX r).hashes = p.hashes := rfl

@[simp] theorem Slot.setV_mode (p : Slot) (r : VReg) (w : VWord) : (p.setV r w).mode = p.mode := rfl
@[simp] theorem Slot.setV_x (p : Slot) (r : VReg) (w : VWord) : (p.setV r w).x = p.x := rfl
@[simp] theorem Slot.setV_xf (p : Slot) (r : VReg) (w : VWord) : (p.setV r w).xf = p.xf := rfl
@[simp] theorem Slot.setV_xdead (p : Slot) (r : VReg) (w : VWord) : (p.setV r w).xdead = p.xdead := rfl
@[simp] theorem Slot.setV_m (p : Slot) (r : VReg) (w : VWord) : (p.setV r w).m = p.m := rfl
@[simp] theorem Slot.setV_pc (p : Slot) (r : VReg) (w : VWord) : (p.setV r w).pc = p.pc := rfl
@[simp] theorem Slot.setV_sg (p : Slot) (r : VReg) (w : VWord) : (p.setV r w).sg = p.sg := rfl
@[simp] theorem Slot.setV_ctl (p : Slot) (r : VReg) (w : VWord) : (p.setV r w).ctl = p.ctl := rfl
@[simp] theorem Slot.setV_sbank (p : Slot) (r : VReg) (w : VWord) : (p.setV r w).sbank = p.sbank := rfl
@[simp] theorem Slot.setV_sseg (p : Slot) (r : VReg) (w : VWord) : (p.setV r w).sseg = p.sseg := rfl
@[simp] theorem Slot.setV_ubank (p : Slot) (r : VReg) (w : VWord) : (p.setV r w).ubank = p.ubank := rfl
@[simp] theorem Slot.setV_park (p : Slot) (r : VReg) (w : VWord) : (p.setV r w).park = p.park := rfl
@[simp] theorem Slot.setV_barrier (p : Slot) (r : VReg) (w : VWord) : (p.setV r w).barrier = p.barrier := rfl
@[simp] theorem Slot.setV_yielded (p : Slot) (r : VReg) (w : VWord) : (p.setV r w).yielded = p.yielded := rfl
@[simp] theorem Slot.setV_fills (p : Slot) (r : VReg) (w : VWord) : (p.setV r w).fills = p.fills := rfl
@[simp] theorem Slot.setV_lat (p : Slot) (r : VReg) (w : VWord) : (p.setV r w).lat = p.lat := rfl
@[simp] theorem Slot.setV_sb (p : Slot) (r : VReg) (w : VWord) : (p.setV r w).sb = p.sb := rfl
@[simp] theorem Slot.setV_msgs (p : Slot) (r : VReg) (w : VWord) : (p.setV r w).msgs = p.msgs := rfl
@[simp] theorem Slot.setV_sendCount (p : Slot) (r : VReg) (w : VWord) : (p.setV r w).sendCount = p.sendCount := rfl
@[simp] theorem Slot.setV_putn (p : Slot) (r : VReg) (w : VWord) : (p.setV r w).putn = p.putn := rfl
@[simp] theorem Slot.setV_fstat (p : Slot) (r : VReg) (w : VWord) : (p.setV r w).fstat = p.fstat := rfl
@[simp] theorem Slot.setV_fenceRel (p : Slot) (r : VReg) (w : VWord) : (p.setV r w).fenceRel = p.fenceRel := rfl
@[simp] theorem Slot.setV_written (p : Slot) (r : VReg) (w : VWord) : (p.setV r w).written = p.written := rfl
@[simp] theorem Slot.setV_lost (p : Slot) (r : VReg) (w : VWord) : (p.setV r w).lost = p.lost := rfl
@[simp] theorem Slot.setV_taskPos (p : Slot) (r : VReg) (w : VWord) : (p.setV r w).taskPos = p.taskPos := rfl
@[simp] theorem Slot.setV_extent (p : Slot) (r : VReg) (w : VWord) : (p.setV r w).extent = p.extent := rfl
@[simp] theorem Slot.setV_ntask (p : Slot) (r : VReg) (w : VWord) : (p.setV r w).ntask = p.ntask := rfl
@[simp] theorem Slot.setV_ca (p : Slot) (r : VReg) (w : VWord) : (p.setV r w).ca = p.ca := rfl
@[simp] theorem Slot.setV_overlays (p : Slot) (r : VReg) (w : VWord) : (p.setV r w).overlays = p.overlays := rfl
@[simp] theorem Slot.setV_mb (p : Slot) (r : VReg) (w : VWord) : (p.setV r w).mb = p.mb := rfl
@[simp] theorem Slot.setV_sub (p : Slot) (r : VReg) (w : VWord) : (p.setV r w).sub = p.sub := rfl
@[simp] theorem Slot.setV_xferCount (p : Slot) (r : VReg) (w : VWord) : (p.setV r w).xferCount = p.xferCount := rfl
@[simp] theorem Slot.setV_cpyBad (p : Slot) (r : VReg) (w : VWord) : (p.setV r w).cpyBad = p.cpyBad := rfl
@[simp] theorem Slot.setV_cpyLast (p : Slot) (r : VReg) (w : VWord) : (p.setV r w).cpyLast = p.cpyLast := rfl
@[simp] theorem Slot.setV_completions (p : Slot) (r : VReg) (w : VWord) : (p.setV r w).completions = p.completions := rfl
@[simp] theorem Slot.setV_tagwait (p : Slot) (r : VReg) (w : VWord) : (p.setV r w).tagwait = p.tagwait := rfl
@[simp] theorem Slot.setV_deferred (p : Slot) (r : VReg) (w : VWord) : (p.setV r w).deferred = p.deferred := rfl
@[simp] theorem Slot.setV_trapWait (p : Slot) (r : VReg) (w : VWord) : (p.setV r w).trapWait = p.trapWait := rfl
@[simp] theorem Slot.setV_sticks (p : Slot) (r : VReg) (w : VWord) : (p.setV r w).sticks = p.sticks := rfl
@[simp] theorem Slot.setV_faultCount (p : Slot) (r : VReg) (w : VWord) : (p.setV r w).faultCount = p.faultCount := rfl
@[simp] theorem Slot.setV_kDone (p : Slot) (r : VReg) (w : VWord) : (p.setV r w).kDone = p.kDone := rfl
@[simp] theorem Slot.setV_streams (p : Slot) (r : VReg) (w : VWord) : (p.setV r w).streams = p.streams := rfl
@[simp] theorem Slot.setV_reserved (p : Slot) (r : VReg) (w : VWord) : (p.setV r w).reserved = p.reserved := rfl
@[simp] theorem Slot.setV_mseq (p : Slot) (r : VReg) (w : VWord) : (p.setV r w).mseq = p.mseq := rfl
@[simp] theorem Slot.setV_lseq (p : Slot) (r : VReg) (w : VWord) : (p.setV r w).lseq = p.lseq := rfl
@[simp] theorem Slot.setV_launcher (p : Slot) (r : VReg) (w : VWord) : (p.setV r w).launcher = p.launcher := rfl
@[simp] theorem Slot.setV_startAt (p : Slot) (r : VReg) (w : VWord) : (p.setV r w).startAt = p.startAt := rfl
@[simp] theorem Slot.setV_haltedAt (p : Slot) (r : VReg) (w : VWord) : (p.setV r w).haltedAt = p.haltedAt := rfl
@[simp] theorem Slot.setV_haltRequest (p : Slot) (r : VReg) (w : VWord) : (p.setV r w).haltRequest = p.haltRequest := rfl
@[simp] theorem Slot.setV_resumeRequest (p : Slot) (r : VReg) (w : VWord) : (p.setV r w).resumeRequest = p.resumeRequest := rfl
@[simp] theorem Slot.setV_debugHalt (p : Slot) (r : VReg) (w : VWord) : (p.setV r w).debugHalt = p.debugHalt := rfl
@[simp] theorem Slot.setV_remoteTag (p : Slot) (r : VReg) (w : VWord) : (p.setV r w).remoteTag = p.remoteTag := rfl
@[simp] theorem Slot.setV_remoteFetch (p : Slot) (r : VReg) (w : VWord) : (p.setV r w).remoteFetch = p.remoteFetch := rfl
@[simp] theorem Slot.setV_digest (p : Slot) (r : VReg) (w : VWord) : (p.setV r w).digest = p.digest := rfl
@[simp] theorem Slot.setV_hashes (p : Slot) (r : VReg) (w : VWord) : (p.setV r w).hashes = p.hashes := rfl

@[simp] theorem Slot.absentV_mode (p : Slot) (r : VReg) : (p.absentV r).mode = p.mode := rfl
@[simp] theorem Slot.absentV_x (p : Slot) (r : VReg) : (p.absentV r).x = p.x := rfl
@[simp] theorem Slot.absentV_xf (p : Slot) (r : VReg) : (p.absentV r).xf = p.xf := rfl
@[simp] theorem Slot.absentV_xdead (p : Slot) (r : VReg) : (p.absentV r).xdead = p.xdead := rfl
@[simp] theorem Slot.absentV_v (p : Slot) (r : VReg) : (p.absentV r).v = p.v := rfl
@[simp] theorem Slot.absentV_m (p : Slot) (r : VReg) : (p.absentV r).m = p.m := rfl
@[simp] theorem Slot.absentV_pc (p : Slot) (r : VReg) : (p.absentV r).pc = p.pc := rfl
@[simp] theorem Slot.absentV_sg (p : Slot) (r : VReg) : (p.absentV r).sg = p.sg := rfl
@[simp] theorem Slot.absentV_ctl (p : Slot) (r : VReg) : (p.absentV r).ctl = p.ctl := rfl
@[simp] theorem Slot.absentV_sbank (p : Slot) (r : VReg) : (p.absentV r).sbank = p.sbank := rfl
@[simp] theorem Slot.absentV_sseg (p : Slot) (r : VReg) : (p.absentV r).sseg = p.sseg := rfl
@[simp] theorem Slot.absentV_ubank (p : Slot) (r : VReg) : (p.absentV r).ubank = p.ubank := rfl
@[simp] theorem Slot.absentV_park (p : Slot) (r : VReg) : (p.absentV r).park = p.park := rfl
@[simp] theorem Slot.absentV_barrier (p : Slot) (r : VReg) : (p.absentV r).barrier = p.barrier := rfl
@[simp] theorem Slot.absentV_yielded (p : Slot) (r : VReg) : (p.absentV r).yielded = p.yielded := rfl
@[simp] theorem Slot.absentV_fills (p : Slot) (r : VReg) : (p.absentV r).fills = p.fills := rfl
@[simp] theorem Slot.absentV_lat (p : Slot) (r : VReg) : (p.absentV r).lat = p.lat := rfl
@[simp] theorem Slot.absentV_sb (p : Slot) (r : VReg) : (p.absentV r).sb = p.sb := rfl
@[simp] theorem Slot.absentV_msgs (p : Slot) (r : VReg) : (p.absentV r).msgs = p.msgs := rfl
@[simp] theorem Slot.absentV_sendCount (p : Slot) (r : VReg) : (p.absentV r).sendCount = p.sendCount := rfl
@[simp] theorem Slot.absentV_putn (p : Slot) (r : VReg) : (p.absentV r).putn = p.putn := rfl
@[simp] theorem Slot.absentV_fstat (p : Slot) (r : VReg) : (p.absentV r).fstat = p.fstat := rfl
@[simp] theorem Slot.absentV_fenceRel (p : Slot) (r : VReg) : (p.absentV r).fenceRel = p.fenceRel := rfl
@[simp] theorem Slot.absentV_written (p : Slot) (r : VReg) : (p.absentV r).written = p.written := rfl
@[simp] theorem Slot.absentV_lost (p : Slot) (r : VReg) : (p.absentV r).lost = p.lost := rfl
@[simp] theorem Slot.absentV_taskPos (p : Slot) (r : VReg) : (p.absentV r).taskPos = p.taskPos := rfl
@[simp] theorem Slot.absentV_extent (p : Slot) (r : VReg) : (p.absentV r).extent = p.extent := rfl
@[simp] theorem Slot.absentV_ntask (p : Slot) (r : VReg) : (p.absentV r).ntask = p.ntask := rfl
@[simp] theorem Slot.absentV_ca (p : Slot) (r : VReg) : (p.absentV r).ca = p.ca := rfl
@[simp] theorem Slot.absentV_overlays (p : Slot) (r : VReg) : (p.absentV r).overlays = p.overlays := rfl
@[simp] theorem Slot.absentV_mb (p : Slot) (r : VReg) : (p.absentV r).mb = p.mb := rfl
@[simp] theorem Slot.absentV_sub (p : Slot) (r : VReg) : (p.absentV r).sub = p.sub := rfl
@[simp] theorem Slot.absentV_xferCount (p : Slot) (r : VReg) : (p.absentV r).xferCount = p.xferCount := rfl
@[simp] theorem Slot.absentV_cpyBad (p : Slot) (r : VReg) : (p.absentV r).cpyBad = p.cpyBad := rfl
@[simp] theorem Slot.absentV_cpyLast (p : Slot) (r : VReg) : (p.absentV r).cpyLast = p.cpyLast := rfl
@[simp] theorem Slot.absentV_completions (p : Slot) (r : VReg) : (p.absentV r).completions = p.completions := rfl
@[simp] theorem Slot.absentV_tagwait (p : Slot) (r : VReg) : (p.absentV r).tagwait = p.tagwait := rfl
@[simp] theorem Slot.absentV_deferred (p : Slot) (r : VReg) : (p.absentV r).deferred = p.deferred := rfl
@[simp] theorem Slot.absentV_trapWait (p : Slot) (r : VReg) : (p.absentV r).trapWait = p.trapWait := rfl
@[simp] theorem Slot.absentV_sticks (p : Slot) (r : VReg) : (p.absentV r).sticks = p.sticks := rfl
@[simp] theorem Slot.absentV_faultCount (p : Slot) (r : VReg) : (p.absentV r).faultCount = p.faultCount := rfl
@[simp] theorem Slot.absentV_kDone (p : Slot) (r : VReg) : (p.absentV r).kDone = p.kDone := rfl
@[simp] theorem Slot.absentV_streams (p : Slot) (r : VReg) : (p.absentV r).streams = p.streams := rfl
@[simp] theorem Slot.absentV_reserved (p : Slot) (r : VReg) : (p.absentV r).reserved = p.reserved := rfl
@[simp] theorem Slot.absentV_mseq (p : Slot) (r : VReg) : (p.absentV r).mseq = p.mseq := rfl
@[simp] theorem Slot.absentV_lseq (p : Slot) (r : VReg) : (p.absentV r).lseq = p.lseq := rfl
@[simp] theorem Slot.absentV_launcher (p : Slot) (r : VReg) : (p.absentV r).launcher = p.launcher := rfl
@[simp] theorem Slot.absentV_startAt (p : Slot) (r : VReg) : (p.absentV r).startAt = p.startAt := rfl
@[simp] theorem Slot.absentV_haltedAt (p : Slot) (r : VReg) : (p.absentV r).haltedAt = p.haltedAt := rfl
@[simp] theorem Slot.absentV_haltRequest (p : Slot) (r : VReg) : (p.absentV r).haltRequest = p.haltRequest := rfl
@[simp] theorem Slot.absentV_resumeRequest (p : Slot) (r : VReg) : (p.absentV r).resumeRequest = p.resumeRequest := rfl
@[simp] theorem Slot.absentV_debugHalt (p : Slot) (r : VReg) : (p.absentV r).debugHalt = p.debugHalt := rfl
@[simp] theorem Slot.absentV_remoteTag (p : Slot) (r : VReg) : (p.absentV r).remoteTag = p.remoteTag := rfl
@[simp] theorem Slot.absentV_remoteFetch (p : Slot) (r : VReg) : (p.absentV r).remoteFetch = p.remoteFetch := rfl
@[simp] theorem Slot.absentV_digest (p : Slot) (r : VReg) : (p.absentV r).digest = p.digest := rfl
@[simp] theorem Slot.absentV_hashes (p : Slot) (r : VReg) : (p.absentV r).hashes = p.hashes := rfl

@[simp] theorem Slot.setM_mode (p : Slot) (r : MReg) (w : Word) : (p.setM r w).mode = p.mode := rfl
@[simp] theorem Slot.setM_x (p : Slot) (r : MReg) (w : Word) : (p.setM r w).x = p.x := rfl
@[simp] theorem Slot.setM_xf (p : Slot) (r : MReg) (w : Word) : (p.setM r w).xf = p.xf := rfl
@[simp] theorem Slot.setM_xdead (p : Slot) (r : MReg) (w : Word) : (p.setM r w).xdead = p.xdead := rfl
@[simp] theorem Slot.setM_v (p : Slot) (r : MReg) (w : Word) : (p.setM r w).v = p.v := rfl
@[simp] theorem Slot.setM_vp (p : Slot) (r : MReg) (w : Word) : (p.setM r w).vp = p.vp := rfl
@[simp] theorem Slot.setM_pc (p : Slot) (r : MReg) (w : Word) : (p.setM r w).pc = p.pc := rfl
@[simp] theorem Slot.setM_sg (p : Slot) (r : MReg) (w : Word) : (p.setM r w).sg = p.sg := rfl
@[simp] theorem Slot.setM_ctl (p : Slot) (r : MReg) (w : Word) : (p.setM r w).ctl = p.ctl := rfl
@[simp] theorem Slot.setM_sbank (p : Slot) (r : MReg) (w : Word) : (p.setM r w).sbank = p.sbank := rfl
@[simp] theorem Slot.setM_sseg (p : Slot) (r : MReg) (w : Word) : (p.setM r w).sseg = p.sseg := rfl
@[simp] theorem Slot.setM_ubank (p : Slot) (r : MReg) (w : Word) : (p.setM r w).ubank = p.ubank := rfl
@[simp] theorem Slot.setM_park (p : Slot) (r : MReg) (w : Word) : (p.setM r w).park = p.park := rfl
@[simp] theorem Slot.setM_barrier (p : Slot) (r : MReg) (w : Word) : (p.setM r w).barrier = p.barrier := rfl
@[simp] theorem Slot.setM_yielded (p : Slot) (r : MReg) (w : Word) : (p.setM r w).yielded = p.yielded := rfl
@[simp] theorem Slot.setM_fills (p : Slot) (r : MReg) (w : Word) : (p.setM r w).fills = p.fills := rfl
@[simp] theorem Slot.setM_lat (p : Slot) (r : MReg) (w : Word) : (p.setM r w).lat = p.lat := rfl
@[simp] theorem Slot.setM_sb (p : Slot) (r : MReg) (w : Word) : (p.setM r w).sb = p.sb := rfl
@[simp] theorem Slot.setM_msgs (p : Slot) (r : MReg) (w : Word) : (p.setM r w).msgs = p.msgs := rfl
@[simp] theorem Slot.setM_sendCount (p : Slot) (r : MReg) (w : Word) : (p.setM r w).sendCount = p.sendCount := rfl
@[simp] theorem Slot.setM_putn (p : Slot) (r : MReg) (w : Word) : (p.setM r w).putn = p.putn := rfl
@[simp] theorem Slot.setM_fstat (p : Slot) (r : MReg) (w : Word) : (p.setM r w).fstat = p.fstat := rfl
@[simp] theorem Slot.setM_fenceRel (p : Slot) (r : MReg) (w : Word) : (p.setM r w).fenceRel = p.fenceRel := rfl
@[simp] theorem Slot.setM_written (p : Slot) (r : MReg) (w : Word) : (p.setM r w).written = p.written := rfl
@[simp] theorem Slot.setM_lost (p : Slot) (r : MReg) (w : Word) : (p.setM r w).lost = p.lost := rfl
@[simp] theorem Slot.setM_taskPos (p : Slot) (r : MReg) (w : Word) : (p.setM r w).taskPos = p.taskPos := rfl
@[simp] theorem Slot.setM_extent (p : Slot) (r : MReg) (w : Word) : (p.setM r w).extent = p.extent := rfl
@[simp] theorem Slot.setM_ntask (p : Slot) (r : MReg) (w : Word) : (p.setM r w).ntask = p.ntask := rfl
@[simp] theorem Slot.setM_ca (p : Slot) (r : MReg) (w : Word) : (p.setM r w).ca = p.ca := rfl
@[simp] theorem Slot.setM_overlays (p : Slot) (r : MReg) (w : Word) : (p.setM r w).overlays = p.overlays := rfl
@[simp] theorem Slot.setM_mb (p : Slot) (r : MReg) (w : Word) : (p.setM r w).mb = p.mb := rfl
@[simp] theorem Slot.setM_sub (p : Slot) (r : MReg) (w : Word) : (p.setM r w).sub = p.sub := rfl
@[simp] theorem Slot.setM_xferCount (p : Slot) (r : MReg) (w : Word) : (p.setM r w).xferCount = p.xferCount := rfl
@[simp] theorem Slot.setM_cpyBad (p : Slot) (r : MReg) (w : Word) : (p.setM r w).cpyBad = p.cpyBad := rfl
@[simp] theorem Slot.setM_cpyLast (p : Slot) (r : MReg) (w : Word) : (p.setM r w).cpyLast = p.cpyLast := rfl
@[simp] theorem Slot.setM_completions (p : Slot) (r : MReg) (w : Word) : (p.setM r w).completions = p.completions := rfl
@[simp] theorem Slot.setM_tagwait (p : Slot) (r : MReg) (w : Word) : (p.setM r w).tagwait = p.tagwait := rfl
@[simp] theorem Slot.setM_deferred (p : Slot) (r : MReg) (w : Word) : (p.setM r w).deferred = p.deferred := rfl
@[simp] theorem Slot.setM_trapWait (p : Slot) (r : MReg) (w : Word) : (p.setM r w).trapWait = p.trapWait := rfl
@[simp] theorem Slot.setM_sticks (p : Slot) (r : MReg) (w : Word) : (p.setM r w).sticks = p.sticks := rfl
@[simp] theorem Slot.setM_faultCount (p : Slot) (r : MReg) (w : Word) : (p.setM r w).faultCount = p.faultCount := rfl
@[simp] theorem Slot.setM_kDone (p : Slot) (r : MReg) (w : Word) : (p.setM r w).kDone = p.kDone := rfl
@[simp] theorem Slot.setM_streams (p : Slot) (r : MReg) (w : Word) : (p.setM r w).streams = p.streams := rfl
@[simp] theorem Slot.setM_reserved (p : Slot) (r : MReg) (w : Word) : (p.setM r w).reserved = p.reserved := rfl
@[simp] theorem Slot.setM_mseq (p : Slot) (r : MReg) (w : Word) : (p.setM r w).mseq = p.mseq := rfl
@[simp] theorem Slot.setM_lseq (p : Slot) (r : MReg) (w : Word) : (p.setM r w).lseq = p.lseq := rfl
@[simp] theorem Slot.setM_launcher (p : Slot) (r : MReg) (w : Word) : (p.setM r w).launcher = p.launcher := rfl
@[simp] theorem Slot.setM_startAt (p : Slot) (r : MReg) (w : Word) : (p.setM r w).startAt = p.startAt := rfl
@[simp] theorem Slot.setM_haltedAt (p : Slot) (r : MReg) (w : Word) : (p.setM r w).haltedAt = p.haltedAt := rfl
@[simp] theorem Slot.setM_haltRequest (p : Slot) (r : MReg) (w : Word) : (p.setM r w).haltRequest = p.haltRequest := rfl
@[simp] theorem Slot.setM_resumeRequest (p : Slot) (r : MReg) (w : Word) : (p.setM r w).resumeRequest = p.resumeRequest := rfl
@[simp] theorem Slot.setM_debugHalt (p : Slot) (r : MReg) (w : Word) : (p.setM r w).debugHalt = p.debugHalt := rfl
@[simp] theorem Slot.setM_remoteTag (p : Slot) (r : MReg) (w : Word) : (p.setM r w).remoteTag = p.remoteTag := rfl
@[simp] theorem Slot.setM_remoteFetch (p : Slot) (r : MReg) (w : Word) : (p.setM r w).remoteFetch = p.remoteFetch := rfl
@[simp] theorem Slot.setM_digest (p : Slot) (r : MReg) (w : Word) : (p.setM r w).digest = p.digest := rfl
@[simp] theorem Slot.setM_hashes (p : Slot) (r : MReg) (w : Word) : (p.setM r w).hashes = p.hashes := rfl

@[simp] theorem Slot.late_mode (p : Slot) (now r n : Nat) : (p.late now r n).mode = p.mode := rfl
@[simp] theorem Slot.late_x (p : Slot) (now r n : Nat) : (p.late now r n).x = p.x := rfl
@[simp] theorem Slot.late_xf (p : Slot) (now r n : Nat) : (p.late now r n).xf = p.xf := rfl
@[simp] theorem Slot.late_xdead (p : Slot) (now r n : Nat) : (p.late now r n).xdead = p.xdead := rfl
@[simp] theorem Slot.late_v (p : Slot) (now r n : Nat) : (p.late now r n).v = p.v := rfl
@[simp] theorem Slot.late_vp (p : Slot) (now r n : Nat) : (p.late now r n).vp = p.vp := rfl
@[simp] theorem Slot.late_m (p : Slot) (now r n : Nat) : (p.late now r n).m = p.m := rfl
@[simp] theorem Slot.late_pc (p : Slot) (now r n : Nat) : (p.late now r n).pc = p.pc := rfl
@[simp] theorem Slot.late_sg (p : Slot) (now r n : Nat) : (p.late now r n).sg = p.sg := rfl
@[simp] theorem Slot.late_ctl (p : Slot) (now r n : Nat) : (p.late now r n).ctl = p.ctl := rfl
@[simp] theorem Slot.late_sbank (p : Slot) (now r n : Nat) : (p.late now r n).sbank = p.sbank := rfl
@[simp] theorem Slot.late_sseg (p : Slot) (now r n : Nat) : (p.late now r n).sseg = p.sseg := rfl
@[simp] theorem Slot.late_ubank (p : Slot) (now r n : Nat) : (p.late now r n).ubank = p.ubank := rfl
@[simp] theorem Slot.late_park (p : Slot) (now r n : Nat) : (p.late now r n).park = p.park := rfl
@[simp] theorem Slot.late_barrier (p : Slot) (now r n : Nat) : (p.late now r n).barrier = p.barrier := rfl
@[simp] theorem Slot.late_yielded (p : Slot) (now r n : Nat) : (p.late now r n).yielded = p.yielded := rfl
@[simp] theorem Slot.late_fills (p : Slot) (now r n : Nat) : (p.late now r n).fills = p.fills := rfl
@[simp] theorem Slot.late_sb (p : Slot) (now r n : Nat) : (p.late now r n).sb = p.sb := rfl
@[simp] theorem Slot.late_msgs (p : Slot) (now r n : Nat) : (p.late now r n).msgs = p.msgs := rfl
@[simp] theorem Slot.late_sendCount (p : Slot) (now r n : Nat) : (p.late now r n).sendCount = p.sendCount := rfl
@[simp] theorem Slot.late_putn (p : Slot) (now r n : Nat) : (p.late now r n).putn = p.putn := rfl
@[simp] theorem Slot.late_fstat (p : Slot) (now r n : Nat) : (p.late now r n).fstat = p.fstat := rfl
@[simp] theorem Slot.late_fenceRel (p : Slot) (now r n : Nat) : (p.late now r n).fenceRel = p.fenceRel := rfl
@[simp] theorem Slot.late_written (p : Slot) (now r n : Nat) : (p.late now r n).written = p.written := rfl
@[simp] theorem Slot.late_lost (p : Slot) (now r n : Nat) : (p.late now r n).lost = p.lost := rfl
@[simp] theorem Slot.late_taskPos (p : Slot) (now r n : Nat) : (p.late now r n).taskPos = p.taskPos := rfl
@[simp] theorem Slot.late_extent (p : Slot) (now r n : Nat) : (p.late now r n).extent = p.extent := rfl
@[simp] theorem Slot.late_ntask (p : Slot) (now r n : Nat) : (p.late now r n).ntask = p.ntask := rfl
@[simp] theorem Slot.late_ca (p : Slot) (now r n : Nat) : (p.late now r n).ca = p.ca := rfl
@[simp] theorem Slot.late_overlays (p : Slot) (now r n : Nat) : (p.late now r n).overlays = p.overlays := rfl
@[simp] theorem Slot.late_mb (p : Slot) (now r n : Nat) : (p.late now r n).mb = p.mb := rfl
@[simp] theorem Slot.late_sub (p : Slot) (now r n : Nat) : (p.late now r n).sub = p.sub := rfl
@[simp] theorem Slot.late_xferCount (p : Slot) (now r n : Nat) : (p.late now r n).xferCount = p.xferCount := rfl
@[simp] theorem Slot.late_cpyBad (p : Slot) (now r n : Nat) : (p.late now r n).cpyBad = p.cpyBad := rfl
@[simp] theorem Slot.late_cpyLast (p : Slot) (now r n : Nat) : (p.late now r n).cpyLast = p.cpyLast := rfl
@[simp] theorem Slot.late_completions (p : Slot) (now r n : Nat) : (p.late now r n).completions = p.completions := rfl
@[simp] theorem Slot.late_tagwait (p : Slot) (now r n : Nat) : (p.late now r n).tagwait = p.tagwait := rfl
@[simp] theorem Slot.late_deferred (p : Slot) (now r n : Nat) : (p.late now r n).deferred = p.deferred := rfl
@[simp] theorem Slot.late_trapWait (p : Slot) (now r n : Nat) : (p.late now r n).trapWait = p.trapWait := rfl
@[simp] theorem Slot.late_sticks (p : Slot) (now r n : Nat) : (p.late now r n).sticks = p.sticks := rfl
@[simp] theorem Slot.late_faultCount (p : Slot) (now r n : Nat) : (p.late now r n).faultCount = p.faultCount := rfl
@[simp] theorem Slot.late_kDone (p : Slot) (now r n : Nat) : (p.late now r n).kDone = p.kDone := rfl
@[simp] theorem Slot.late_streams (p : Slot) (now r n : Nat) : (p.late now r n).streams = p.streams := rfl
@[simp] theorem Slot.late_reserved (p : Slot) (now r n : Nat) : (p.late now r n).reserved = p.reserved := rfl
@[simp] theorem Slot.late_mseq (p : Slot) (now r n : Nat) : (p.late now r n).mseq = p.mseq := rfl
@[simp] theorem Slot.late_lseq (p : Slot) (now r n : Nat) : (p.late now r n).lseq = p.lseq := rfl
@[simp] theorem Slot.late_launcher (p : Slot) (now r n : Nat) : (p.late now r n).launcher = p.launcher := rfl
@[simp] theorem Slot.late_startAt (p : Slot) (now r n : Nat) : (p.late now r n).startAt = p.startAt := rfl
@[simp] theorem Slot.late_haltedAt (p : Slot) (now r n : Nat) : (p.late now r n).haltedAt = p.haltedAt := rfl
@[simp] theorem Slot.late_haltRequest (p : Slot) (now r n : Nat) : (p.late now r n).haltRequest = p.haltRequest := rfl
@[simp] theorem Slot.late_resumeRequest (p : Slot) (now r n : Nat) : (p.late now r n).resumeRequest = p.resumeRequest := rfl
@[simp] theorem Slot.late_debugHalt (p : Slot) (now r n : Nat) : (p.late now r n).debugHalt = p.debugHalt := rfl
@[simp] theorem Slot.late_remoteTag (p : Slot) (now r n : Nat) : (p.late now r n).remoteTag = p.remoteTag := rfl
@[simp] theorem Slot.late_remoteFetch (p : Slot) (now r n : Nat) : (p.late now r n).remoteFetch = p.remoteFetch := rfl
@[simp] theorem Slot.late_digest (p : Slot) (now r n : Nat) : (p.late now r n).digest = p.digest := rfl
@[simp] theorem Slot.late_hashes (p : Slot) (now r n : Nat) : (p.late now r n).hashes = p.hashes := rfl

@[simp] theorem Slot.setStatus_mode (p : Slot) (k : Nat) (b : Bool) : (p.setStatus k b).mode = p.mode := rfl
@[simp] theorem Slot.setStatus_x (p : Slot) (k : Nat) (b : Bool) : (p.setStatus k b).x = p.x := rfl
@[simp] theorem Slot.setStatus_xf (p : Slot) (k : Nat) (b : Bool) : (p.setStatus k b).xf = p.xf := rfl
@[simp] theorem Slot.setStatus_xdead (p : Slot) (k : Nat) (b : Bool) : (p.setStatus k b).xdead = p.xdead := rfl
@[simp] theorem Slot.setStatus_v (p : Slot) (k : Nat) (b : Bool) : (p.setStatus k b).v = p.v := rfl
@[simp] theorem Slot.setStatus_vp (p : Slot) (k : Nat) (b : Bool) : (p.setStatus k b).vp = p.vp := rfl
@[simp] theorem Slot.setStatus_m (p : Slot) (k : Nat) (b : Bool) : (p.setStatus k b).m = p.m := rfl
@[simp] theorem Slot.setStatus_pc (p : Slot) (k : Nat) (b : Bool) : (p.setStatus k b).pc = p.pc := rfl
@[simp] theorem Slot.setStatus_sg (p : Slot) (k : Nat) (b : Bool) : (p.setStatus k b).sg = p.sg := rfl
@[simp] theorem Slot.setStatus_sbank (p : Slot) (k : Nat) (b : Bool) : (p.setStatus k b).sbank = p.sbank := rfl
@[simp] theorem Slot.setStatus_sseg (p : Slot) (k : Nat) (b : Bool) : (p.setStatus k b).sseg = p.sseg := rfl
@[simp] theorem Slot.setStatus_ubank (p : Slot) (k : Nat) (b : Bool) : (p.setStatus k b).ubank = p.ubank := rfl
@[simp] theorem Slot.setStatus_park (p : Slot) (k : Nat) (b : Bool) : (p.setStatus k b).park = p.park := rfl
@[simp] theorem Slot.setStatus_barrier (p : Slot) (k : Nat) (b : Bool) : (p.setStatus k b).barrier = p.barrier := rfl
@[simp] theorem Slot.setStatus_yielded (p : Slot) (k : Nat) (b : Bool) : (p.setStatus k b).yielded = p.yielded := rfl
@[simp] theorem Slot.setStatus_fills (p : Slot) (k : Nat) (b : Bool) : (p.setStatus k b).fills = p.fills := rfl
@[simp] theorem Slot.setStatus_lat (p : Slot) (k : Nat) (b : Bool) : (p.setStatus k b).lat = p.lat := rfl
@[simp] theorem Slot.setStatus_sb (p : Slot) (k : Nat) (b : Bool) : (p.setStatus k b).sb = p.sb := rfl
@[simp] theorem Slot.setStatus_msgs (p : Slot) (k : Nat) (b : Bool) : (p.setStatus k b).msgs = p.msgs := rfl
@[simp] theorem Slot.setStatus_sendCount (p : Slot) (k : Nat) (b : Bool) : (p.setStatus k b).sendCount = p.sendCount := rfl
@[simp] theorem Slot.setStatus_putn (p : Slot) (k : Nat) (b : Bool) : (p.setStatus k b).putn = p.putn := rfl
@[simp] theorem Slot.setStatus_fstat (p : Slot) (k : Nat) (b : Bool) : (p.setStatus k b).fstat = p.fstat := rfl
@[simp] theorem Slot.setStatus_fenceRel (p : Slot) (k : Nat) (b : Bool) : (p.setStatus k b).fenceRel = p.fenceRel := rfl
@[simp] theorem Slot.setStatus_written (p : Slot) (k : Nat) (b : Bool) : (p.setStatus k b).written = p.written := rfl
@[simp] theorem Slot.setStatus_lost (p : Slot) (k : Nat) (b : Bool) : (p.setStatus k b).lost = p.lost := rfl
@[simp] theorem Slot.setStatus_taskPos (p : Slot) (k : Nat) (b : Bool) : (p.setStatus k b).taskPos = p.taskPos := rfl
@[simp] theorem Slot.setStatus_extent (p : Slot) (k : Nat) (b : Bool) : (p.setStatus k b).extent = p.extent := rfl
@[simp] theorem Slot.setStatus_ntask (p : Slot) (k : Nat) (b : Bool) : (p.setStatus k b).ntask = p.ntask := rfl
@[simp] theorem Slot.setStatus_ca (p : Slot) (k : Nat) (b : Bool) : (p.setStatus k b).ca = p.ca := rfl
@[simp] theorem Slot.setStatus_overlays (p : Slot) (k : Nat) (b : Bool) : (p.setStatus k b).overlays = p.overlays := rfl
@[simp] theorem Slot.setStatus_mb (p : Slot) (k : Nat) (b : Bool) : (p.setStatus k b).mb = p.mb := rfl
@[simp] theorem Slot.setStatus_sub (p : Slot) (k : Nat) (b : Bool) : (p.setStatus k b).sub = p.sub := rfl
@[simp] theorem Slot.setStatus_xferCount (p : Slot) (k : Nat) (b : Bool) : (p.setStatus k b).xferCount = p.xferCount := rfl
@[simp] theorem Slot.setStatus_cpyBad (p : Slot) (k : Nat) (b : Bool) : (p.setStatus k b).cpyBad = p.cpyBad := rfl
@[simp] theorem Slot.setStatus_cpyLast (p : Slot) (k : Nat) (b : Bool) : (p.setStatus k b).cpyLast = p.cpyLast := rfl
@[simp] theorem Slot.setStatus_completions (p : Slot) (k : Nat) (b : Bool) : (p.setStatus k b).completions = p.completions := rfl
@[simp] theorem Slot.setStatus_tagwait (p : Slot) (k : Nat) (b : Bool) : (p.setStatus k b).tagwait = p.tagwait := rfl
@[simp] theorem Slot.setStatus_deferred (p : Slot) (k : Nat) (b : Bool) : (p.setStatus k b).deferred = p.deferred := rfl
@[simp] theorem Slot.setStatus_trapWait (p : Slot) (k : Nat) (b : Bool) : (p.setStatus k b).trapWait = p.trapWait := rfl
@[simp] theorem Slot.setStatus_sticks (p : Slot) (k : Nat) (b : Bool) : (p.setStatus k b).sticks = p.sticks := rfl
@[simp] theorem Slot.setStatus_faultCount (p : Slot) (k : Nat) (b : Bool) : (p.setStatus k b).faultCount = p.faultCount := rfl
@[simp] theorem Slot.setStatus_kDone (p : Slot) (k : Nat) (b : Bool) : (p.setStatus k b).kDone = p.kDone := rfl
@[simp] theorem Slot.setStatus_streams (p : Slot) (k : Nat) (b : Bool) : (p.setStatus k b).streams = p.streams := rfl
@[simp] theorem Slot.setStatus_reserved (p : Slot) (k : Nat) (b : Bool) : (p.setStatus k b).reserved = p.reserved := rfl
@[simp] theorem Slot.setStatus_mseq (p : Slot) (k : Nat) (b : Bool) : (p.setStatus k b).mseq = p.mseq := rfl
@[simp] theorem Slot.setStatus_lseq (p : Slot) (k : Nat) (b : Bool) : (p.setStatus k b).lseq = p.lseq := rfl
@[simp] theorem Slot.setStatus_launcher (p : Slot) (k : Nat) (b : Bool) : (p.setStatus k b).launcher = p.launcher := rfl
@[simp] theorem Slot.setStatus_startAt (p : Slot) (k : Nat) (b : Bool) : (p.setStatus k b).startAt = p.startAt := rfl
@[simp] theorem Slot.setStatus_haltedAt (p : Slot) (k : Nat) (b : Bool) : (p.setStatus k b).haltedAt = p.haltedAt := rfl
@[simp] theorem Slot.setStatus_haltRequest (p : Slot) (k : Nat) (b : Bool) : (p.setStatus k b).haltRequest = p.haltRequest := rfl
@[simp] theorem Slot.setStatus_resumeRequest (p : Slot) (k : Nat) (b : Bool) : (p.setStatus k b).resumeRequest = p.resumeRequest := rfl
@[simp] theorem Slot.setStatus_debugHalt (p : Slot) (k : Nat) (b : Bool) : (p.setStatus k b).debugHalt = p.debugHalt := rfl
@[simp] theorem Slot.setStatus_remoteTag (p : Slot) (k : Nat) (b : Bool) : (p.setStatus k b).remoteTag = p.remoteTag := rfl
@[simp] theorem Slot.setStatus_remoteFetch (p : Slot) (k : Nat) (b : Bool) : (p.setStatus k b).remoteFetch = p.remoteFetch := rfl
@[simp] theorem Slot.setStatus_digest (p : Slot) (k : Nat) (b : Bool) : (p.setStatus k b).digest = p.digest := rfl
@[simp] theorem Slot.setStatus_hashes (p : Slot) (k : Nat) (b : Bool) : (p.setStatus k b).hashes = p.hashes := rfl

@[simp] theorem Slot.setBurnst_mode (p : Slot) (lo n v : Nat) : (p.setBurnst lo n v).mode = p.mode := rfl
@[simp] theorem Slot.setBurnst_x (p : Slot) (lo n v : Nat) : (p.setBurnst lo n v).x = p.x := rfl
@[simp] theorem Slot.setBurnst_xf (p : Slot) (lo n v : Nat) : (p.setBurnst lo n v).xf = p.xf := rfl
@[simp] theorem Slot.setBurnst_xdead (p : Slot) (lo n v : Nat) : (p.setBurnst lo n v).xdead = p.xdead := rfl
@[simp] theorem Slot.setBurnst_v (p : Slot) (lo n v : Nat) : (p.setBurnst lo n v).v = p.v := rfl
@[simp] theorem Slot.setBurnst_vp (p : Slot) (lo n v : Nat) : (p.setBurnst lo n v).vp = p.vp := rfl
@[simp] theorem Slot.setBurnst_m (p : Slot) (lo n v : Nat) : (p.setBurnst lo n v).m = p.m := rfl
@[simp] theorem Slot.setBurnst_pc (p : Slot) (lo n v : Nat) : (p.setBurnst lo n v).pc = p.pc := rfl
@[simp] theorem Slot.setBurnst_sg (p : Slot) (lo n v : Nat) : (p.setBurnst lo n v).sg = p.sg := rfl
@[simp] theorem Slot.setBurnst_sbank (p : Slot) (lo n v : Nat) : (p.setBurnst lo n v).sbank = p.sbank := rfl
@[simp] theorem Slot.setBurnst_sseg (p : Slot) (lo n v : Nat) : (p.setBurnst lo n v).sseg = p.sseg := rfl
@[simp] theorem Slot.setBurnst_ubank (p : Slot) (lo n v : Nat) : (p.setBurnst lo n v).ubank = p.ubank := rfl
@[simp] theorem Slot.setBurnst_park (p : Slot) (lo n v : Nat) : (p.setBurnst lo n v).park = p.park := rfl
@[simp] theorem Slot.setBurnst_barrier (p : Slot) (lo n v : Nat) : (p.setBurnst lo n v).barrier = p.barrier := rfl
@[simp] theorem Slot.setBurnst_yielded (p : Slot) (lo n v : Nat) : (p.setBurnst lo n v).yielded = p.yielded := rfl
@[simp] theorem Slot.setBurnst_fills (p : Slot) (lo n v : Nat) : (p.setBurnst lo n v).fills = p.fills := rfl
@[simp] theorem Slot.setBurnst_lat (p : Slot) (lo n v : Nat) : (p.setBurnst lo n v).lat = p.lat := rfl
@[simp] theorem Slot.setBurnst_sb (p : Slot) (lo n v : Nat) : (p.setBurnst lo n v).sb = p.sb := rfl
@[simp] theorem Slot.setBurnst_msgs (p : Slot) (lo n v : Nat) : (p.setBurnst lo n v).msgs = p.msgs := rfl
@[simp] theorem Slot.setBurnst_sendCount (p : Slot) (lo n v : Nat) : (p.setBurnst lo n v).sendCount = p.sendCount := rfl
@[simp] theorem Slot.setBurnst_putn (p : Slot) (lo n v : Nat) : (p.setBurnst lo n v).putn = p.putn := rfl
@[simp] theorem Slot.setBurnst_fstat (p : Slot) (lo n v : Nat) : (p.setBurnst lo n v).fstat = p.fstat := rfl
@[simp] theorem Slot.setBurnst_fenceRel (p : Slot) (lo n v : Nat) : (p.setBurnst lo n v).fenceRel = p.fenceRel := rfl
@[simp] theorem Slot.setBurnst_written (p : Slot) (lo n v : Nat) : (p.setBurnst lo n v).written = p.written := rfl
@[simp] theorem Slot.setBurnst_lost (p : Slot) (lo n v : Nat) : (p.setBurnst lo n v).lost = p.lost := rfl
@[simp] theorem Slot.setBurnst_taskPos (p : Slot) (lo n v : Nat) : (p.setBurnst lo n v).taskPos = p.taskPos := rfl
@[simp] theorem Slot.setBurnst_extent (p : Slot) (lo n v : Nat) : (p.setBurnst lo n v).extent = p.extent := rfl
@[simp] theorem Slot.setBurnst_ntask (p : Slot) (lo n v : Nat) : (p.setBurnst lo n v).ntask = p.ntask := rfl
@[simp] theorem Slot.setBurnst_ca (p : Slot) (lo n v : Nat) : (p.setBurnst lo n v).ca = p.ca := rfl
@[simp] theorem Slot.setBurnst_overlays (p : Slot) (lo n v : Nat) : (p.setBurnst lo n v).overlays = p.overlays := rfl
@[simp] theorem Slot.setBurnst_mb (p : Slot) (lo n v : Nat) : (p.setBurnst lo n v).mb = p.mb := rfl
@[simp] theorem Slot.setBurnst_sub (p : Slot) (lo n v : Nat) : (p.setBurnst lo n v).sub = p.sub := rfl
@[simp] theorem Slot.setBurnst_xferCount (p : Slot) (lo n v : Nat) : (p.setBurnst lo n v).xferCount = p.xferCount := rfl
@[simp] theorem Slot.setBurnst_cpyBad (p : Slot) (lo n v : Nat) : (p.setBurnst lo n v).cpyBad = p.cpyBad := rfl
@[simp] theorem Slot.setBurnst_cpyLast (p : Slot) (lo n v : Nat) : (p.setBurnst lo n v).cpyLast = p.cpyLast := rfl
@[simp] theorem Slot.setBurnst_completions (p : Slot) (lo n v : Nat) : (p.setBurnst lo n v).completions = p.completions := rfl
@[simp] theorem Slot.setBurnst_tagwait (p : Slot) (lo n v : Nat) : (p.setBurnst lo n v).tagwait = p.tagwait := rfl
@[simp] theorem Slot.setBurnst_deferred (p : Slot) (lo n v : Nat) : (p.setBurnst lo n v).deferred = p.deferred := rfl
@[simp] theorem Slot.setBurnst_trapWait (p : Slot) (lo n v : Nat) : (p.setBurnst lo n v).trapWait = p.trapWait := rfl
@[simp] theorem Slot.setBurnst_sticks (p : Slot) (lo n v : Nat) : (p.setBurnst lo n v).sticks = p.sticks := rfl
@[simp] theorem Slot.setBurnst_faultCount (p : Slot) (lo n v : Nat) : (p.setBurnst lo n v).faultCount = p.faultCount := rfl
@[simp] theorem Slot.setBurnst_kDone (p : Slot) (lo n v : Nat) : (p.setBurnst lo n v).kDone = p.kDone := rfl
@[simp] theorem Slot.setBurnst_streams (p : Slot) (lo n v : Nat) : (p.setBurnst lo n v).streams = p.streams := rfl
@[simp] theorem Slot.setBurnst_reserved (p : Slot) (lo n v : Nat) : (p.setBurnst lo n v).reserved = p.reserved := rfl
@[simp] theorem Slot.setBurnst_mseq (p : Slot) (lo n v : Nat) : (p.setBurnst lo n v).mseq = p.mseq := rfl
@[simp] theorem Slot.setBurnst_lseq (p : Slot) (lo n v : Nat) : (p.setBurnst lo n v).lseq = p.lseq := rfl
@[simp] theorem Slot.setBurnst_launcher (p : Slot) (lo n v : Nat) : (p.setBurnst lo n v).launcher = p.launcher := rfl
@[simp] theorem Slot.setBurnst_startAt (p : Slot) (lo n v : Nat) : (p.setBurnst lo n v).startAt = p.startAt := rfl
@[simp] theorem Slot.setBurnst_haltedAt (p : Slot) (lo n v : Nat) : (p.setBurnst lo n v).haltedAt = p.haltedAt := rfl
@[simp] theorem Slot.setBurnst_haltRequest (p : Slot) (lo n v : Nat) : (p.setBurnst lo n v).haltRequest = p.haltRequest := rfl
@[simp] theorem Slot.setBurnst_resumeRequest (p : Slot) (lo n v : Nat) : (p.setBurnst lo n v).resumeRequest = p.resumeRequest := rfl
@[simp] theorem Slot.setBurnst_debugHalt (p : Slot) (lo n v : Nat) : (p.setBurnst lo n v).debugHalt = p.debugHalt := rfl
@[simp] theorem Slot.setBurnst_remoteTag (p : Slot) (lo n v : Nat) : (p.setBurnst lo n v).remoteTag = p.remoteTag := rfl
@[simp] theorem Slot.setBurnst_remoteFetch (p : Slot) (lo n v : Nat) : (p.setBurnst lo n v).remoteFetch = p.remoteFetch := rfl
@[simp] theorem Slot.setBurnst_digest (p : Slot) (lo n v : Nat) : (p.setBurnst lo n v).digest = p.digest := rfl
@[simp] theorem Slot.setBurnst_hashes (p : Slot) (lo n v : Nat) : (p.setBurnst lo n v).hashes = p.hashes := rfl

@[simp] theorem Slot.discardHeld_mode (p : Slot) : p.discardHeld.mode = p.mode := rfl
@[simp] theorem Slot.discardHeld_x (p : Slot) : p.discardHeld.x = p.x := rfl
@[simp] theorem Slot.discardHeld_xf (p : Slot) : p.discardHeld.xf = p.xf := rfl
@[simp] theorem Slot.discardHeld_xdead (p : Slot) : p.discardHeld.xdead = p.xdead := rfl
@[simp] theorem Slot.discardHeld_v (p : Slot) : p.discardHeld.v = p.v := rfl
@[simp] theorem Slot.discardHeld_vp (p : Slot) : p.discardHeld.vp = p.vp := rfl
@[simp] theorem Slot.discardHeld_m (p : Slot) : p.discardHeld.m = p.m := rfl
@[simp] theorem Slot.discardHeld_pc (p : Slot) : p.discardHeld.pc = p.pc := rfl
@[simp] theorem Slot.discardHeld_sg (p : Slot) : p.discardHeld.sg = p.sg := rfl
@[simp] theorem Slot.discardHeld_ctl (p : Slot) : p.discardHeld.ctl = p.ctl := rfl
@[simp] theorem Slot.discardHeld_sbank (p : Slot) : p.discardHeld.sbank = p.sbank := rfl
@[simp] theorem Slot.discardHeld_sseg (p : Slot) : p.discardHeld.sseg = p.sseg := rfl
@[simp] theorem Slot.discardHeld_ubank (p : Slot) : p.discardHeld.ubank = p.ubank := rfl
@[simp] theorem Slot.discardHeld_park (p : Slot) : p.discardHeld.park = p.park := rfl
@[simp] theorem Slot.discardHeld_barrier (p : Slot) : p.discardHeld.barrier = p.barrier := rfl
@[simp] theorem Slot.discardHeld_yielded (p : Slot) : p.discardHeld.yielded = p.yielded := rfl
@[simp] theorem Slot.discardHeld_fills (p : Slot) : p.discardHeld.fills = p.fills := rfl
@[simp] theorem Slot.discardHeld_lat (p : Slot) : p.discardHeld.lat = p.lat := rfl
@[simp] theorem Slot.discardHeld_msgs (p : Slot) : p.discardHeld.msgs = p.msgs := rfl
@[simp] theorem Slot.discardHeld_putn (p : Slot) : p.discardHeld.putn = p.putn := rfl
@[simp] theorem Slot.discardHeld_fstat (p : Slot) : p.discardHeld.fstat = p.fstat := rfl
@[simp] theorem Slot.discardHeld_fenceRel (p : Slot) : p.discardHeld.fenceRel = p.fenceRel := rfl
@[simp] theorem Slot.discardHeld_written (p : Slot) : p.discardHeld.written = p.written := rfl
@[simp] theorem Slot.discardHeld_lost (p : Slot) : p.discardHeld.lost = p.lost := rfl
@[simp] theorem Slot.discardHeld_taskPos (p : Slot) : p.discardHeld.taskPos = p.taskPos := rfl
@[simp] theorem Slot.discardHeld_extent (p : Slot) : p.discardHeld.extent = p.extent := rfl
@[simp] theorem Slot.discardHeld_ntask (p : Slot) : p.discardHeld.ntask = p.ntask := rfl
@[simp] theorem Slot.discardHeld_ca (p : Slot) : p.discardHeld.ca = p.ca := rfl
@[simp] theorem Slot.discardHeld_overlays (p : Slot) : p.discardHeld.overlays = p.overlays := rfl
@[simp] theorem Slot.discardHeld_mb (p : Slot) : p.discardHeld.mb = p.mb := rfl
@[simp] theorem Slot.discardHeld_sub (p : Slot) : p.discardHeld.sub = p.sub := rfl
@[simp] theorem Slot.discardHeld_xferCount (p : Slot) : p.discardHeld.xferCount = p.xferCount := rfl
@[simp] theorem Slot.discardHeld_cpyBad (p : Slot) : p.discardHeld.cpyBad = p.cpyBad := rfl
@[simp] theorem Slot.discardHeld_cpyLast (p : Slot) : p.discardHeld.cpyLast = p.cpyLast := rfl
@[simp] theorem Slot.discardHeld_completions (p : Slot) : p.discardHeld.completions = p.completions := rfl
@[simp] theorem Slot.discardHeld_tagwait (p : Slot) : p.discardHeld.tagwait = p.tagwait := rfl
@[simp] theorem Slot.discardHeld_deferred (p : Slot) : p.discardHeld.deferred = p.deferred := rfl
@[simp] theorem Slot.discardHeld_trapWait (p : Slot) : p.discardHeld.trapWait = p.trapWait := rfl
@[simp] theorem Slot.discardHeld_sticks (p : Slot) : p.discardHeld.sticks = p.sticks := rfl
@[simp] theorem Slot.discardHeld_faultCount (p : Slot) : p.discardHeld.faultCount = p.faultCount := rfl
@[simp] theorem Slot.discardHeld_kDone (p : Slot) : p.discardHeld.kDone = p.kDone := rfl
@[simp] theorem Slot.discardHeld_streams (p : Slot) : p.discardHeld.streams = p.streams := rfl
@[simp] theorem Slot.discardHeld_reserved (p : Slot) : p.discardHeld.reserved = p.reserved := rfl
@[simp] theorem Slot.discardHeld_mseq (p : Slot) : p.discardHeld.mseq = p.mseq := rfl
@[simp] theorem Slot.discardHeld_lseq (p : Slot) : p.discardHeld.lseq = p.lseq := rfl
@[simp] theorem Slot.discardHeld_launcher (p : Slot) : p.discardHeld.launcher = p.launcher := rfl
@[simp] theorem Slot.discardHeld_startAt (p : Slot) : p.discardHeld.startAt = p.startAt := rfl
@[simp] theorem Slot.discardHeld_haltedAt (p : Slot) : p.discardHeld.haltedAt = p.haltedAt := rfl
@[simp] theorem Slot.discardHeld_haltRequest (p : Slot) : p.discardHeld.haltRequest = p.haltRequest := rfl
@[simp] theorem Slot.discardHeld_resumeRequest (p : Slot) : p.discardHeld.resumeRequest = p.resumeRequest := rfl
@[simp] theorem Slot.discardHeld_debugHalt (p : Slot) : p.discardHeld.debugHalt = p.debugHalt := rfl
@[simp] theorem Slot.discardHeld_remoteTag (p : Slot) : p.discardHeld.remoteTag = p.remoteTag := rfl
@[simp] theorem Slot.discardHeld_remoteFetch (p : Slot) : p.discardHeld.remoteFetch = p.remoteFetch := rfl
@[simp] theorem Slot.discardHeld_digest (p : Slot) : p.discardHeld.digest = p.digest := rfl

@[simp] theorem Slot.stick_mode (p : Slot) (f : Sticky) (n : Nat) : (p.stick f n).mode = p.mode := rfl
@[simp] theorem Slot.stick_x (p : Slot) (f : Sticky) (n : Nat) : (p.stick f n).x = p.x := rfl
@[simp] theorem Slot.stick_xf (p : Slot) (f : Sticky) (n : Nat) : (p.stick f n).xf = p.xf := rfl
@[simp] theorem Slot.stick_xdead (p : Slot) (f : Sticky) (n : Nat) : (p.stick f n).xdead = p.xdead := rfl
@[simp] theorem Slot.stick_v (p : Slot) (f : Sticky) (n : Nat) : (p.stick f n).v = p.v := rfl
@[simp] theorem Slot.stick_vp (p : Slot) (f : Sticky) (n : Nat) : (p.stick f n).vp = p.vp := rfl
@[simp] theorem Slot.stick_m (p : Slot) (f : Sticky) (n : Nat) : (p.stick f n).m = p.m := rfl
@[simp] theorem Slot.stick_pc (p : Slot) (f : Sticky) (n : Nat) : (p.stick f n).pc = p.pc := rfl
@[simp] theorem Slot.stick_sg (p : Slot) (f : Sticky) (n : Nat) : (p.stick f n).sg = p.sg := rfl
@[simp] theorem Slot.stick_ctl (p : Slot) (f : Sticky) (n : Nat) : (p.stick f n).ctl = p.ctl := rfl
@[simp] theorem Slot.stick_sbank (p : Slot) (f : Sticky) (n : Nat) : (p.stick f n).sbank = p.sbank := rfl
@[simp] theorem Slot.stick_sseg (p : Slot) (f : Sticky) (n : Nat) : (p.stick f n).sseg = p.sseg := rfl
@[simp] theorem Slot.stick_ubank (p : Slot) (f : Sticky) (n : Nat) : (p.stick f n).ubank = p.ubank := rfl
@[simp] theorem Slot.stick_park (p : Slot) (f : Sticky) (n : Nat) : (p.stick f n).park = p.park := rfl
@[simp] theorem Slot.stick_barrier (p : Slot) (f : Sticky) (n : Nat) : (p.stick f n).barrier = p.barrier := rfl
@[simp] theorem Slot.stick_yielded (p : Slot) (f : Sticky) (n : Nat) : (p.stick f n).yielded = p.yielded := rfl
@[simp] theorem Slot.stick_fills (p : Slot) (f : Sticky) (n : Nat) : (p.stick f n).fills = p.fills := rfl
@[simp] theorem Slot.stick_lat (p : Slot) (f : Sticky) (n : Nat) : (p.stick f n).lat = p.lat := rfl
@[simp] theorem Slot.stick_sb (p : Slot) (f : Sticky) (n : Nat) : (p.stick f n).sb = p.sb := rfl
@[simp] theorem Slot.stick_msgs (p : Slot) (f : Sticky) (n : Nat) : (p.stick f n).msgs = p.msgs := rfl
@[simp] theorem Slot.stick_sendCount (p : Slot) (f : Sticky) (n : Nat) : (p.stick f n).sendCount = p.sendCount := rfl
@[simp] theorem Slot.stick_putn (p : Slot) (f : Sticky) (n : Nat) : (p.stick f n).putn = p.putn := rfl
@[simp] theorem Slot.stick_fstat (p : Slot) (f : Sticky) (n : Nat) : (p.stick f n).fstat = p.fstat := rfl
@[simp] theorem Slot.stick_fenceRel (p : Slot) (f : Sticky) (n : Nat) : (p.stick f n).fenceRel = p.fenceRel := rfl
@[simp] theorem Slot.stick_written (p : Slot) (f : Sticky) (n : Nat) : (p.stick f n).written = p.written := rfl
@[simp] theorem Slot.stick_lost (p : Slot) (f : Sticky) (n : Nat) : (p.stick f n).lost = p.lost := rfl
@[simp] theorem Slot.stick_taskPos (p : Slot) (f : Sticky) (n : Nat) : (p.stick f n).taskPos = p.taskPos := rfl
@[simp] theorem Slot.stick_extent (p : Slot) (f : Sticky) (n : Nat) : (p.stick f n).extent = p.extent := rfl
@[simp] theorem Slot.stick_ntask (p : Slot) (f : Sticky) (n : Nat) : (p.stick f n).ntask = p.ntask := rfl
@[simp] theorem Slot.stick_ca (p : Slot) (f : Sticky) (n : Nat) : (p.stick f n).ca = p.ca := rfl
@[simp] theorem Slot.stick_overlays (p : Slot) (f : Sticky) (n : Nat) : (p.stick f n).overlays = p.overlays := rfl
@[simp] theorem Slot.stick_mb (p : Slot) (f : Sticky) (n : Nat) : (p.stick f n).mb = p.mb := rfl
@[simp] theorem Slot.stick_sub (p : Slot) (f : Sticky) (n : Nat) : (p.stick f n).sub = p.sub := rfl
@[simp] theorem Slot.stick_xferCount (p : Slot) (f : Sticky) (n : Nat) : (p.stick f n).xferCount = p.xferCount := rfl
@[simp] theorem Slot.stick_cpyBad (p : Slot) (f : Sticky) (n : Nat) : (p.stick f n).cpyBad = p.cpyBad := rfl
@[simp] theorem Slot.stick_cpyLast (p : Slot) (f : Sticky) (n : Nat) : (p.stick f n).cpyLast = p.cpyLast := rfl
@[simp] theorem Slot.stick_completions (p : Slot) (f : Sticky) (n : Nat) : (p.stick f n).completions = p.completions := rfl
@[simp] theorem Slot.stick_tagwait (p : Slot) (f : Sticky) (n : Nat) : (p.stick f n).tagwait = p.tagwait := rfl
@[simp] theorem Slot.stick_deferred (p : Slot) (f : Sticky) (n : Nat) : (p.stick f n).deferred = p.deferred := rfl
@[simp] theorem Slot.stick_trapWait (p : Slot) (f : Sticky) (n : Nat) : (p.stick f n).trapWait = p.trapWait := rfl
@[simp] theorem Slot.stick_faultCount (p : Slot) (f : Sticky) (n : Nat) : (p.stick f n).faultCount = p.faultCount := rfl
@[simp] theorem Slot.stick_kDone (p : Slot) (f : Sticky) (n : Nat) : (p.stick f n).kDone = p.kDone := rfl
@[simp] theorem Slot.stick_streams (p : Slot) (f : Sticky) (n : Nat) : (p.stick f n).streams = p.streams := rfl
@[simp] theorem Slot.stick_reserved (p : Slot) (f : Sticky) (n : Nat) : (p.stick f n).reserved = p.reserved := rfl
@[simp] theorem Slot.stick_mseq (p : Slot) (f : Sticky) (n : Nat) : (p.stick f n).mseq = p.mseq := rfl
@[simp] theorem Slot.stick_lseq (p : Slot) (f : Sticky) (n : Nat) : (p.stick f n).lseq = p.lseq := rfl
@[simp] theorem Slot.stick_launcher (p : Slot) (f : Sticky) (n : Nat) : (p.stick f n).launcher = p.launcher := rfl
@[simp] theorem Slot.stick_startAt (p : Slot) (f : Sticky) (n : Nat) : (p.stick f n).startAt = p.startAt := rfl
@[simp] theorem Slot.stick_haltedAt (p : Slot) (f : Sticky) (n : Nat) : (p.stick f n).haltedAt = p.haltedAt := rfl
@[simp] theorem Slot.stick_haltRequest (p : Slot) (f : Sticky) (n : Nat) : (p.stick f n).haltRequest = p.haltRequest := rfl
@[simp] theorem Slot.stick_resumeRequest (p : Slot) (f : Sticky) (n : Nat) : (p.stick f n).resumeRequest = p.resumeRequest := rfl
@[simp] theorem Slot.stick_debugHalt (p : Slot) (f : Sticky) (n : Nat) : (p.stick f n).debugHalt = p.debugHalt := rfl
@[simp] theorem Slot.stick_remoteTag (p : Slot) (f : Sticky) (n : Nat) : (p.stick f n).remoteTag = p.remoteTag := rfl
@[simp] theorem Slot.stick_remoteFetch (p : Slot) (f : Sticky) (n : Nat) : (p.stick f n).remoteFetch = p.remoteFetch := rfl
@[simp] theorem Slot.stick_digest (p : Slot) (f : Sticky) (n : Nat) : (p.stick f n).digest = p.digest := rfl
@[simp] theorem Slot.stick_hashes (p : Slot) (f : Sticky) (n : Nat) : (p.stick f n).hashes = p.hashes := rfl

@[simp] theorem Slot.setTop_mode (p : Slot) (b : Bank) : (p.setTop b).mode = p.mode := rfl
@[simp] theorem Slot.setTop_xdead (p : Slot) (b : Bank) : (p.setTop b).xdead = p.xdead := rfl
@[simp] theorem Slot.setTop_v (p : Slot) (b : Bank) : (p.setTop b).v = p.v := rfl
@[simp] theorem Slot.setTop_vp (p : Slot) (b : Bank) : (p.setTop b).vp = p.vp := rfl
@[simp] theorem Slot.setTop_m (p : Slot) (b : Bank) : (p.setTop b).m = p.m := rfl
@[simp] theorem Slot.setTop_pc (p : Slot) (b : Bank) : (p.setTop b).pc = p.pc := rfl
@[simp] theorem Slot.setTop_sg (p : Slot) (b : Bank) : (p.setTop b).sg = p.sg := rfl
@[simp] theorem Slot.setTop_ctl (p : Slot) (b : Bank) : (p.setTop b).ctl = p.ctl := rfl
@[simp] theorem Slot.setTop_sbank (p : Slot) (b : Bank) : (p.setTop b).sbank = p.sbank := rfl
@[simp] theorem Slot.setTop_sseg (p : Slot) (b : Bank) : (p.setTop b).sseg = p.sseg := rfl
@[simp] theorem Slot.setTop_ubank (p : Slot) (b : Bank) : (p.setTop b).ubank = p.ubank := rfl
@[simp] theorem Slot.setTop_park (p : Slot) (b : Bank) : (p.setTop b).park = p.park := rfl
@[simp] theorem Slot.setTop_barrier (p : Slot) (b : Bank) : (p.setTop b).barrier = p.barrier := rfl
@[simp] theorem Slot.setTop_yielded (p : Slot) (b : Bank) : (p.setTop b).yielded = p.yielded := rfl
@[simp] theorem Slot.setTop_fills (p : Slot) (b : Bank) : (p.setTop b).fills = p.fills := rfl
@[simp] theorem Slot.setTop_sb (p : Slot) (b : Bank) : (p.setTop b).sb = p.sb := rfl
@[simp] theorem Slot.setTop_msgs (p : Slot) (b : Bank) : (p.setTop b).msgs = p.msgs := rfl
@[simp] theorem Slot.setTop_sendCount (p : Slot) (b : Bank) : (p.setTop b).sendCount = p.sendCount := rfl
@[simp] theorem Slot.setTop_putn (p : Slot) (b : Bank) : (p.setTop b).putn = p.putn := rfl
@[simp] theorem Slot.setTop_fstat (p : Slot) (b : Bank) : (p.setTop b).fstat = p.fstat := rfl
@[simp] theorem Slot.setTop_fenceRel (p : Slot) (b : Bank) : (p.setTop b).fenceRel = p.fenceRel := rfl
@[simp] theorem Slot.setTop_written (p : Slot) (b : Bank) : (p.setTop b).written = p.written := rfl
@[simp] theorem Slot.setTop_lost (p : Slot) (b : Bank) : (p.setTop b).lost = p.lost := rfl
@[simp] theorem Slot.setTop_taskPos (p : Slot) (b : Bank) : (p.setTop b).taskPos = p.taskPos := rfl
@[simp] theorem Slot.setTop_extent (p : Slot) (b : Bank) : (p.setTop b).extent = p.extent := rfl
@[simp] theorem Slot.setTop_ntask (p : Slot) (b : Bank) : (p.setTop b).ntask = p.ntask := rfl
@[simp] theorem Slot.setTop_ca (p : Slot) (b : Bank) : (p.setTop b).ca = p.ca := rfl
@[simp] theorem Slot.setTop_overlays (p : Slot) (b : Bank) : (p.setTop b).overlays = p.overlays := rfl
@[simp] theorem Slot.setTop_mb (p : Slot) (b : Bank) : (p.setTop b).mb = p.mb := rfl
@[simp] theorem Slot.setTop_sub (p : Slot) (b : Bank) : (p.setTop b).sub = p.sub := rfl
@[simp] theorem Slot.setTop_xferCount (p : Slot) (b : Bank) : (p.setTop b).xferCount = p.xferCount := rfl
@[simp] theorem Slot.setTop_cpyBad (p : Slot) (b : Bank) : (p.setTop b).cpyBad = p.cpyBad := rfl
@[simp] theorem Slot.setTop_cpyLast (p : Slot) (b : Bank) : (p.setTop b).cpyLast = p.cpyLast := rfl
@[simp] theorem Slot.setTop_completions (p : Slot) (b : Bank) : (p.setTop b).completions = p.completions := rfl
@[simp] theorem Slot.setTop_tagwait (p : Slot) (b : Bank) : (p.setTop b).tagwait = p.tagwait := rfl
@[simp] theorem Slot.setTop_deferred (p : Slot) (b : Bank) : (p.setTop b).deferred = p.deferred := rfl
@[simp] theorem Slot.setTop_trapWait (p : Slot) (b : Bank) : (p.setTop b).trapWait = p.trapWait := rfl
@[simp] theorem Slot.setTop_sticks (p : Slot) (b : Bank) : (p.setTop b).sticks = p.sticks := rfl
@[simp] theorem Slot.setTop_faultCount (p : Slot) (b : Bank) : (p.setTop b).faultCount = p.faultCount := rfl
@[simp] theorem Slot.setTop_kDone (p : Slot) (b : Bank) : (p.setTop b).kDone = p.kDone := rfl
@[simp] theorem Slot.setTop_streams (p : Slot) (b : Bank) : (p.setTop b).streams = p.streams := rfl
@[simp] theorem Slot.setTop_reserved (p : Slot) (b : Bank) : (p.setTop b).reserved = p.reserved := rfl
@[simp] theorem Slot.setTop_mseq (p : Slot) (b : Bank) : (p.setTop b).mseq = p.mseq := rfl
@[simp] theorem Slot.setTop_lseq (p : Slot) (b : Bank) : (p.setTop b).lseq = p.lseq := rfl
@[simp] theorem Slot.setTop_launcher (p : Slot) (b : Bank) : (p.setTop b).launcher = p.launcher := rfl
@[simp] theorem Slot.setTop_startAt (p : Slot) (b : Bank) : (p.setTop b).startAt = p.startAt := rfl
@[simp] theorem Slot.setTop_haltedAt (p : Slot) (b : Bank) : (p.setTop b).haltedAt = p.haltedAt := rfl
@[simp] theorem Slot.setTop_haltRequest (p : Slot) (b : Bank) : (p.setTop b).haltRequest = p.haltRequest := rfl
@[simp] theorem Slot.setTop_resumeRequest (p : Slot) (b : Bank) : (p.setTop b).resumeRequest = p.resumeRequest := rfl
@[simp] theorem Slot.setTop_debugHalt (p : Slot) (b : Bank) : (p.setTop b).debugHalt = p.debugHalt := rfl
@[simp] theorem Slot.setTop_remoteTag (p : Slot) (b : Bank) : (p.setTop b).remoteTag = p.remoteTag := rfl
@[simp] theorem Slot.setTop_remoteFetch (p : Slot) (b : Bank) : (p.setTop b).remoteFetch = p.remoteFetch := rfl
@[simp] theorem Slot.setTop_digest (p : Slot) (b : Bank) : (p.setTop b).digest = p.digest := rfl
@[simp] theorem Slot.setTop_hashes (p : Slot) (b : Bank) : (p.setTop b).hashes = p.hashes := rfl

@[simp] theorem Slot.exchange_mode (p : Slot) : p.exchange.mode = p.mode := rfl
@[simp] theorem Slot.exchange_xdead (p : Slot) : p.exchange.xdead = p.xdead := rfl
@[simp] theorem Slot.exchange_v (p : Slot) : p.exchange.v = p.v := rfl
@[simp] theorem Slot.exchange_vp (p : Slot) : p.exchange.vp = p.vp := rfl
@[simp] theorem Slot.exchange_m (p : Slot) : p.exchange.m = p.m := rfl
@[simp] theorem Slot.exchange_pc (p : Slot) : p.exchange.pc = p.pc := rfl
@[simp] theorem Slot.exchange_ctl (p : Slot) : p.exchange.ctl = p.ctl := rfl
@[simp] theorem Slot.exchange_ubank (p : Slot) : p.exchange.ubank = p.ubank := rfl
@[simp] theorem Slot.exchange_park (p : Slot) : p.exchange.park = p.park := rfl
@[simp] theorem Slot.exchange_barrier (p : Slot) : p.exchange.barrier = p.barrier := rfl
@[simp] theorem Slot.exchange_yielded (p : Slot) : p.exchange.yielded = p.yielded := rfl
@[simp] theorem Slot.exchange_fills (p : Slot) : p.exchange.fills = p.fills := rfl
@[simp] theorem Slot.exchange_sb (p : Slot) : p.exchange.sb = p.sb := rfl
@[simp] theorem Slot.exchange_msgs (p : Slot) : p.exchange.msgs = p.msgs := rfl
@[simp] theorem Slot.exchange_sendCount (p : Slot) : p.exchange.sendCount = p.sendCount := rfl
@[simp] theorem Slot.exchange_putn (p : Slot) : p.exchange.putn = p.putn := rfl
@[simp] theorem Slot.exchange_fstat (p : Slot) : p.exchange.fstat = p.fstat := rfl
@[simp] theorem Slot.exchange_fenceRel (p : Slot) : p.exchange.fenceRel = p.fenceRel := rfl
@[simp] theorem Slot.exchange_written (p : Slot) : p.exchange.written = p.written := rfl
@[simp] theorem Slot.exchange_lost (p : Slot) : p.exchange.lost = p.lost := rfl
@[simp] theorem Slot.exchange_taskPos (p : Slot) : p.exchange.taskPos = p.taskPos := rfl
@[simp] theorem Slot.exchange_extent (p : Slot) : p.exchange.extent = p.extent := rfl
@[simp] theorem Slot.exchange_ntask (p : Slot) : p.exchange.ntask = p.ntask := rfl
@[simp] theorem Slot.exchange_ca (p : Slot) : p.exchange.ca = p.ca := rfl
@[simp] theorem Slot.exchange_overlays (p : Slot) : p.exchange.overlays = p.overlays := rfl
@[simp] theorem Slot.exchange_mb (p : Slot) : p.exchange.mb = p.mb := rfl
@[simp] theorem Slot.exchange_sub (p : Slot) : p.exchange.sub = p.sub := rfl
@[simp] theorem Slot.exchange_xferCount (p : Slot) : p.exchange.xferCount = p.xferCount := rfl
@[simp] theorem Slot.exchange_cpyBad (p : Slot) : p.exchange.cpyBad = p.cpyBad := rfl
@[simp] theorem Slot.exchange_cpyLast (p : Slot) : p.exchange.cpyLast = p.cpyLast := rfl
@[simp] theorem Slot.exchange_completions (p : Slot) : p.exchange.completions = p.completions := rfl
@[simp] theorem Slot.exchange_tagwait (p : Slot) : p.exchange.tagwait = p.tagwait := rfl
@[simp] theorem Slot.exchange_deferred (p : Slot) : p.exchange.deferred = p.deferred := rfl
@[simp] theorem Slot.exchange_trapWait (p : Slot) : p.exchange.trapWait = p.trapWait := rfl
@[simp] theorem Slot.exchange_sticks (p : Slot) : p.exchange.sticks = p.sticks := rfl
@[simp] theorem Slot.exchange_faultCount (p : Slot) : p.exchange.faultCount = p.faultCount := rfl
@[simp] theorem Slot.exchange_kDone (p : Slot) : p.exchange.kDone = p.kDone := rfl
@[simp] theorem Slot.exchange_streams (p : Slot) : p.exchange.streams = p.streams := rfl
@[simp] theorem Slot.exchange_reserved (p : Slot) : p.exchange.reserved = p.reserved := rfl
@[simp] theorem Slot.exchange_mseq (p : Slot) : p.exchange.mseq = p.mseq := rfl
@[simp] theorem Slot.exchange_lseq (p : Slot) : p.exchange.lseq = p.lseq := rfl
@[simp] theorem Slot.exchange_launcher (p : Slot) : p.exchange.launcher = p.launcher := rfl
@[simp] theorem Slot.exchange_startAt (p : Slot) : p.exchange.startAt = p.startAt := rfl
@[simp] theorem Slot.exchange_haltedAt (p : Slot) : p.exchange.haltedAt = p.haltedAt := rfl
@[simp] theorem Slot.exchange_haltRequest (p : Slot) : p.exchange.haltRequest = p.haltRequest := rfl
@[simp] theorem Slot.exchange_resumeRequest (p : Slot) : p.exchange.resumeRequest = p.resumeRequest := rfl
@[simp] theorem Slot.exchange_debugHalt (p : Slot) : p.exchange.debugHalt = p.debugHalt := rfl
@[simp] theorem Slot.exchange_remoteTag (p : Slot) : p.exchange.remoteTag = p.remoteTag := rfl
@[simp] theorem Slot.exchange_digest (p : Slot) : p.exchange.digest = p.digest := rfl
@[simp] theorem Slot.exchange_hashes (p : Slot) : p.exchange.hashes = p.hashes := rfl

@[simp] theorem Slot.enterTrap_mode (p : Slot) (t : Trap) : (p.enterTrap t).mode = p.mode := rfl
@[simp] theorem Slot.enterTrap_xdead (p : Slot) (t : Trap) : (p.enterTrap t).xdead = p.xdead := rfl
@[simp] theorem Slot.enterTrap_v (p : Slot) (t : Trap) : (p.enterTrap t).v = p.v := rfl
@[simp] theorem Slot.enterTrap_vp (p : Slot) (t : Trap) : (p.enterTrap t).vp = p.vp := rfl
@[simp] theorem Slot.enterTrap_m (p : Slot) (t : Trap) : (p.enterTrap t).m = p.m := rfl
@[simp] theorem Slot.enterTrap_ubank (p : Slot) (t : Trap) : (p.enterTrap t).ubank = p.ubank := rfl
@[simp] theorem Slot.enterTrap_yielded (p : Slot) (t : Trap) : (p.enterTrap t).yielded = p.yielded := rfl
@[simp] theorem Slot.enterTrap_fills (p : Slot) (t : Trap) : (p.enterTrap t).fills = p.fills := rfl
@[simp] theorem Slot.enterTrap_sb (p : Slot) (t : Trap) : (p.enterTrap t).sb = p.sb := rfl
@[simp] theorem Slot.enterTrap_msgs (p : Slot) (t : Trap) : (p.enterTrap t).msgs = p.msgs := rfl
@[simp] theorem Slot.enterTrap_sendCount (p : Slot) (t : Trap) : (p.enterTrap t).sendCount = p.sendCount := rfl
@[simp] theorem Slot.enterTrap_putn (p : Slot) (t : Trap) : (p.enterTrap t).putn = p.putn := rfl
@[simp] theorem Slot.enterTrap_fstat (p : Slot) (t : Trap) : (p.enterTrap t).fstat = p.fstat := rfl
@[simp] theorem Slot.enterTrap_fenceRel (p : Slot) (t : Trap) : (p.enterTrap t).fenceRel = p.fenceRel := rfl
@[simp] theorem Slot.enterTrap_written (p : Slot) (t : Trap) : (p.enterTrap t).written = p.written := rfl
@[simp] theorem Slot.enterTrap_lost (p : Slot) (t : Trap) : (p.enterTrap t).lost = p.lost := rfl
@[simp] theorem Slot.enterTrap_taskPos (p : Slot) (t : Trap) : (p.enterTrap t).taskPos = p.taskPos := rfl
@[simp] theorem Slot.enterTrap_extent (p : Slot) (t : Trap) : (p.enterTrap t).extent = p.extent := rfl
@[simp] theorem Slot.enterTrap_ntask (p : Slot) (t : Trap) : (p.enterTrap t).ntask = p.ntask := rfl
@[simp] theorem Slot.enterTrap_ca (p : Slot) (t : Trap) : (p.enterTrap t).ca = p.ca := rfl
@[simp] theorem Slot.enterTrap_overlays (p : Slot) (t : Trap) : (p.enterTrap t).overlays = p.overlays := rfl
@[simp] theorem Slot.enterTrap_mb (p : Slot) (t : Trap) : (p.enterTrap t).mb = p.mb := rfl
@[simp] theorem Slot.enterTrap_sub (p : Slot) (t : Trap) : (p.enterTrap t).sub = p.sub := rfl
@[simp] theorem Slot.enterTrap_xferCount (p : Slot) (t : Trap) : (p.enterTrap t).xferCount = p.xferCount := rfl
@[simp] theorem Slot.enterTrap_cpyBad (p : Slot) (t : Trap) : (p.enterTrap t).cpyBad = p.cpyBad := rfl
@[simp] theorem Slot.enterTrap_cpyLast (p : Slot) (t : Trap) : (p.enterTrap t).cpyLast = p.cpyLast := rfl
@[simp] theorem Slot.enterTrap_completions (p : Slot) (t : Trap) : (p.enterTrap t).completions = p.completions := rfl
@[simp] theorem Slot.enterTrap_tagwait (p : Slot) (t : Trap) : (p.enterTrap t).tagwait = p.tagwait := rfl
@[simp] theorem Slot.enterTrap_deferred (p : Slot) (t : Trap) : (p.enterTrap t).deferred = p.deferred := rfl
@[simp] theorem Slot.enterTrap_sticks (p : Slot) (t : Trap) : (p.enterTrap t).sticks = p.sticks := rfl
@[simp] theorem Slot.enterTrap_faultCount (p : Slot) (t : Trap) : (p.enterTrap t).faultCount = p.faultCount := rfl
@[simp] theorem Slot.enterTrap_kDone (p : Slot) (t : Trap) : (p.enterTrap t).kDone = p.kDone := rfl
@[simp] theorem Slot.enterTrap_streams (p : Slot) (t : Trap) : (p.enterTrap t).streams = p.streams := rfl
@[simp] theorem Slot.enterTrap_reserved (p : Slot) (t : Trap) : (p.enterTrap t).reserved = p.reserved := rfl
@[simp] theorem Slot.enterTrap_mseq (p : Slot) (t : Trap) : (p.enterTrap t).mseq = p.mseq := rfl
@[simp] theorem Slot.enterTrap_lseq (p : Slot) (t : Trap) : (p.enterTrap t).lseq = p.lseq := rfl
@[simp] theorem Slot.enterTrap_launcher (p : Slot) (t : Trap) : (p.enterTrap t).launcher = p.launcher := rfl
@[simp] theorem Slot.enterTrap_startAt (p : Slot) (t : Trap) : (p.enterTrap t).startAt = p.startAt := rfl
@[simp] theorem Slot.enterTrap_haltedAt (p : Slot) (t : Trap) : (p.enterTrap t).haltedAt = p.haltedAt := rfl
@[simp] theorem Slot.enterTrap_haltRequest (p : Slot) (t : Trap) : (p.enterTrap t).haltRequest = p.haltRequest := rfl
@[simp] theorem Slot.enterTrap_resumeRequest (p : Slot) (t : Trap) : (p.enterTrap t).resumeRequest = p.resumeRequest := rfl
@[simp] theorem Slot.enterTrap_debugHalt (p : Slot) (t : Trap) : (p.enterTrap t).debugHalt = p.debugHalt := rfl
@[simp] theorem Slot.enterTrap_digest (p : Slot) (t : Trap) : (p.enterTrap t).digest = p.digest := rfl
@[simp] theorem Slot.enterTrap_hashes (p : Slot) (t : Trap) : (p.enterTrap t).hashes = p.hashes := rfl

@[simp] theorem Slot.leaveTrap_mode (p : Slot) : p.leaveTrap.mode = p.mode := rfl
@[simp] theorem Slot.leaveTrap_xdead (p : Slot) : p.leaveTrap.xdead = p.xdead := rfl
@[simp] theorem Slot.leaveTrap_v (p : Slot) : p.leaveTrap.v = p.v := rfl
@[simp] theorem Slot.leaveTrap_vp (p : Slot) : p.leaveTrap.vp = p.vp := rfl
@[simp] theorem Slot.leaveTrap_m (p : Slot) : p.leaveTrap.m = p.m := rfl
@[simp] theorem Slot.leaveTrap_ubank (p : Slot) : p.leaveTrap.ubank = p.ubank := rfl
@[simp] theorem Slot.leaveTrap_barrier (p : Slot) : p.leaveTrap.barrier = p.barrier := rfl
@[simp] theorem Slot.leaveTrap_yielded (p : Slot) : p.leaveTrap.yielded = p.yielded := rfl
@[simp] theorem Slot.leaveTrap_fills (p : Slot) : p.leaveTrap.fills = p.fills := rfl
@[simp] theorem Slot.leaveTrap_sb (p : Slot) : p.leaveTrap.sb = p.sb := rfl
@[simp] theorem Slot.leaveTrap_msgs (p : Slot) : p.leaveTrap.msgs = p.msgs := rfl
@[simp] theorem Slot.leaveTrap_sendCount (p : Slot) : p.leaveTrap.sendCount = p.sendCount := rfl
@[simp] theorem Slot.leaveTrap_putn (p : Slot) : p.leaveTrap.putn = p.putn := rfl
@[simp] theorem Slot.leaveTrap_fstat (p : Slot) : p.leaveTrap.fstat = p.fstat := rfl
@[simp] theorem Slot.leaveTrap_fenceRel (p : Slot) : p.leaveTrap.fenceRel = p.fenceRel := rfl
@[simp] theorem Slot.leaveTrap_written (p : Slot) : p.leaveTrap.written = p.written := rfl
@[simp] theorem Slot.leaveTrap_lost (p : Slot) : p.leaveTrap.lost = p.lost := rfl
@[simp] theorem Slot.leaveTrap_taskPos (p : Slot) : p.leaveTrap.taskPos = p.taskPos := rfl
@[simp] theorem Slot.leaveTrap_extent (p : Slot) : p.leaveTrap.extent = p.extent := rfl
@[simp] theorem Slot.leaveTrap_ntask (p : Slot) : p.leaveTrap.ntask = p.ntask := rfl
@[simp] theorem Slot.leaveTrap_ca (p : Slot) : p.leaveTrap.ca = p.ca := rfl
@[simp] theorem Slot.leaveTrap_overlays (p : Slot) : p.leaveTrap.overlays = p.overlays := rfl
@[simp] theorem Slot.leaveTrap_mb (p : Slot) : p.leaveTrap.mb = p.mb := rfl
@[simp] theorem Slot.leaveTrap_sub (p : Slot) : p.leaveTrap.sub = p.sub := rfl
@[simp] theorem Slot.leaveTrap_xferCount (p : Slot) : p.leaveTrap.xferCount = p.xferCount := rfl
@[simp] theorem Slot.leaveTrap_cpyBad (p : Slot) : p.leaveTrap.cpyBad = p.cpyBad := rfl
@[simp] theorem Slot.leaveTrap_cpyLast (p : Slot) : p.leaveTrap.cpyLast = p.cpyLast := rfl
@[simp] theorem Slot.leaveTrap_completions (p : Slot) : p.leaveTrap.completions = p.completions := rfl
@[simp] theorem Slot.leaveTrap_tagwait (p : Slot) : p.leaveTrap.tagwait = p.tagwait := rfl
@[simp] theorem Slot.leaveTrap_deferred (p : Slot) : p.leaveTrap.deferred = p.deferred := rfl
@[simp] theorem Slot.leaveTrap_trapWait (p : Slot) : p.leaveTrap.trapWait = p.trapWait := rfl
@[simp] theorem Slot.leaveTrap_sticks (p : Slot) : p.leaveTrap.sticks = p.sticks := rfl
@[simp] theorem Slot.leaveTrap_faultCount (p : Slot) : p.leaveTrap.faultCount = p.faultCount := rfl
@[simp] theorem Slot.leaveTrap_kDone (p : Slot) : p.leaveTrap.kDone = p.kDone := rfl
@[simp] theorem Slot.leaveTrap_streams (p : Slot) : p.leaveTrap.streams = p.streams := rfl
@[simp] theorem Slot.leaveTrap_reserved (p : Slot) : p.leaveTrap.reserved = p.reserved := rfl
@[simp] theorem Slot.leaveTrap_mseq (p : Slot) : p.leaveTrap.mseq = p.mseq := rfl
@[simp] theorem Slot.leaveTrap_lseq (p : Slot) : p.leaveTrap.lseq = p.lseq := rfl
@[simp] theorem Slot.leaveTrap_launcher (p : Slot) : p.leaveTrap.launcher = p.launcher := rfl
@[simp] theorem Slot.leaveTrap_startAt (p : Slot) : p.leaveTrap.startAt = p.startAt := rfl
@[simp] theorem Slot.leaveTrap_haltedAt (p : Slot) : p.leaveTrap.haltedAt = p.haltedAt := rfl
@[simp] theorem Slot.leaveTrap_haltRequest (p : Slot) : p.leaveTrap.haltRequest = p.haltRequest := rfl
@[simp] theorem Slot.leaveTrap_resumeRequest (p : Slot) : p.leaveTrap.resumeRequest = p.resumeRequest := rfl
@[simp] theorem Slot.leaveTrap_debugHalt (p : Slot) : p.leaveTrap.debugHalt = p.debugHalt := rfl
@[simp] theorem Slot.leaveTrap_remoteTag (p : Slot) : p.leaveTrap.remoteTag = p.remoteTag := rfl
@[simp] theorem Slot.leaveTrap_digest (p : Slot) : p.leaveTrap.digest = p.digest := rfl
@[simp] theorem Slot.leaveTrap_hashes (p : Slot) : p.leaveTrap.hashes = p.hashes := rfl

@[simp] theorem Slot.failWrites_mode (p : Slot) (n k : Nat) : (p.failWrites n k).mode = p.mode := rfl
@[simp] theorem Slot.failWrites_x (p : Slot) (n k : Nat) : (p.failWrites n k).x = p.x := rfl
@[simp] theorem Slot.failWrites_xf (p : Slot) (n k : Nat) : (p.failWrites n k).xf = p.xf := rfl
@[simp] theorem Slot.failWrites_xdead (p : Slot) (n k : Nat) : (p.failWrites n k).xdead = p.xdead := rfl
@[simp] theorem Slot.failWrites_v (p : Slot) (n k : Nat) : (p.failWrites n k).v = p.v := rfl
@[simp] theorem Slot.failWrites_vp (p : Slot) (n k : Nat) : (p.failWrites n k).vp = p.vp := rfl
@[simp] theorem Slot.failWrites_m (p : Slot) (n k : Nat) : (p.failWrites n k).m = p.m := rfl
@[simp] theorem Slot.failWrites_pc (p : Slot) (n k : Nat) : (p.failWrites n k).pc = p.pc := rfl
@[simp] theorem Slot.failWrites_sg (p : Slot) (n k : Nat) : (p.failWrites n k).sg = p.sg := rfl
@[simp] theorem Slot.failWrites_ctl (p : Slot) (n k : Nat) : (p.failWrites n k).ctl = p.ctl := rfl
@[simp] theorem Slot.failWrites_sbank (p : Slot) (n k : Nat) : (p.failWrites n k).sbank = p.sbank := rfl
@[simp] theorem Slot.failWrites_sseg (p : Slot) (n k : Nat) : (p.failWrites n k).sseg = p.sseg := rfl
@[simp] theorem Slot.failWrites_ubank (p : Slot) (n k : Nat) : (p.failWrites n k).ubank = p.ubank := rfl
@[simp] theorem Slot.failWrites_park (p : Slot) (n k : Nat) : (p.failWrites n k).park = p.park := rfl
@[simp] theorem Slot.failWrites_barrier (p : Slot) (n k : Nat) : (p.failWrites n k).barrier = p.barrier := rfl
@[simp] theorem Slot.failWrites_yielded (p : Slot) (n k : Nat) : (p.failWrites n k).yielded = p.yielded := rfl
@[simp] theorem Slot.failWrites_fills (p : Slot) (n k : Nat) : (p.failWrites n k).fills = p.fills := rfl
@[simp] theorem Slot.failWrites_lat (p : Slot) (n k : Nat) : (p.failWrites n k).lat = p.lat := rfl
@[simp] theorem Slot.failWrites_sb (p : Slot) (n k : Nat) : (p.failWrites n k).sb = p.sb := rfl
@[simp] theorem Slot.failWrites_msgs (p : Slot) (n k : Nat) : (p.failWrites n k).msgs = p.msgs := rfl
@[simp] theorem Slot.failWrites_sendCount (p : Slot) (n k : Nat) : (p.failWrites n k).sendCount = p.sendCount := rfl
@[simp] theorem Slot.failWrites_putn (p : Slot) (n k : Nat) : (p.failWrites n k).putn = p.putn := rfl
@[simp] theorem Slot.failWrites_fenceRel (p : Slot) (n k : Nat) : (p.failWrites n k).fenceRel = p.fenceRel := rfl
@[simp] theorem Slot.failWrites_written (p : Slot) (n k : Nat) : (p.failWrites n k).written = p.written := rfl
@[simp] theorem Slot.failWrites_lost (p : Slot) (n k : Nat) : (p.failWrites n k).lost = p.lost := rfl
@[simp] theorem Slot.failWrites_taskPos (p : Slot) (n k : Nat) : (p.failWrites n k).taskPos = p.taskPos := rfl
@[simp] theorem Slot.failWrites_extent (p : Slot) (n k : Nat) : (p.failWrites n k).extent = p.extent := rfl
@[simp] theorem Slot.failWrites_ntask (p : Slot) (n k : Nat) : (p.failWrites n k).ntask = p.ntask := rfl
@[simp] theorem Slot.failWrites_ca (p : Slot) (n k : Nat) : (p.failWrites n k).ca = p.ca := rfl
@[simp] theorem Slot.failWrites_overlays (p : Slot) (n k : Nat) : (p.failWrites n k).overlays = p.overlays := rfl
@[simp] theorem Slot.failWrites_mb (p : Slot) (n k : Nat) : (p.failWrites n k).mb = p.mb := rfl
@[simp] theorem Slot.failWrites_sub (p : Slot) (n k : Nat) : (p.failWrites n k).sub = p.sub := rfl
@[simp] theorem Slot.failWrites_xferCount (p : Slot) (n k : Nat) : (p.failWrites n k).xferCount = p.xferCount := rfl
@[simp] theorem Slot.failWrites_cpyBad (p : Slot) (n k : Nat) : (p.failWrites n k).cpyBad = p.cpyBad := rfl
@[simp] theorem Slot.failWrites_cpyLast (p : Slot) (n k : Nat) : (p.failWrites n k).cpyLast = p.cpyLast := rfl
@[simp] theorem Slot.failWrites_completions (p : Slot) (n k : Nat) : (p.failWrites n k).completions = p.completions := rfl
@[simp] theorem Slot.failWrites_tagwait (p : Slot) (n k : Nat) : (p.failWrites n k).tagwait = p.tagwait := rfl
@[simp] theorem Slot.failWrites_deferred (p : Slot) (n k : Nat) : (p.failWrites n k).deferred = p.deferred := rfl
@[simp] theorem Slot.failWrites_trapWait (p : Slot) (n k : Nat) : (p.failWrites n k).trapWait = p.trapWait := rfl
@[simp] theorem Slot.failWrites_sticks (p : Slot) (n k : Nat) : (p.failWrites n k).sticks = p.sticks := rfl
@[simp] theorem Slot.failWrites_faultCount (p : Slot) (n k : Nat) : (p.failWrites n k).faultCount = p.faultCount := rfl
@[simp] theorem Slot.failWrites_kDone (p : Slot) (n k : Nat) : (p.failWrites n k).kDone = p.kDone := rfl
@[simp] theorem Slot.failWrites_streams (p : Slot) (n k : Nat) : (p.failWrites n k).streams = p.streams := rfl
@[simp] theorem Slot.failWrites_reserved (p : Slot) (n k : Nat) : (p.failWrites n k).reserved = p.reserved := rfl
@[simp] theorem Slot.failWrites_mseq (p : Slot) (n k : Nat) : (p.failWrites n k).mseq = p.mseq := rfl
@[simp] theorem Slot.failWrites_lseq (p : Slot) (n k : Nat) : (p.failWrites n k).lseq = p.lseq := rfl
@[simp] theorem Slot.failWrites_launcher (p : Slot) (n k : Nat) : (p.failWrites n k).launcher = p.launcher := rfl
@[simp] theorem Slot.failWrites_startAt (p : Slot) (n k : Nat) : (p.failWrites n k).startAt = p.startAt := rfl
@[simp] theorem Slot.failWrites_haltedAt (p : Slot) (n k : Nat) : (p.failWrites n k).haltedAt = p.haltedAt := rfl
@[simp] theorem Slot.failWrites_haltRequest (p : Slot) (n k : Nat) : (p.failWrites n k).haltRequest = p.haltRequest := rfl
@[simp] theorem Slot.failWrites_resumeRequest (p : Slot) (n k : Nat) : (p.failWrites n k).resumeRequest = p.resumeRequest := rfl
@[simp] theorem Slot.failWrites_debugHalt (p : Slot) (n k : Nat) : (p.failWrites n k).debugHalt = p.debugHalt := rfl
@[simp] theorem Slot.failWrites_remoteTag (p : Slot) (n k : Nat) : (p.failWrites n k).remoteTag = p.remoteTag := rfl
@[simp] theorem Slot.failWrites_remoteFetch (p : Slot) (n k : Nat) : (p.failWrites n k).remoteFetch = p.remoteFetch := rfl
@[simp] theorem Slot.failWrites_digest (p : Slot) (n k : Nat) : (p.failWrites n k).digest = p.digest := rfl
@[simp] theorem Slot.failWrites_hashes (p : Slot) (n k : Nat) : (p.failWrites n k).hashes = p.hashes := rfl

@[simp] theorem Slot.fenceBit_mode (p : Slot) (k : Nat) : (p.fenceBit k).mode = p.mode := rfl
@[simp] theorem Slot.fenceBit_x (p : Slot) (k : Nat) : (p.fenceBit k).x = p.x := rfl
@[simp] theorem Slot.fenceBit_xf (p : Slot) (k : Nat) : (p.fenceBit k).xf = p.xf := rfl
@[simp] theorem Slot.fenceBit_xdead (p : Slot) (k : Nat) : (p.fenceBit k).xdead = p.xdead := rfl
@[simp] theorem Slot.fenceBit_v (p : Slot) (k : Nat) : (p.fenceBit k).v = p.v := rfl
@[simp] theorem Slot.fenceBit_vp (p : Slot) (k : Nat) : (p.fenceBit k).vp = p.vp := rfl
@[simp] theorem Slot.fenceBit_m (p : Slot) (k : Nat) : (p.fenceBit k).m = p.m := rfl
@[simp] theorem Slot.fenceBit_pc (p : Slot) (k : Nat) : (p.fenceBit k).pc = p.pc := rfl
@[simp] theorem Slot.fenceBit_sg (p : Slot) (k : Nat) : (p.fenceBit k).sg = p.sg := rfl
@[simp] theorem Slot.fenceBit_ctl (p : Slot) (k : Nat) : (p.fenceBit k).ctl = p.ctl := rfl
@[simp] theorem Slot.fenceBit_sbank (p : Slot) (k : Nat) : (p.fenceBit k).sbank = p.sbank := rfl
@[simp] theorem Slot.fenceBit_sseg (p : Slot) (k : Nat) : (p.fenceBit k).sseg = p.sseg := rfl
@[simp] theorem Slot.fenceBit_ubank (p : Slot) (k : Nat) : (p.fenceBit k).ubank = p.ubank := rfl
@[simp] theorem Slot.fenceBit_park (p : Slot) (k : Nat) : (p.fenceBit k).park = p.park := rfl
@[simp] theorem Slot.fenceBit_barrier (p : Slot) (k : Nat) : (p.fenceBit k).barrier = p.barrier := rfl
@[simp] theorem Slot.fenceBit_yielded (p : Slot) (k : Nat) : (p.fenceBit k).yielded = p.yielded := rfl
@[simp] theorem Slot.fenceBit_fills (p : Slot) (k : Nat) : (p.fenceBit k).fills = p.fills := rfl
@[simp] theorem Slot.fenceBit_lat (p : Slot) (k : Nat) : (p.fenceBit k).lat = p.lat := rfl
@[simp] theorem Slot.fenceBit_sb (p : Slot) (k : Nat) : (p.fenceBit k).sb = p.sb := rfl
@[simp] theorem Slot.fenceBit_msgs (p : Slot) (k : Nat) : (p.fenceBit k).msgs = p.msgs := rfl
@[simp] theorem Slot.fenceBit_sendCount (p : Slot) (k : Nat) : (p.fenceBit k).sendCount = p.sendCount := rfl
@[simp] theorem Slot.fenceBit_putn (p : Slot) (k : Nat) : (p.fenceBit k).putn = p.putn := rfl
@[simp] theorem Slot.fenceBit_fenceRel (p : Slot) (k : Nat) : (p.fenceBit k).fenceRel = p.fenceRel := rfl
@[simp] theorem Slot.fenceBit_written (p : Slot) (k : Nat) : (p.fenceBit k).written = p.written := rfl
@[simp] theorem Slot.fenceBit_lost (p : Slot) (k : Nat) : (p.fenceBit k).lost = p.lost := rfl
@[simp] theorem Slot.fenceBit_taskPos (p : Slot) (k : Nat) : (p.fenceBit k).taskPos = p.taskPos := rfl
@[simp] theorem Slot.fenceBit_extent (p : Slot) (k : Nat) : (p.fenceBit k).extent = p.extent := rfl
@[simp] theorem Slot.fenceBit_ntask (p : Slot) (k : Nat) : (p.fenceBit k).ntask = p.ntask := rfl
@[simp] theorem Slot.fenceBit_ca (p : Slot) (k : Nat) : (p.fenceBit k).ca = p.ca := rfl
@[simp] theorem Slot.fenceBit_overlays (p : Slot) (k : Nat) : (p.fenceBit k).overlays = p.overlays := rfl
@[simp] theorem Slot.fenceBit_mb (p : Slot) (k : Nat) : (p.fenceBit k).mb = p.mb := rfl
@[simp] theorem Slot.fenceBit_sub (p : Slot) (k : Nat) : (p.fenceBit k).sub = p.sub := rfl
@[simp] theorem Slot.fenceBit_xferCount (p : Slot) (k : Nat) : (p.fenceBit k).xferCount = p.xferCount := rfl
@[simp] theorem Slot.fenceBit_cpyBad (p : Slot) (k : Nat) : (p.fenceBit k).cpyBad = p.cpyBad := rfl
@[simp] theorem Slot.fenceBit_cpyLast (p : Slot) (k : Nat) : (p.fenceBit k).cpyLast = p.cpyLast := rfl
@[simp] theorem Slot.fenceBit_completions (p : Slot) (k : Nat) : (p.fenceBit k).completions = p.completions := rfl
@[simp] theorem Slot.fenceBit_tagwait (p : Slot) (k : Nat) : (p.fenceBit k).tagwait = p.tagwait := rfl
@[simp] theorem Slot.fenceBit_deferred (p : Slot) (k : Nat) : (p.fenceBit k).deferred = p.deferred := rfl
@[simp] theorem Slot.fenceBit_trapWait (p : Slot) (k : Nat) : (p.fenceBit k).trapWait = p.trapWait := rfl
@[simp] theorem Slot.fenceBit_sticks (p : Slot) (k : Nat) : (p.fenceBit k).sticks = p.sticks := rfl
@[simp] theorem Slot.fenceBit_faultCount (p : Slot) (k : Nat) : (p.fenceBit k).faultCount = p.faultCount := rfl
@[simp] theorem Slot.fenceBit_kDone (p : Slot) (k : Nat) : (p.fenceBit k).kDone = p.kDone := rfl
@[simp] theorem Slot.fenceBit_streams (p : Slot) (k : Nat) : (p.fenceBit k).streams = p.streams := rfl
@[simp] theorem Slot.fenceBit_reserved (p : Slot) (k : Nat) : (p.fenceBit k).reserved = p.reserved := rfl
@[simp] theorem Slot.fenceBit_mseq (p : Slot) (k : Nat) : (p.fenceBit k).mseq = p.mseq := rfl
@[simp] theorem Slot.fenceBit_lseq (p : Slot) (k : Nat) : (p.fenceBit k).lseq = p.lseq := rfl
@[simp] theorem Slot.fenceBit_launcher (p : Slot) (k : Nat) : (p.fenceBit k).launcher = p.launcher := rfl
@[simp] theorem Slot.fenceBit_startAt (p : Slot) (k : Nat) : (p.fenceBit k).startAt = p.startAt := rfl
@[simp] theorem Slot.fenceBit_haltedAt (p : Slot) (k : Nat) : (p.fenceBit k).haltedAt = p.haltedAt := rfl
@[simp] theorem Slot.fenceBit_haltRequest (p : Slot) (k : Nat) : (p.fenceBit k).haltRequest = p.haltRequest := rfl
@[simp] theorem Slot.fenceBit_resumeRequest (p : Slot) (k : Nat) : (p.fenceBit k).resumeRequest = p.resumeRequest := rfl
@[simp] theorem Slot.fenceBit_debugHalt (p : Slot) (k : Nat) : (p.fenceBit k).debugHalt = p.debugHalt := rfl
@[simp] theorem Slot.fenceBit_remoteTag (p : Slot) (k : Nat) : (p.fenceBit k).remoteTag = p.remoteTag := rfl
@[simp] theorem Slot.fenceBit_remoteFetch (p : Slot) (k : Nat) : (p.fenceBit k).remoteFetch = p.remoteFetch := rfl
@[simp] theorem Slot.fenceBit_digest (p : Slot) (k : Nat) : (p.fenceBit k).digest = p.digest := rfl
@[simp] theorem Slot.fenceBit_hashes (p : Slot) (k : Nat) : (p.fenceBit k).hashes = p.hashes := rfl

/-! ## Reading after an update -/

theorem State.slot_setSlot (s : State) (k j : Nat) (x : Slot) : (s.setSlot k x).slot j = if j = k then x else s.slot j := by
  simp only [State.slot, State.setSlot, Table.get_put]
@[simp] theorem State.slot_setSlot_self (s : State) (k : Nat) (x : Slot) : (s.setSlot k x).slot k = x := by
  simp [State.slot_setSlot]
@[simp] theorem State.slot_updSlot_self (s : State) (k : Nat) (f : Slot → Slot) : (s.updSlot k f).slot k = f (s.slot k) := by
  simp [State.updSlot]
theorem State.slot_updSlot (s : State) (k j : Nat) (f : Slot → Slot) :
    (s.updSlot k f).slot j = if j = k then f (s.slot k) else s.slot j := by
  simp only [State.updSlot, State.slot_setSlot]
theorem State.slot_updSlot_ne (s : State) (k j : Nat) (f : Slot → Slot) (h : j ≠ k) : (s.updSlot k f).slot j = s.slot j := by
  rw [State.slot_updSlot, if_neg h]
@[simp] theorem State.me_upd (s : State) (f : Slot → Slot) : (s.upd f).me = f s.me := by
  simp [State.upd, State.me]
theorem State.slot_upd (s : State) (j : Nat) (f : Slot → Slot) : (s.upd f).slot j = if j = s.cur then f s.me else s.slot j := by
  simp only [State.upd, State.slot_setSlot]
theorem State.slot_upd_ne (s : State) (j : Nat) (f : Slot → Slot) (h : j ≠ s.cur) : (s.upd f).slot j = s.slot j := by
  rw [State.slot_upd, if_neg h]
@[simp] theorem State.slot_upd_cur (s : State) (f : Slot → Slot) : (s.upd f).slot s.cur = f s.me := State.me_upd s f
theorem State.me_of_slots (s t : State) (h : t.slots = s.slots) (hc : t.cur = s.cur) : t.me = s.me := by
  simp only [State.me, State.slot, h, hc]
theorem State.slot_of_slots (s t : State) (h : t.slots = s.slots) (k : Nat) : t.slot k = s.slot k := by
  simp only [State.slot, h]

theorem State.core_setCore (s : State) (k j : Nat) (x : Core) : (s.setCore k x).core j = if j = k then x else s.core j := by
  simp only [State.core, State.setCore, Table.get_put]
@[simp] theorem State.core_setCore_self (s : State) (k : Nat) (x : Core) : (s.setCore k x).core k = x := by
  simp [State.core_setCore]
theorem State.core_updCore (s : State) (k j : Nat) (f : Core → Core) :
    (s.updCore k f).core j = if j = k then f (s.core k) else s.core j := by
  simp only [State.updCore, State.core_setCore]
@[simp] theorem State.core_updCore_self (s : State) (k : Nat) (f : Core → Core) : (s.updCore k f).core k = f (s.core k) := by
  simp [State.updCore]
@[simp] theorem State.clamp_updClamp_self (s : State) (k : Nat) (f : Clamp → Clamp) : (s.updClamp k f).clamp k = f (s.clamp k) := by
  simp [State.clamp, State.updClamp, Table.get_put]
theorem State.clamp_updClamp (s : State) (k j : Nat) (f : Clamp → Clamp) :
    (s.updClamp k f).clamp j = if j = k then f (s.clamp k) else s.clamp j := by
  simp only [State.clamp, State.updClamp, Table.get_put]
@[simp] theorem State.hearth_updHearth_self (s : State) (k : Nat) (f : Hearth → Hearth) :
    (s.updHearth k f).hearth k = f (s.hearth k) := by
  simp [State.hearth, State.updHearth, Table.get_put]
theorem State.hearth_updHearth (s : State) (k j : Nat) (f : Hearth → Hearth) :
    (s.updHearth k f).hearth j = if j = k then f (s.hearth k) else s.hearth j := by
  simp only [State.hearth, State.updHearth, Table.get_put]
@[simp] theorem State.grate_updGrate_self (s : State) (k : Nat) (f : Grate → Grate) :
    (s.updGrate k f).grate k = f (s.grate k) := by
  simp [State.grate, State.updGrate, Table.get_put]

/-! ## Registers -/

theorem Slot.getX_setX (p : Slot) (r d : Reg) (w : Word) : (p.setX d w).getX r = if r = d then w else p.getX r := by
  simp only [Slot.getX, Slot.setX, Vector.getElem_set]
  by_cases h : r = d
  · simp [h]
  · have : d.toNat ≠ r.toNat := fun e => h (BitVec.eq_of_toNat_eq e.symm)
    simp [h, this]
@[simp] theorem Slot.getX_setX_self (p : Slot) (d : Reg) (w : Word) : (p.setX d w).getX d = w := by simp [Slot.getX_setX]
theorem Slot.getV_setV (p : Slot) (r d : VReg) (w : VWord) : (p.setV d w).getV r = if r = d then w else p.getV r := by
  simp only [Slot.getV, Slot.setV, Vector.getElem_set]
  by_cases h : r = d
  · simp [h]
  · have : d.toNat ≠ r.toNat := fun e => h (BitVec.eq_of_toNat_eq e.symm)
    simp [h, this]
@[simp] theorem Slot.getV_setV_self (p : Slot) (d : VReg) (w : VWord) : (p.setV d w).getV d = w := by simp [Slot.getV_setV]
theorem Slot.getM_setM (p : Slot) (r d : MReg) (w : Word) : (p.setM d w).getM r = if r = d then w else p.getM r := by
  simp only [Slot.getM, Slot.setM, Vector.getElem_set]
  by_cases h : r = d
  · simp [h]
  · have : d.toNat ≠ r.toNat := fun e => h (BitVec.eq_of_toNat_eq e.symm)
    simp [h, this]

/-- Setting a bit of a full/empty or presence word. -/
theorem setMask_getLsbD {n : Nat} (w : BitVec n) (k j : Nat) (b : Bool) (hk : k < n) :
    (setMask w k b).getLsbD j = if j = k then b else w.getLsbD j := by
  have h : (BitVec.ofNat n (2 ^ k)).getLsbD j = decide (j = k) := by
    rw [BitVec.getLsbD_ofNat, Nat.testBit_two_pow]
    by_cases e : j = k
    · simp [e, hk]
    · simp [e, Ne.symm e]
  cases b
  · simp only [setMask, Bool.false_eq_true, if_false, BitVec.getLsbD_and, BitVec.getLsbD_not, h]
    by_cases e : j = k
    · simp [e]
    · by_cases hj : j < n
      · simp [e, hj]
      · simp [e, BitVec.getLsbD_of_ge w j (by omega)]
  · simp only [setMask, if_true, BitVec.getLsbD_or, h]
    by_cases e : j = k <;> simp [e]

theorem Slot.fullX_setX (p : Slot) (r d : Reg) (w : Word) : (p.setX d w).fullX r = if r = d then true else p.fullX r := by
  simp only [Slot.fullX, Slot.setX, setMask_getLsbD _ _ _ _ (d.isLt)]
  by_cases h : r = d
  · simp [h]
  · have : r.toNat ≠ d.toNat := fun e => h (BitVec.eq_of_toNat_eq e)
    simp [h, this]
theorem Slot.presentV_setV (p : Slot) (r d : VReg) (w : VWord) :
    (p.setV d w).presentV r = if r = d then true else p.presentV r := by
  simp only [Slot.presentV, Slot.setV, setMask_getLsbD _ _ _ _ (d.isLt)]
  by_cases h : r = d
  · simp [h]
  · have : r.toNat ≠ d.toNat := fun e => h (BitVec.eq_of_toNat_eq e)
    simp [h, this]
@[simp] theorem Slot.getX_late (p : Slot) (a b c : Nat) (r : Reg) : (p.late a b c).getX r = p.getX r := rfl
@[simp] theorem Slot.getV_late (p : Slot) (a b c : Nat) (r : VReg) : (p.late a b c).getV r = p.getV r := rfl
@[simp] theorem Slot.fullX_late (p : Slot) (a b c : Nat) (r : Reg) : (p.late a b c).fullX r = p.fullX r := rfl
@[simp] theorem Slot.presentV_late (p : Slot) (a b c : Nat) (r : VReg) : (p.late a b c).presentV r = p.presentV r := rfl

/-! ## The shared operations at the end of an instruction -/

/-- In the rotation an instruction that has issued moves the PC to the next word, and nothing else (R41). -/
theorem State.advance_rotation (s : State) (h : s.inFrame = false) :
    s.advance = s.upd (fun p => { p with pc := p.pc + 4, park := none }) := by
  simp [State.advance, h]

/-- Everything a written x register changes. -/
theorem State.writeX_advance (s : State) (d : Reg) (w : Word) (n : Nat) (h : s.inFrame = false) :
    (s.writeX d w n).advance =
      s.upd (fun p => { (p.setX d w).late (s.cycleOf (coreOf s.cur)) d.toNat n with pc := p.pc + 4, park := none }) := by
  rw [State.advance_rotation _ (by simpa using h)]
  simp only [State.writeX, State.upd, State.setSlot, State.me, State.slot, Table.put_put, Table.get_put_self, Slot.late_pc, Slot.setX_pc]

/-- Everything a written vector register changes. -/
theorem State.writeV_advance (s : State) (d : VReg) (w : VWord) (n : Nat) (h : s.inFrame = false) :
    (s.writeV d w n).advance =
      s.upd (fun p => { (p.setV d w).late (s.cycleOf (coreOf s.cur)) (16 + d.toNat) n with pc := p.pc + 4, park := none }) := by
  rw [State.advance_rotation _ (by simpa using h)]
  simp only [State.writeV, State.upd, State.setSlot, State.me, State.slot, Table.put_put, Table.get_put_self, Slot.late_pc, Slot.setV_pc]

end Sys2Proof.Machine
end

