-- ==== Sys2Proof/Laws/Memory.lean ====
section
/-! SUPPORT. What every operation on home memory, on the tags and on the L2 of a hearth does: the canonical form is kept, a write is
read back, and every other byte reads as before. -/
namespace Sys2Proof.Machine

/-! ## Tables -/

theorem Table.wf_filter {α : Type} [DecidableEq α] (d : α) (p : Nat × α → Bool) (t : Table α) (h : Table.wf d t = true) :
    Table.wf d (t.filter p) = true := by
  simp only [Table.wf, Bool.and_eq_true, List.all_eq_true] at h ⊢
  exact ⟨Table.sorted_filter p t h.1, fun e he => h.2 e (List.mem_filter.1 he).1⟩

theorem Table.sorted_of_wf {α : Type} [DecidableEq α] (d : α) (t : Table α) (h : Table.wf d t = true) : Table.sorted t = true := by
  simp only [Table.wf, Bool.and_eq_true] at h; exact h.1

theorem Table.wf_foldl_set {α β : Type} [DecidableEq α] (d : α) (k : β → Nat) (v : β → α) (l : List β) (t : Table α)
    (h : Table.wf d t = true) : Table.wf d (l.foldl (fun m e => Table.set d m (k e) (v e)) t) = true := by
  induction l generalizing t with
  | nil => exact h
  | cons e r ih => exact ih _ (Table.wf_set d t (k e) (v e) h)

/-! ## Bytes of home memory -/

theorem putHome_wf (m : List Host.Cell) (a : Nat) (bs : List Byte) (h : memoryWf m = true) : memoryWf (putHome m a bs) = true := by
  induction bs generalizing m a with
  | nil => exact h
  | cons b bs ih => exact ih _ _ (Table.wf_set unlisted m a b h)

/-- A byte inside the written run reads as written. -/
theorem get_putHome (m : List Host.Cell) (a : Nat) (bs : List Byte) (j : Nat) (h : memoryWf m = true) :
    Table.get unlisted (putHome m a bs) j = if a ≤ j then (bs[j - a]?).getD (Table.get unlisted m j) else Table.get unlisted m j := by
  induction bs generalizing m a with
  | nil => simp [putHome]
  | cons b bs ih =>
    rw [putHome, ih _ _ (Table.wf_set unlisted m a b h), Table.get_set unlisted m a j b]
    by_cases h1 : a + 1 ≤ j
    · have h2 : a ≤ j := by omega
      have h3 : j ≠ a := by omega
      have h4 : j - a = (j - (a + 1)) + 1 := by omega
      simp only [h1, h2, h3, if_true, if_false, h4, List.getElem?_cons_succ]
    · by_cases h2 : j = a
      · subst h2; simp [h1]
      · have h3 : ¬ a ≤ j := by omega
        simp only [h1, h2, h3, if_false]

/-- A byte outside the written run reads as before. -/
theorem get_putHome_outside (m : List Host.Cell) (a : Nat) (bs : List Byte) (j : Nat) (h : memoryWf m = true)
    (hj : j < a ∨ a + bs.length ≤ j) : Table.get unlisted (putHome m a bs) j = Table.get unlisted m j := by
  rw [get_putHome m a bs j h]
  split
  · rw [List.getElem?_eq_none (by omega)]; rfl
  · rfl

theorem mergeBytes_wf (m : List Host.Cell) (t : Table DirtyByte) (h : memoryWf m = true) : memoryWf (mergeBytes m t) = true := by
  induction t generalizing m with
  | nil => exact h
  | cons e r ih => exact ih _ (Table.wf_set unlisted m e.1 e.2.val h)

theorem mergeTags_wf (m : Table Bool) (t : Table DirtyTag) (h : Table.wf true m = true) : Table.wf true (mergeTags m t) = true := by
  induction t generalizing m with
  | nil => exact h
  | cons e r ih => exact ih _ (Table.wf_set true m e.1 e.2.full h)

/-- A byte that is not sent home reads as before. -/
theorem get_mergeBytes_outside (m : List Host.Cell) (t : Table DirtyByte) (j : Nat) (h : memoryWf m = true) (hj : ∀ e ∈ t, e.1 ≠ j) :
    Table.get unlisted (mergeBytes m t) j = Table.get unlisted m j := by
  induction t generalizing m with
  | nil => rfl
  | cons e r ih =>
    rw [mergeBytes, ih _ (Table.wf_set unlisted m e.1 e.2.val h) (fun x hx => hj x (List.mem_cons_of_mem _ hx)),
      Table.get_set unlisted m e.1 j e.2.val, if_neg (fun he => hj e List.mem_cons_self he.symm)]

/-- A byte that is sent home reads as its dirty value. -/
theorem get_mergeBytes_of_mem (m : List Host.Cell) (t : Table DirtyByte) (a : Nat) (d : DirtyByte) (h : memoryWf m = true)
    (hs : Table.sorted t = true) (hm : (a, d) ∈ t) : Table.get unlisted (mergeBytes m t) a = d.val := by
  induction t generalizing m with
  | nil => cases hm
  | cons e r ih =>
    obtain ⟨h1, h2⟩ := (Table.sorted_cons e.1 e.2 r).1 hs
    rcases List.mem_cons.1 hm with rfl | hr
    · rw [mergeBytes, get_mergeBytes_outside _ _ _ (Table.wf_set unlisted m a d.val h)
        (fun x hx hxa => absurd (h1 x hx) (by omega)), Table.get_set unlisted m a a d.val, if_pos rfl]
    · exact ih _ (Table.wf_set unlisted m e.1 e.2.val h) h2 hr

/-! ## The state -/

theorem safe_memory {s : State} (h : Safe s) : memoryWf s.home = true := h.1

/-- Only home memory and the tags matter to the canonical form. -/
theorem safe_of_eq {s t : State} (h : Safe s) (h1 : t.home = s.home) (h2 : t.tags = s.tags) : Safe t := by
  unfold Safe at *; rw [h1, h2]; exact h

theorem reset_safe_memory : memoryWf State.reset.home = true := rfl

theorem writeHome_safe (s : State) (a : Nat) (bs : List Byte) (h : Safe s) : Safe (s.writeHome a bs) := ⟨putHome_wf _ _ _ h.1, h.2⟩

theorem writeHomeNat_safe (s : State) (a n v : Nat) (h : Safe s) : Safe (s.writeHomeNat a n v) := writeHome_safe s a _ h

theorem setHomeTag_safe (s : State) (a : Nat) (full : Bool) (h : Safe s) : Safe (s.setHomeTag a full) :=
  ⟨h.1, Table.wf_set true s.tags (a / 8) full h.2⟩

theorem setHomeByte_safe (s : State) (a : Nat) (b : Byte) (h : Safe s) : Safe (s.setHomeByte a b) :=
  ⟨Table.wf_set unlisted s.home a b h.1, h.2⟩

theorem homeByte_writeHome (s : State) (a : Nat) (bs : List Byte) (j : Nat) (h : Safe s) :
    (s.writeHome a bs).homeByte j = if a ≤ j then (bs[j - a]?).getD (s.homeByte j) else s.homeByte j := get_putHome s.home a bs j h.1

theorem homeByte_writeHome_outside (s : State) (a : Nat) (bs : List Byte) (j : Nat) (h : Safe s) (hj : j < a ∨ a + bs.length ≤ j) :
    (s.writeHome a bs).homeByte j = s.homeByte j := get_putHome_outside s.home a bs j h.1 hj

theorem homeTag_setHomeTag (s : State) (a j : Nat) (full : Bool) (h : Safe s) :
    (s.setHomeTag a full).homeTag j = if j / 8 = a / 8 then full else s.homeTag j :=
  Table.get_set true s.tags (a / 8) (j / 8) full

@[simp] theorem homeByte_setHomeTag (s : State) (a j : Nat) (full : Bool) : (s.setHomeTag a full).homeByte j = s.homeByte j := rfl
@[simp] theorem homeTag_writeHome (s : State) (a j : Nat) (bs : List Byte) : (s.writeHome a bs).homeTag j = s.homeTag j := rfl

/-! ## The order of an L2 -/

/-- The dirty bytes and tags of one L2 stand in order. -/
def Hearth.Ordered (x : Hearth) : Prop := Table.sorted x.dirty = true ∧ Table.sorted x.dtags = true

theorem l2Ordered_iff (s : State) : L2Ordered s ↔ ∀ e ∈ s.hearths, Hearth.Ordered e.2 := by
  simp only [L2Ordered, List.all_eq_true, Bool.and_eq_true, Hearth.Ordered]

theorem l2Ordered_hearth {s : State} (h : L2Ordered s) (k : Nat) : Hearth.Ordered (s.hearth k) := by
  rw [State.hearth, Table.get]
  cases e : Table.find s.hearths k with
  | none => exact ⟨rfl, rfl⟩
  | some x => exact (l2Ordered_iff s).1 h _ (Table.mem_of_find s.hearths k x e)

theorem updHearth_ordered (s : State) (h : Nat) (f : Hearth → Hearth) (hf : ∀ x, Hearth.Ordered x → Hearth.Ordered (f x))
    (hs : L2Ordered s) : L2Ordered (s.updHearth h f) := by
  rw [l2Ordered_iff]
  intro e he
  rcases Table.mem_put _ _ _ e he with rfl | he
  · exact hf _ (l2Ordered_hearth hs h)
  · exact (l2Ordered_iff s).1 hs e he

theorem putDirty_sorted (slot : Nat) (bs : List Byte) (t : Table DirtyByte) (a : Nat) (h : Table.sorted t = true) :
    Table.sorted (putDirty t slot a bs) = true := by
  induction bs generalizing t a with
  | nil => exact h
  | cons b bs ih => exact ih _ _ (Table.sorted_put t a _ h)

theorem Hearth.ordered_filter (x : Hearth) (p : Nat × DirtyByte → Bool) (q : Nat × DirtyTag → Bool) (h : x.Ordered) :
    Hearth.Ordered { x with dirty := x.dirty.filter p, dtags := x.dtags.filter q } :=
  ⟨Table.sorted_filter p _ h.1, Table.sorted_filter q _ h.2⟩

/-- What the operations on memory may change: home memory, the tags, the units with an error, the L2s, the translations, the count of
open choices, and the counts of failed writes; the canonical form is kept. -/
structure Moves (s t : State) : Prop where
  agenda : t.agenda = s.agenda
  cur : t.cur = s.cur
  inFrame : t.inFrame = s.inFrame
  lent : t.lent = s.lent
  todo : t.todo = s.todo
  cycle : t.cycle = s.cycle
  clock : t.clock = s.clock
  cores : t.cores = s.cores
  grates : t.grates = s.grates
  atomics : t.atomics = s.atomics
  reductions : t.reductions = s.reductions
  flights : t.flights = s.flights
  pkg : t.pkg = s.pkg
  flue : t.flue = s.flue
  slot : ∀ k, t.slot k = { s.slot k with fstat := (t.slot k).fstat }
  safe : Safe s → Safe t
  ordered : L2Ordered s → L2Ordered t

theorem Moves.refl (s : State) : Moves s s := ⟨rfl, rfl, rfl, rfl, rfl, rfl, rfl, rfl, rfl, rfl, rfl, rfl, rfl, rfl, fun _ => rfl, id, id⟩

theorem Moves.trans {s t u : State} (h : Moves s t) (g : Moves t u) : Moves s u where
  agenda := g.agenda.trans h.agenda
  cur := g.cur.trans h.cur
  inFrame := g.inFrame.trans h.inFrame
  lent := g.lent.trans h.lent
  todo := g.todo.trans h.todo
  cycle := g.cycle.trans h.cycle
  clock := g.clock.trans h.clock
  cores := g.cores.trans h.cores
  grates := g.grates.trans h.grates
  atomics := g.atomics.trans h.atomics
  reductions := g.reductions.trans h.reductions
  flights := g.flights.trans h.flights
  pkg := g.pkg.trans h.pkg
  flue := g.flue.trans h.flue
  slot := fun k => by
    have h1 := g.slot k; have h2 := h.slot k
    rw [h1, h2]
  safe := fun hs => g.safe (h.safe hs)
  ordered := fun hs => g.ordered (h.ordered hs)

theorem Moves.me {s t : State} (h : Moves s t) : t.me = { s.me with fstat := t.me.fstat } := by
  have := h.slot s.cur
  simp only [State.me, h.cur]; exact this

theorem writeHome_moves (s : State) (a : Nat) (bs : List Byte) : Moves s (s.writeHome a bs) :=
  ⟨rfl, rfl, rfl, rfl, rfl, rfl, rfl, rfl, rfl, rfl, rfl, rfl, rfl, rfl, fun _ => rfl, writeHome_safe s a bs, id⟩

theorem writeHomeNat_moves (s : State) (a n v : Nat) : Moves s (s.writeHomeNat a n v) := writeHome_moves s a _

theorem setHomeTag_moves (s : State) (a : Nat) (full : Bool) : Moves s (s.setHomeTag a full) :=
  ⟨rfl, rfl, rfl, rfl, rfl, rfl, rfl, rfl, rfl, rfl, rfl, rfl, rfl, rfl, fun _ => rfl, setHomeTag_safe s a full, id⟩

theorem updHearth_moves (s : State) (h : Nat) (f : Hearth → Hearth) (hf : ∀ x, Hearth.Ordered x → Hearth.Ordered (f x)) :
    Moves s (s.updHearth h f) :=
  ⟨rfl, rfl, rfl, rfl, rfl, rfl, rfl, rfl, rfl, rfl, rfl, rfl, rfl, rfl, fun _ => rfl, id, updHearth_ordered s h f hf⟩

theorem updClamp_moves (s : State) (c : Nat) (f : Clamp → Clamp) : Moves s (s.updClamp c f) :=
  ⟨rfl, rfl, rfl, rfl, rfl, rfl, rfl, rfl, rfl, rfl, rfl, rfl, rfl, rfl, fun _ => rfl, id, id⟩

theorem fresh_moves (s : State) (n : Nat) : Moves s { s with fresh := n } :=
  ⟨rfl, rfl, rfl, rfl, rfl, rfl, rfl, rfl, rfl, rfl, rfl, rfl, rfl, rfl, fun _ => rfl, id, id⟩

theorem failWrites_moves (s : State) (k n b : Nat) : Moves s (s.updSlot k (fun p => p.failWrites n b)) where
  agenda := rfl
  cur := rfl
  inFrame := rfl
  lent := rfl
  todo := rfl
  cycle := rfl
  clock := rfl
  cores := rfl
  grates := rfl
  atomics := rfl
  reductions := rfl
  flights := rfl
  pkg := rfl
  flue := rfl
  slot := fun j => by
    by_cases h : j = k
    · subst h; simp [Slot.failWrites]
    · simp [State.updSlot, State.setSlot, State.slot, Table.get_put, h]
  safe := id
  ordered := id

theorem Moves.foldl {β : Type} (f : State → β → State) (hf : ∀ s b, Moves s (f s b)) (l : List β) (s : State) : Moves s (l.foldl f s) := by
  induction l generalizing s with
  | nil => exact .refl s
  | cons b r ih => exact (hf s b).trans (ih _)

theorem countRefused_moves (s : State) (t : Table DirtyByte) (seen : List (Nat × Nat)) : Moves s (countRefused s t seen) := by
  induction t generalizing s seen with
  | nil => exact .refl s
  | cons e r ih => exact (Moves.foldl _ (fun s (x : Nat × Nat) => failWrites_moves s x.1 1 _) _ s).trans (ih _ _)

@[simp] theorem countRefused_home (s : State) (t : Table DirtyByte) (seen : List (Nat × Nat)) : (countRefused s t seen).home = s.home := by
  induction t generalizing s seen with
  | nil => rfl
  | cons e r ih =>
    rw [countRefused, ih]
    generalize (List.filter _ _) = l
    induction l generalizing s with
    | nil => rfl
    | cons x l ih2 => simp only [List.foldl_cons]; exact ih2 _

/-- Dirty bytes and tags of a hearth go home (R161). -/
theorem sendClean_moves (s : State) (h : Nat) (p : Nat → DirtyByte → Bool) (q : Nat → DirtyTag → Bool) : Moves s (s.sendClean h p q) := by
  refine Moves.trans ?_ (countRefused_moves _ _ _)
  exact ⟨rfl, rfl, rfl, rfl, rfl, rfl, rfl, rfl, rfl, rfl, rfl, rfl, rfl, rfl, fun _ => rfl,
    fun hs => ⟨mergeBytes_wf _ _ hs.1, mergeTags_wf _ _ hs.2⟩,
    updHearth_ordered s h _ (fun x hx => Hearth.ordered_filter x _ _ hx)⟩

theorem sendHome_moves (s : State) (h : Nat) (p : Nat → DirtyByte → Bool) (q : Nat → DirtyTag → Bool) : Moves s (s.sendHome h p q) := by
  simp only [State.sendHome]
  refine Moves.trans (updHearth_moves s h _ ?_) (sendClean_moves _ _ _ _)
  exact fun _ hx => hx

/-- A byte that the hearth does not hold, or does not send, reads at home as before. -/
theorem homeByte_sendHome (s : State) (h : Nat) (p : Nat → DirtyByte → Bool) (q : Nat → DirtyTag → Bool) (j : Nat) (hs : Safe s)
    (hj : ∀ d, (j, d) ∈ (s.hearth h).dirty → p j d = false) : (s.sendHome h p q).homeByte j = s.homeByte j := by
  simp only [State.sendHome, State.sendClean, State.homeByte, countRefused_home]
  refine get_mergeBytes_outside _ _ _ hs.1 (fun e he => ?_)
  rintro rfl
  have h1 := (List.mem_filter.1 (List.mem_filter.1 he).1)
  have h2 : (e.1, e.2) ∈ (s.hearth h).dirty := by simpa [State.hearth, State.updHearth, Table.get_put] using h1.1
  simp [hj e.2 h2] at h1

theorem releaseHome_moves (s : State) (slot : Nat) : Moves s (s.releaseHome slot) := by
  rw [State.releaseHome]; exact sendHome_moves s _ _ _
theorem lineHome_moves (s : State) (h line : Nat) : Moves s (s.lineHome h line) := by
  refine (sendHome_moves s _ _ _).trans (updHearth_moves _ h (fun x => { x with tiles := _ }) (fun _ hx => hx))

theorem evictFor_moves (h a n : Nat) (s : State) : Moves s (State.evictFor h a n s) := by
  induction n generalizing s with
  | zero => exact .refl s
  | succ n ih =>
    simp only [State.evictFor]
    split
    · exact .refl s
    · exact ((fresh_moves s _).trans (lineHome_moves _ _ _)).trans (ih _)

/-- A full L2 evicts lines (R3). -/
theorem makeRoom_moves (s : State) (h a : Nat) : Moves s (s.makeRoom h a) := by
  rw [State.makeRoom]; split
  · exact .refl s
  · exact evictFor_moves h a _ s

/-- What a unit writes at home supersedes what the L2s hold of it. -/
theorem dropDirty_moves (s : State) (a n : Nat) : Moves s (s.dropDirty a n) where
  agenda := rfl
  cur := rfl
  inFrame := rfl
  lent := rfl
  todo := rfl
  cycle := rfl
  clock := rfl
  cores := rfl
  grates := rfl
  atomics := rfl
  reductions := rfl
  flights := rfl
  pkg := rfl
  flue := rfl
  slot := fun _ => rfl
  safe := id
  ordered := fun hs => by
    rw [l2Ordered_iff] at hs ⊢
    intro e he
    obtain ⟨x, hx, rfl⟩ := List.mem_map.1 he
    exact ⟨Table.sorted_filter _ _ (hs x hx).1, (hs x hx).2⟩

theorem unitWrite_moves (s : State) (a : Nat) (bs : List Byte) : Moves s (s.unitWrite a bs) := by
  rw [State.unitWrite]; split
  · exact .refl s
  · exact (dropDirty_moves s a _).trans (writeHome_moves _ a bs)

theorem storeNat_moves (s : State) (a n v : Nat) : Moves s (s.storeNat a n v) := by
  rw [State.storeNat]; split
  · exact .refl s
  · exact writeHomeNat_moves s a n v

/-- Before an operation at a word's home the L2s hand in its bytes (R139). -/
theorem mergeWord_moves (s : State) (a : Nat) : Moves s (s.mergeWord a) :=
  (fresh_moves s _).trans (Moves.foldl _ (fun s h => sendHome_moves s h _ _) _ _)

theorem unitMerge_moves (s : State) (w : Word) : Moves s (s.unitMerge w) := by
  rw [State.unitMerge]; split
  · exact mergeWord_moves s _
  · exact .refl s

theorem performWrite_moves (s : State) (slot a : Nat) (bs : List Byte) : Moves s (s.performWrite slot a bs) := by
  rw [State.performWrite]; split
  · exact writeHome_moves s a bs
  · exact (makeRoom_moves s _ _).trans (updHearth_moves _ _ _ (fun x hx => ⟨putDirty_sorted slot bs _ a hx.1, hx.2⟩))

theorem performTag_moves (s : State) (slot a : Nat) (full : Bool) : Moves s (s.performTag slot a full) := by
  rw [State.performTag]; split
  · exact setHomeTag_moves s a full
  · exact (makeRoom_moves s _ _).trans (updHearth_moves _ _ _ (fun x hx => ⟨hx.1, Table.sorted_put _ _ _ hx.2⟩))

end Sys2Proof.Machine
end

