-- ==== Sys2Proof/Laws/Ops.lean ====
section
/-! SUPPORT. What each shared operation can do, said once: the checks of an instruction, translation and access, the store buffer,
traps, stops, wakes and the sending of flits. -/
namespace Sys2Proof.Machine

/-! ## The checks of an instruction -/

/-- An instruction that is not ready takes ILL or PRIV, waits, or parks on the register it lacks. -/
theorem gate_stops (i : Instr) (s : State) (body : State → State) (h : s.ready i = false) :
    gate i s body = s.ill i ∨ gate i s body = s.privFault i ∨ gate i s body = s ∨
      ∃ r, s.missing i = some r ∧ gate i s body = s.parkOn r := by
  have hw : ∀ t, s.waits i t = s.ill i ∨ s.waits i t = s.privFault i ∨ s.waits i t = t := fun t => by
    rw [State.waits]; split
    · exact .inl rfl
    · split
      · exact .inr (.inl rfl)
      · exact .inr (.inr rfl)
  have hs : s.waits i s = s.ill i ∨ s.waits i s = s.privFault i ∨ s.waits i s = s ∨ ∃ r, s.missing i = some r ∧ s.waits i s = s.parkOn r :=
    (hw s).imp id (Or.imp id .inl)
  cases hl : s.legalIn s.cur i with
  | false => exact .inl (by simp [gate, hl])
  | true =>
    cases hf : s.frameBusy i with
    | true => simpa [gate, hl, hf] using hs
    | false =>
      cases hm : s.missing i with
      | some r =>
        cases hi : s.inFrame with
        | true => rw [hm] at hs; simpa [gate, hl, hf, hm, hi] using hs
        | false =>
          have hg : gate i s body = s.waits i (s.parkOn r) := by simp [gate, hl, hf, hm, hi]
          rw [hg]
          exact (hw _).imp id (Or.imp id (fun e => .inr ⟨r, rfl, e⟩))
      | none =>
        cases ha : s.holds i with
        | true => rw [hm] at hs; simpa [gate, hl, hf, hm, ha] using hs
        | false => simp [State.ready, hl, hf, hm, ha] at h

/-! ## The program counter -/

theorem advance_outside (s : State) (h : s.inFrame = false) : s.advance = s.upd (fun p => { p with pc := p.pc + 4, park := none }) := by
  simp [State.advance, h]

theorem advance_home (s : State) : s.advance.home = s.home := by rw [State.advance]; split <;> rfl
theorem advance_tags (s : State) : s.advance.tags = s.tags := by rw [State.advance]; split <;> rfl

theorem advance_safe (s : State) (h : Safe s) : Safe s.advance := safe_of_eq h (advance_home s) (advance_tags s)

/-! ## Flits -/

/-- Handing a flit to the links changes the links, the wire and the list of waiting flits only. -/
structure Sends (s t : State) : Prop where
  flue : t.flue = { s.flue with links := t.flue.links, out := t.flue.out, waiting := t.flue.waiting }
  rest : t = { s with flue := t.flue }

theorem Sends.refl (s : State) : Sends s s := ⟨rfl, rfl⟩

theorem Sends.trans {s t u : State} (h : Sends s t) (g : Sends t u) : Sends s u :=
  ⟨by rw [g.flue, h.flue], by rw [g.rest, h.rest]⟩

theorem setLink_sends (s : State) (p : Nat) (l : Link) : Sends s (s.setLink p l) := ⟨rfl, rfl⟩
theorem wire_sends (s : State) (p : Nat) (f : LinkFlit) : Sends s (s.wire p f) := ⟨rfl, rfl⟩

theorem sendOn_sends (s : State) (p : Nat) (f : QueuedFlit) : Sends s (s.sendOn p f) :=
  (setLink_sends s p _).trans (wire_sends _ p _)

theorem sendControl_sends (s : State) (p : Nat) (f : FlitBody) : Sends s (s.sendControl p f) := by
  simp only [State.sendControl]
  repeat' split
  · exact .refl s
  · exact (setLink_sends s p _).trans (wire_sends _ p _)
  · exact setLink_sends s p _

theorem transmit_sends (s : State) (p : Nat) (f : QueuedFlit) : Sends s (s.transmit p f) := by
  rw [State.transmit]; split
  · exact sendOn_sends s p f
  · exact setLink_sends s p _

theorem Sends.foldl {β : Type} (f : State → β → State) (hf : ∀ s b, Sends s (f s b)) (l : List β) (s : State) : Sends s (l.foldl f s) := by
  induction l generalizing s with
  | nil => exact .refl s
  | cons b r ih => exact (hf s b).trans (ih _)

theorem sendAgain_sends (s : State) (p : Nat) (fs : List QueuedFlit) : Sends s (s.sendAgain p fs) := by
  induction fs generalizing s with
  | nil => exact setLink_sends s p _
  | cons f fs ih =>
    rw [State.sendAgain]; split
    · exact (sendOn_sends s p f).trans (ih _)
    · exact setLink_sends s p _

theorem flush_sends (s : State) (p : Nat) : Sends s (s.flush p) := by
  rw [State.flush]
  exact (sendAgain_sends s p _).trans ((setLink_sends _ p _).trans (Sends.foldl _ (fun s f => transmit_sends s p f) _ _))

theorem emit_sends (s : State) (f : FlitBody) : Sends s (s.emit f) := by
  rw [State.emit]; split
  · exact Sends.foldl _ (fun s f => transmit_sends s _ f) _ _
  · exact ⟨rfl, rfl⟩

theorem Sends.home {s t : State} (h : Sends s t) : t.home = s.home := by rw [h.rest]
theorem Sends.tags {s t : State} (h : Sends s t) : t.tags = s.tags := by rw [h.rest]
theorem Sends.slot {s t : State} (h : Sends s t) (k : Nat) : t.slot k = s.slot k := by rw [h.rest]; rfl
theorem Sends.core {s t : State} (h : Sends s t) (k : Nat) : t.core k = s.core k := by rw [h.rest]; rfl
theorem Sends.safe {s t : State} (h : Sends s t) (hs : Safe s) : Safe t := safe_of_eq hs h.home h.tags

/-! ## Translation (R278, R285) -/

theorem addTlb_moves (s : State) (c : Nat) (e : TlbEntry) : Moves s (s.addTlb c e) := updClamp_moves s c _

theorem walkFrom_moves (c : Nat) (root : Word) (a : Nat) (ls : List Nat) (s : State) (base : Nat) :
    Moves s (walkFrom s c root a ls base).1 := by
  induction ls generalizing s base with
  | nil => exact .refl s
  | cons l ls ih =>
    have h : ∀ e, Moves s ((s.mergeWord e).mergeWord (e + 8)) := fun e => (mergeWord_moves s e).trans (mergeWord_moves _ _)
    rw [walkFrom]
    dsimp only
    repeat' split
    all_goals first
      | exact .refl s
      | exact ih _ _
      | exact h _
      | exact (h _).trans ((addTlb_moves _ c _).trans (ih _ _))

theorem walk_moves (s : State) (c : Nat) (root : Word) (a : Nat) : Moves s (s.walk c root a).1 := by
  rw [State.walk]; split
  · exact .refl s
  · exact walkFrom_moves c root a _ s _

theorem useLeaf_moves (s : State) (c : Nat) (root : Word) (a : Nat) (user : Bool) (kind : Nat) (tagged : Bool) (w0 w1 e va span : Nat) :
    Moves s (s.useLeaf c root a user kind tagged w0 w1 e va span).1 := by
  have h : ∀ w, Moves s (if w = w0 then s else s.writeHomeNat e 8 w) := fun w => by
    split
    · exact .refl s
    · exact writeHomeNat_moves s e 8 w
  rw [State.useLeaf]
  dsimp only
  by_cases h1 : leafDenies w0 user kind = true
  · rw [if_pos h1]; exact .refl s
  · rw [if_neg h1]
    by_cases h2 : (tagged && fld w0 6 1 == 0) = true
    · rw [if_pos h2]; exact .refl s
    · rw [if_neg h2]
      cases leafAddr (leafUsed w0 kind) w1 (a - va) with
      | none => exact h _
      | some pa => exact (h _).trans (addTlb_moves _ c _)

theorem translateWalk_moves (s : State) (c : Nat) (root : Word) (a : Nat) (user : Bool) (kind : Nat) (tagged : Bool) :
    Moves s (s.translateWalk c root a user kind tagged).1 := by
  have h := walk_moves s c root a
  rw [State.translateWalk]
  split
  · rename_i e; rw [e] at h; exact h
  · rename_i e; rw [e] at h; exact h
  · rename_i e; rw [e] at h; exact h.trans (useLeaf_moves _ c root a user kind tagged _ _ _ _ _)

theorem translate_moves (s : State) (c : Nat) (root : Word) (a : Nat) (user : Bool) (kind : Nat) (tagged : Bool) :
    Moves s (s.translate c root a user kind tagged).1 := by
  rw [State.translate]
  split
  · exact .refl s
  · split
    · exact translateWalk_moves s c root a user kind tagged
    · split
      · exact useLeaf_moves s c root a user kind tagged _ _ _ _ _
      · dsimp only
        have h : ∀ e, Moves s ((s.mergeWord e).mergeWord (e + 8)) := fun e => (mergeWord_moves s e).trans (mergeWord_moves _ _)
        split
        · exact h _
        · split
          · exact (h _).trans (useLeaf_moves _ c root a user kind tagged _ _ _ _ _)
          · exact (h _).trans (translateWalk_moves _ c root a user kind tagged)

theorem resolveRuns_moves (slot : Nat) (root : Word) (user : Bool) (acc : Access) (l : List (Nat × Nat)) (s : State) :
    Moves s (s.resolveRuns slot root user acc l).1 := by
  induction l generalizing s with
  | nil => exact .refl s
  | cons r rest ih =>
    obtain ⟨a, n⟩ := r
    have h := translate_moves s (clampOf slot) root a user acc.kind acc.tagged
    rw [State.resolveRuns]
    split
    · rename_i e; rw [e] at h; exact h
    · rename_i e; rw [e] at h; exact h
    · rename_i t pa hm e
      rw [e] at h
      split
      · exact h
      · split
        · exact h
        · have h2 := ih t
          split
          · rename_i e2; rw [e2] at h2; exact h.trans h2
          · exact h.trans h2

/-- Checking and resolving an access changes only what translation changes. -/
theorem resolveAs_moves (s : State) (slot : Nat) (root : Word) (user : Bool) (g : Seg) (acc : Access) :
    Moves s (s.resolveAs slot root user g acc).1 := by
  rw [State.resolveAs]
  dsimp only
  repeat' split
  all_goals first
    | exact .refl s
    | exact resolveRuns_moves slot root user acc _ s

theorem resolveSeg_moves (s : State) (slot : Nat) (g : Seg) (acc : Access) : Moves s (s.resolveSeg slot g acc).1 :=
  resolveAs_moves s slot _ _ g acc

theorem resolve_moves (s : State) (slot : Nat) (acc : Access) : Moves s (s.resolve slot acc).1 := resolveSeg_moves s slot _ acc

/-- An access answers one of: its fault, the park of a page fault, the departure of an ember or the wait for it, or its effect. -/
theorem access_cases (s : State) (acc : Access) (k : State → List Piece → State) :
    ∃ t, Moves s t ∧
      ((∃ c, s.resolve s.cur acc = (t, .fault c) ∧ s.access acc k = t.raise c acc.o acc.einfo) ∨
       (∃ r va, s.resolve s.cur acc = (t, .page r va) ∧ s.access acc k = t.pageFault acc r va) ∨
       (∃ ps, s.resolve s.cur acc = (t, .ok ps) ∧ t.movesTo acc ps = none ∧ s.access acc k = k t ps) ∨
       (∃ ps pkg clamp l, s.resolve s.cur acc = (t, .ok ps) ∧ t.movesTo acc ps = some (pkg, clamp, l) ∧
          s.access acc k = if t.me.fills = [] ∧ t.me.sb = [] then
            t.upd (fun p => { p with mode := .leaving, barrier := some (.depart pkg clamp (t.globalOf l) p.pc) }) else t)) := by
  have h := resolve_moves s s.cur acc
  cases hr : s.resolve s.cur acc with
  | mk t r =>
    rw [hr] at h
    refine ⟨t, h, ?_⟩
    cases r with
    | fault c => exact .inl ⟨c, rfl, by simp [State.access, hr]⟩
    | page r va => exact .inr (.inl ⟨r, va, rfl, by simp [State.access, hr]⟩)
    | ok ps =>
      cases hm : t.movesTo acc ps with
      | none => exact .inr (.inr (.inl ⟨ps, rfl, hm, by simp [State.access, hr, hm]⟩))
      | some d =>
        obtain ⟨pkg, clamp, l⟩ := d
        exact .inr (.inr (.inr ⟨ps, pkg, clamp, l, rfl, hm, by simp [State.access, hr, hm]⟩))

/-! ## The store buffer (R133) -/

/-- An entry enters the store buffer, or the instruction faults, parks or waits. -/
theorem enter_cases (s : State) (acc : Access) (remote : Bool) (e : SbEntry) (k : State → State) :
    (s.me.burning = true ∧ 32 ≤ s.me.held ∧ s.enter acc remote e k = s.raise Cause.burnsto acc.o acc.einfo) ∨
    (s.me.burning = false ∧ remote = true ∧ sendStoreSize ≤ s.storeUsed s.cur ∧ s.enter acc remote e k = s.parkOn .sendStore) ∨
    (s.me.burning = false ∧ 32 ≤ s.me.sb.length ∧ s.enter acc remote e k = s) ∨ s.enter acc remote e k = k (s.pushEntry e) := by
  rw [State.enter]
  cases hb : s.me.burning with
  | true =>
    by_cases h : 32 ≤ s.me.held
    · exact .inl ⟨rfl, h, by simp [h]⟩
    · exact .inr (.inr (.inr (by simp [h])))
  | false =>
    by_cases h : remote = true ∧ sendStoreSize ≤ s.storeUsed s.cur
    · exact .inr (.inl ⟨rfl, h.1, h.2, by simp [h]⟩)
    · by_cases h2 : 32 ≤ s.me.sb.length
      · exact .inr (.inr (.inl ⟨rfl, h2, by simp [h2]; intro a b; exact absurd ⟨a, b⟩ h⟩))
      · refine .inr (.inr (.inr ?_))
        rw [if_neg (by simp), if_neg h, if_neg h2]

/-- A load changes the count of open choices and the flits, nothing else, while it gathers. -/
theorem gather_sends (slot seg : Nat) (tagged : Bool) (ps : List Piece) (pos : Nat) (s : State) :
    Sends { s with fresh := (s.gather slot seg tagged ps pos).1.fresh } (s.gather slot seg tagged ps pos).1 := by
  induction ps generalizing s pos with
  | nil => exact .refl s
  | cons p ps ih =>
    rw [State.gather]
    cases hl : p.loc with
    | here a => exact ih _ s
    | there pkg a =>
      dsimp only
      generalize hu : State.emit { s with fresh := s.fresh + 1 } _ = u
      have h1 : Sends { s with fresh := s.fresh + 1 } u := hu ▸ emit_sends _ _
      have h2 := ih (pos + p.len) u
      constructor
      · rw [h2.flue, show u.flue = _ from h1.flue]
      · rw [h2.rest, h1.rest]

/-! ## Sparks, wakes and stops (R18, R22, R110, R111) -/

theorem wake_home (s : State) (k : Nat) (d : Bool) : (s.wake k d).home = s.home ∧ (s.wake k d).tags = s.tags := by
  rw [State.wake]
  split
  · exact ⟨rfl, rfl⟩
  · split <;> exact ⟨rfl, rfl⟩

theorem wakeWfi_home (s : State) (k : Nat) : (s.wakeWfi k).home = s.home ∧ (s.wakeWfi k).tags = s.tags := by
  rw [State.wakeWfi]
  split
  · split
    · exact wake_home s k false
    · exact ⟨rfl, rfl⟩
  · exact ⟨rfl, rfl⟩

theorem sendSpark_home (s : State) (c : Nat) (k : Spark) : (s.sendSpark c k).home = s.home ∧ (s.sendSpark c k).tags = s.tags := by
  rw [State.sendSpark]
  split
  · exact ⟨rfl, rfl⟩
  · exact wakeWfi_home _ _

/-- Home memory and the tags stay as they are. -/
structure Keeps (s t : State) : Prop where
  home : t.home = s.home
  tags : t.tags = s.tags

theorem Keeps.refl (s : State) : Keeps s s := ⟨rfl, rfl⟩
theorem Keeps.trans {s t u : State} (h : Keeps s t) (g : Keeps t u) : Keeps s u := ⟨g.home.trans h.home, g.tags.trans h.tags⟩
theorem Keeps.safe {s t : State} (h : Keeps s t) (hs : Safe s) : Safe t := safe_of_eq hs h.home h.tags
theorem Sends.keeps {s t : State} (h : Sends s t) : Keeps s t := ⟨h.home, h.tags⟩

theorem Keeps.foldl {β : Type} (f : State → β → State) (hf : ∀ s b, Keeps s (f s b)) (l : List β) (s : State) : Keeps s (l.foldl f s) := by
  induction l generalizing s with
  | nil => exact .refl s
  | cons b r ih => exact (hf s b).trans (ih _)

theorem sendSpark_keeps (s : State) (c : Nat) (k : Spark) : Keeps s (s.sendSpark c k) := ⟨(sendSpark_home s c k).1, (sendSpark_home s c k).2⟩

theorem tellStoker_keeps (s : State) (k : Nat × Nat) (w0 w1 w2 w3 : Word) : Keeps s (s.tellStoker k w0 w1 w2 w3) := by
  rw [State.tellStoker]; split
  · exact sendSpark_keeps s _ _
  · exact (emit_sends s _).keeps

theorem sendSpark_safe (s : State) (c : Nat) (k : Spark) (h : Safe s) : Safe (s.sendSpark c k) := (sendSpark_keeps s c k).safe h

/-! ## Sends to other packages (R325 to R329) -/

theorem sendCount_keeps (s : State) (sid dst : Nat) (r : CountRec) : Keeps s (s.sendCount sid dst r) := by
  simp only [State.sendCount]; split
  · exact ⟨rfl, rfl⟩
  · exact (emit_sends s _).keeps

theorem countrel_keeps (s : State) (sid dst : Nat) : Keeps s (s.countrel sid dst) := by
  simp only [State.countrel]; split
  · exact .refl s
  · exact (show Keeps s (s.setStream _) from ⟨rfl, rfl⟩).trans (sendCount_keeps _ _ _ _)

theorem replaceWrite_keeps (s : State) (old new : WriteFlit) : Keeps s (s.replaceWrite old new) := ⟨rfl, rfl⟩

theorem setStream_keeps (s : State) (t : SrcStream) : Keeps s (s.setStream t) := ⟨rfl, rfl⟩
theorem storeFlit_keeps (s : State) (t : SrcStream) (e : SendEntry) : Keeps s (s.storeFlit t e) := ⟨rfl, rfl⟩
theorem storeRelease_keeps (s : State) (r : OutRelease) : Keeps s (s.storeRelease r) := ⟨rfl, rfl⟩
theorem updSlot_keeps (s : State) (k : Nat) (f : Slot → Slot) : Keeps s (s.updSlot k f) := ⟨rfl, rfl⟩
theorem emit_keeps (s : State) (f : FlitBody) : Keeps s (s.emit f) := (emit_sends s f).keeps

theorem closeFor_keeps (s : State) (sid dst : Nat) (b : Bool) : Keeps s (s.closeFor sid dst b) := by
  rw [State.closeFor]; split
  · exact countrel_keeps s sid dst
  · exact .refl s

theorem sendBlock_keeps (s : State) (slot stream dst blk mask : Nat) (bs : List Byte) (at_ : Option AtomicReq) (red : Option RedReq)
    (unit : Bool) : Keeps s (s.sendBlock slot stream dst blk mask bs at_ red unit) := by
  unfold State.sendBlock
  dsimp only
  split
  · exact replaceWrite_keeps s _ _
  · refine Keeps.trans ?_ (closeFor_keeps _ _ _ _)
    split
    · exact (closeFor_keeps _ _ _ _).trans (storeFlit_keeps _ _ _)
    · exact ((closeFor_keeps _ _ _ _).trans (storeFlit_keeps _ _ _)).trans (emit_keeps _ _)

theorem sendWrite_keeps (s : State) (slot stream dst a : Nat) (bs : List Byte) : Keeps s (s.sendWrite slot stream dst a bs) := by
  unfold State.sendWrite
  refine Keeps.foldl _ (fun s b => ?_) _ s
  exact (sendBlock_keeps s slot stream dst b.1 b.2.1 b.2.2 none none false).trans (updSlot_keeps _ _ _)

theorem sendClosing_keeps (s : State) (slot stream dst : Nat) (body : ReleaseBody) (probe : Bool) (ea : Word) (pc : Nat) (unit : Bool) :
    Keeps s (s.sendClosing slot stream dst body probe ea pc unit) := by
  have hk : ∀ l : List SrcStream, Keeps s (l.foldl (fun s t => s.setStream t.closed) s) :=
    fun l => Keeps.foldl _ (fun s t => setStream_keeps s t.closed) l s
  unfold State.sendClosing
  dsimp only
  split
  · exact (hk _).trans (storeRelease_keeps _ _)
  · exact ((hk _).trans (storeRelease_keeps _ _)).trans (emit_keeps _ _)

theorem sendRelease_keeps (s : State) (slot stream dst : Nat) (body : ReleaseBody) (probe : Bool) (ea : Word) (pc : Nat) :
    Keeps s (s.sendRelease slot stream dst body probe ea pc) := by
  rw [State.sendRelease]
  split
  · exact sendClosing_keeps s _ _ _ _ _ _ _ _
  · exact (sendClosing_keeps s _ _ _ _ _ _ _ _).trans (updSlot_keeps _ _ _)

theorem unitSend_keeps (s : State) (src dst a : Nat) (bs : List Byte) (unit : Bool) : Keeps s (s.unitSend src dst a bs unit) := by
  unfold State.unitSend
  refine Keeps.foldl _ (fun s b => ?_) _ s
  dsimp only
  split
  · exact sendBlock_keeps s src 0 dst b.1 b.2.1 b.2.2 none none unit
  · exact (sendBlock_keeps s src 0 dst b.1 b.2.1 b.2.2 none none unit).trans (updSlot_keeps _ _ _)

/-! ## What a unit does (R103, R111, R181, R366) -/

theorem markUnder_keeps (s : State) (rcba : Word) : Keeps s (s.markUnder rcba) := by
  rw [State.markUnder]; split <;> exact ⟨rfl, rfl⟩

theorem decrement_safe (s : State) (h : Nat) (succ : Word) (hs : Safe s) : Safe (s.decrement h succ) := by
  rw [State.decrement]
  have hm := (mergeWord_moves s (globalLocal succ + 0x4C)).safe hs
  split
  · split
    · exact hs
    · dsimp only
      repeat' split
      · exact hm
      · exact (markUnder_keeps _ _).safe hm
      · exact (writeHomeNat_moves _ _ _ _).safe hm
  · exact (sendClosing_keeps _ _ _ _ _ _ _ _ _).safe hs

theorem replayDecrement_safe (s : State) (h n : Nat) (root succ : Word) (hs : Safe s) : Safe (s.replayDecrement h n root succ) := by
  rw [State.replayDecrement]
  repeat' split
  · exact decrement_safe s h succ hs
  · exact hs
  · exact hs

theorem completionSpark_keeps (s : State) (h : Nat) (w : Word) (m : Message) : Keeps s (s.completionSpark h w m) := by
  simp only [State.completionSpark]
  split
  · exact ⟨rfl, rfl⟩
  · exact emit_keeps s _

theorem unitRelease_safe (s : State) (o : UnitOp) (w : Word) (bs : List Byte) (tag : Option Bool) (hs : Safe s) :
    Safe (s.unitRelease o w bs tag) := by
  unfold State.unitRelease
  dsimp only
  repeat' split
  · exact (sendClosing_keeps _ _ _ _ _ _ _ _ _).safe hs
  · exact hs
  · exact (unitWrite_moves s _ bs).safe hs
  · exact hs
  · exact setHomeTag_safe _ _ _ (writeHome_safe _ _ _ ((mergeWord_moves s _).safe hs))

/-- Whatever a unit does, memory keeps its canonical form. -/
theorem unitPerform_safe (s : State) (o : UnitOp) (hs : Safe s) : Safe (s.unitPerform o) := by
  rw [State.unitPerform]
  repeat' split
  · exact (unitSend_keeps s _ _ _ _ _).safe hs
  · exact (unitWrite_moves s _ _).safe hs
  · exact hs
  · exact unitRelease_safe s o _ _ _ hs
  · exact decrement_safe s _ _ hs
  · exact replayDecrement_safe s _ _ _ _ hs
  · exact (completionSpark_keeps s _ _ _).safe hs
  · exact hs
  · exact (tellStoker_keeps s _ _ _ _ _).safe hs

theorem unitDo_safe (s : State) (o : UnitOp) (hs : Safe s) : Safe (s.unitDo o) := by
  rw [State.unitDo]; split
  · exact unitPerform_safe s o hs
  · exact hs

theorem safe_foldl {β : Type} (f : State → β → State) (hf : ∀ s b, Safe s → Safe (f s b)) (l : List β) (s : State) (hs : Safe s) :
    Safe (l.foldl f s) := by
  induction l generalizing s with
  | nil => exact hs
  | cons b r ih => exact ih _ (hf s b hs)

theorem unitWrites_safe (s : State) (lane : Word) (src : Nat) (unit : Bool) (w : Word) (bs : List Byte) (hs : Safe s) :
    Safe (s.unitWrites lane src unit w bs) := by
  rw [State.unitWrites]; split
  · exact unitDo_safe s _ hs
  · exact safe_foldl _ (fun s _ h => unitDo_safe s _ h) _ s hs

theorem deviceWrite_safe (s : State) (h : Nat) (lane w : Word) (bs : List Byte) (hs : Safe s) : Safe (s.deviceWrite h lane w bs) :=
  unitWrites_safe s lane _ true w bs hs

theorem deviceDo_safe (s : State) (h : Nat) (lane : Word) (k : UnitKind) (hs : Safe s) : Safe (s.deviceDo h lane k) := unitDo_safe s _ hs

theorem writeRecord_safe (s : State) (slot cause flags : Nat) (addr info : Word) (h : Safe s) :
    Safe (s.writeRecord slot cause flags addr info).1 := by
  rw [State.writeRecord]
  split
  · exact h
  · dsimp only
    have hm := fun w v => (unitMerge_moves (s.unitMerge w) v).safe ((unitMerge_moves s w).safe h)
    split
    · exact safe_of_eq (deviceDo_safe _ _ _ _ (deviceWrite_safe _ _ _ _ _ (hm _ _))) rfl rfl
    · exact safe_of_eq (deviceWrite_safe _ _ _ _ _ (deviceWrite_safe _ _ _ _ _ (hm _ _))) rfl rfl

theorem afterRecord_safe (s : State) (h : Nat) (dom : Option Word) (at_ : Word) (to_ : Nat × Nat) (w0 w1 w2 : Word) (hs : Safe s) :
    Safe (s.afterRecord h dom at_ to_ w0 w1 w2) := by
  unfold State.afterRecord; split
  · exact (tellStoker_keeps s _ _ _ _ _).safe hs
  · dsimp only
    split
    · exact deviceDo_safe _ _ _ _ (deviceDo_safe _ _ _ _ hs)
    · exact deviceDo_safe _ _ _ _ hs

theorem stopSlot_safe (s : State) (slot cause : Nat) (double : Bool) (addr info : Word) (h : Safe s) :
    Safe (s.stopSlot slot cause double addr info) := by
  rw [State.stopSlot]
  dsimp only
  have hw := writeRecord_safe (s.updSlot slot (fun p => { p with mode := .stopped })) slot cause
    ((if double then 1 else 0) + (if (s.slot slot).ember then 2 else 0) + (if (s.slot slot).priv then 4 else 0)) addr info h
  split
  · exact hw
  · exact afterRecord_safe _ _ _ _ _ _ _ _ hw

/-! ## Exceptions (R96, R105, R106) -/

/-- The burn and the frame of a slot that takes a trap end; nothing else of the state changes. -/
theorem leaveWork_cases (s : State) : s.leaveWork = (s.upd Slot.endBurn).dropFrame s.cur ∨
    s.leaveWork = s.updCore (coreOf s.cur) (fun c => { c with repfQueue := c.repfQueue.filter (fun k => k != s.cur) }) := by
  rw [State.leaveWork]; split
  · exact .inl rfl
  · exact .inr rfl

theorem leaveWork_safe (s : State) (h : Safe s) : Safe s.leaveWork := by
  rcases leaveWork_cases s with e | e <;> rw [e] <;> exact h

/-- A trap waits for the fills into x12 to x15, stops a slot that is already in a trap handler, or is taken. -/
theorem trap_cases (s : State) (t : Trap) :
    (s.me.topQuiet = false ∧ s.trap t = s.leaveWork.upd (fun p => { p with trapWait := some t })) ∨
    (s.me.topQuiet = true ∧ s.leaveWork.me.traph = true ∧ s.trap t =
      (s.leaveWork.upd (fun p => { p with trapWait := none, remoteTag := none })).stopSlot s.leaveWork.cur t.cause true t.eaddr t.einfo) ∨
    (s.me.topQuiet = true ∧ s.leaveWork.me.traph = false ∧ s.trap t = s.leaveWork.upd (fun p => p.enterTrap t)) := by
  cases hq : s.me.topQuiet with
  | false => exact .inl ⟨rfl, by simp [State.trap, hq]⟩
  | true =>
    cases ht : s.leaveWork.me.traph with
    | true => exact .inr (.inl ⟨rfl, rfl, by simp [State.trap, State.enterTrap, hq, ht]⟩)
    | false => exact .inr (.inr ⟨rfl, rfl, by simp [State.trap, State.enterTrap, hq, ht]⟩)

theorem trap_safe (s : State) (t : Trap) (h : Safe s) : Safe (s.trap t) := by
  rcases trap_cases s t with ⟨-, e⟩ | ⟨-, -, e⟩ | ⟨-, -, e⟩
  · rw [e]; exact safe_of_eq (leaveWork_safe s h) rfl rfl
  · rw [e]; exact stopSlot_safe _ _ _ _ _ _ (safe_of_eq (leaveWork_safe s h) rfl rfl)
  · rw [e]; exact safe_of_eq (leaveWork_safe s h) rfl rfl

theorem freezeFrame_safe (s : State) (cause : Nat) (einfo : Word) (h : Safe s) : Safe (s.freezeFrame cause einfo) := by
  rw [State.freezeFrame]; split <;> exact h

theorem raise_outside (s : State) (cause : Nat) (eaddr einfo : Word) (h : s.inFrame = false) :
    s.raise cause eaddr einfo = s.trap ⟨cause, s.me.pc, eaddr, einfo⟩ := by simp [State.raise, h]

theorem raise_inFrame (s : State) (cause : Nat) (eaddr einfo : Word) (h : s.inFrame = true) :
    s.raise cause eaddr einfo = s.freezeFrame cause einfo := by simp [State.raise, h]

theorem raise_safe (s : State) (cause : Nat) (eaddr einfo : Word) (h : Safe s) : Safe (s.raise cause eaddr einfo) := by
  rw [State.raise]; split
  · exact freezeFrame_safe s cause einfo h
  · exact trap_safe s _ h

theorem ill_safe (s : State) (i : Instr) (h : Safe s) : Safe (s.ill i) := raise_safe s _ _ _ h
theorem privFault_safe (s : State) (i : Instr) (h : Safe s) : Safe (s.privFault i) := raise_safe s _ _ _ h
theorem parkOn_safe (s : State) (r : ParkReason) (h : Safe s) : Safe (s.parkOn r) := h

theorem pageFault_safe (s : State) (acc : Access) (r va : Nat) (h : Safe s) : Safe (s.pageFault acc r va) :=
  safe_of_eq ((tellStoker_keeps s _ _ _ _ _).safe h) rfl rfl

/-- An instruction keeps the canonical form of memory if its own effect does. -/
theorem gate_safe (i : Instr) (s : State) (body : State → State) (h : Safe s) (hb : s.ready i = true → Safe (body s)) : Safe (gate i s body) := by
  cases hr : s.ready i with
  | true => rw [gate_ready i s body hr]; exact hb hr
  | false =>
    rcases gate_stops i s body hr with e | e | e | ⟨r, -, e⟩
    · rw [e]; exact ill_safe s i h
    · rw [e]; exact privFault_safe s i h
    · rw [e]; exact h
    · rw [e]; exact h

theorem access_safe (s : State) (acc : Access) (k : State → List Piece → State) (h : Safe s) (hk : ∀ t ps, Safe t → Safe (k t ps)) :
    Safe (s.access acc k) := by
  obtain ⟨t, hm, ⟨c, -, e⟩ | ⟨r, va, -, e⟩ | ⟨ps, -, -, e⟩ | ⟨ps, p, c, l, -, -, e⟩⟩ := access_cases s acc k
  · rw [e]; exact raise_safe t c _ _ (hm.safe h)
  · rw [e]; exact pageFault_safe t acc r va (hm.safe h)
  · rw [e]; exact hk t ps (hm.safe h)
  · rw [e]; split
    · exact safe_of_eq (hm.safe h) rfl rfl
    · exact hm.safe h

theorem enter_safe (s : State) (acc : Access) (remote : Bool) (e : SbEntry) (k : State → State) (h : Safe s) (hk : ∀ t, Safe t → Safe (k t)) :
    Safe (s.enter acc remote e k) := by
  rcases enter_cases s acc remote e k with ⟨-, -, e1⟩ | ⟨-, -, -, e1⟩ | ⟨-, -, e1⟩ | e1
  · rw [e1]; exact raise_safe s _ _ _ h
  · rw [e1]; exact h
  · rw [e1]; exact h
  · rw [e1]; exact hk _ (safe_of_eq h rfl rfl)

/-- A store keeps the canonical form. -/
theorem store_safe (s : State) (acc : Access) (bs : List Byte) (rel : Option Scope) (h : Safe s) : Safe (s.store acc bs rel) :=
  access_safe s acc _ h (fun t _ ht => enter_safe t acc _ _ _ ht advance_safe)

end Sys2Proof.Machine
end

