-- ==== Sys2Proof/Laws/Areas.lean ====
section
/-! SUPPORT. The operations that write whole areas of home memory, sends to other packages, and arriving writes: each keeps the
canonical form. -/
namespace Sys2Proof.Machine

theorem outside_wf (m : List Host.Cell) (a n : Nat) (h : memoryWf m = true) : memoryWf (outside m a n) = true := Table.wf_filter _ _ m h

/-! ## Units and areas (R36, R198, R255) -/

theorem slotWrite_safe (s : State) (k : Nat) (w : Word) (bs : List Byte) (h : Safe s) : Safe (s.slotWrite k w bs) :=
  unitWrites_safe s _ k false w bs h

theorem writeSparse_safe (s : State) (k : Nat) (w : Word) (n : Nat) (cells : List Host.Cell) (h : Safe s) :
    Safe (s.writeSparse k w n cells) := by
  rw [State.writeSparse]; split
  · dsimp only
    split
    · exact ⟨Table.wf_foldl_set unlisted (fun e : Host.Cell => globalLocal w + e.1) (fun e => e.2) cells _ (outside_wf _ _ n h.1), h.2⟩
    · exact h
  · exact slotWrite_safe s k _ _ h

theorem saveScratch_safe (s : State) (k core : Nat) (sp : Word) (h : Safe s) : Safe (s.saveScratch k core sp) := by
  unfold State.saveScratch
  refine safe_foldl _ (fun s g hs => ?_) _ s h
  exact slotWrite_safe _ k _ _ (writeSparse_safe s k _ _ _ hs)

theorem spillTiles_safe (s : State) (k core : Nat) (area : Word) (h : Safe s) : Safe (s.spillTiles k core area) := by
  unfold State.spillTiles
  refine safe_foldl _ (fun s t hs => ?_) _ s h
  exact writeSparse_safe s _ _ _ _ hs

theorem spill_safe (s : State) (k core : Nat) (h : Safe s) : Safe (s.spill k core) := by
  rw [State.spill]; split
  · exact spillTiles_safe s k core _ h
  · exact h

theorem clearGranule_safe (s : State) (core g : Nat) (h : Safe s) : Safe (s.clearGranule core g) :=
  ⟨outside_wf _ _ _ h.1, Table.wf_filter true _ s.tags h.2⟩

theorem restoreTags_safe (s : State) (a : Nat) (ws : List Nat) (h : Safe s) : Safe (s.restoreTags a ws) :=
  safe_foldl _ (fun s w hs => by
    split
    · exact hs
    · exact setHomeTag_safe s _ false hs) _ s h

theorem poolTagsFull_safe (s : State) (core : Nat) (h : Safe s) : Safe (s.poolTagsFull core) := ⟨h.1, Table.wf_filter true _ s.tags h.2⟩

/-! ## Arriving writes (R328, R355) -/

theorem applyBlock_safe (s : State) (f : WriteFlit) (h : Safe s) : Safe (s.applyBlock f) := by
  rw [State.applyBlock]; split
  · exact (emit_keeps s _).safe h
  · refine ⟨?_, h.2⟩
    have hf : ∀ (l : List Nat) (m : List Host.Cell), memoryWf m = true →
        memoryWf (l.foldl (fun m i => if bitOf f.mask i then Table.set unlisted m (f.block + i) ((f.bytes[i]?).getD 0) else m) m) = true := by
      intro l
      induction l with
      | nil => exact fun m hm => hm
      | cons i r ih =>
        intro m hm
        refine ih _ ?_
        dsimp only
        split
        · exact Table.wf_set unlisted m _ _ hm
        · exact hm
    exact hf _ _ h.1

end Sys2Proof.Machine
end

