-- ==== Sys2Proof/Laws/PerInstr.lean ====
section
/-! SUPPORT. One lemma per instruction: its word, where it has one, is a number of 32 bits (03_encoding R41). -/
namespace Sys2Proof.Laws.Fits

/-- R41: every instruction is one 32-bit word. -/
def Statement (i : Instr) : Prop := ∀ w : Nat, encode i = some w → w < 2 ^ 32

theorem bit_lt (b : Bool) : bit b < 2 := by cases b <;> decide

theorem add (d : Reg) (a : Reg) (b : Reg) (sz : Width) : Statement (.add d a b sz) := by
  intro w h; cases h; have h0 := d.isLt; have h1 := a.isLt; have h2 := b.isLt; have h3 := sz.code_lt; simp only [pack]; omega
theorem sub (d : Reg) (a : Reg) (b : Reg) (sz : Width) : Statement (.sub d a b sz) := by
  intro w h; cases h; have h0 := d.isLt; have h1 := a.isLt; have h2 := b.isLt; have h3 := sz.code_lt; simp only [pack]; omega
theorem mul (d : Reg) (a : Reg) (b : Reg) (sz : Width) : Statement (.mul d a b sz) := by
  intro w h; cases h; have h0 := d.isLt; have h1 := a.isLt; have h2 := b.isLt; have h3 := sz.code_lt; simp only [pack]; omega
theorem mulh (d : Reg) (a : Reg) (b : Reg) (sz : Width) : Statement (.mulh d a b sz) := by
  intro w h; cases h; have h0 := d.isLt; have h1 := a.isLt; have h2 := b.isLt; have h3 := sz.code_lt; simp only [pack]; omega
theorem mulhn (d : Reg) (a : Reg) (b : Reg) (sz : Width) : Statement (.mulhn d a b sz) := by
  intro w h; cases h; have h0 := d.isLt; have h1 := a.isLt; have h2 := b.isLt; have h3 := sz.code_lt; simp only [pack]; omega
theorem div (d : Reg) (a : Reg) (b : Reg) (sz : Width) : Statement (.div d a b sz) := by
  intro w h; cases h; have h0 := d.isLt; have h1 := a.isLt; have h2 := b.isLt; have h3 := sz.code_lt; simp only [pack]; omega
theorem divn (d : Reg) (a : Reg) (b : Reg) (sz : Width) : Statement (.divn d a b sz) := by
  intro w h; cases h; have h0 := d.isLt; have h1 := a.isLt; have h2 := b.isLt; have h3 := sz.code_lt; simp only [pack]; omega
theorem rem (d : Reg) (a : Reg) (b : Reg) (sz : Width) : Statement (.rem d a b sz) := by
  intro w h; cases h; have h0 := d.isLt; have h1 := a.isLt; have h2 := b.isLt; have h3 := sz.code_lt; simp only [pack]; omega
theorem remn (d : Reg) (a : Reg) (b : Reg) (sz : Width) : Statement (.remn d a b sz) := by
  intro w h; cases h; have h0 := d.isLt; have h1 := a.isLt; have h2 := b.isLt; have h3 := sz.code_lt; simp only [pack]; omega
theorem and (d : Reg) (a : Reg) (b : Reg) (sz : Width) : Statement (.and d a b sz) := by
  intro w h; cases h; have h0 := d.isLt; have h1 := a.isLt; have h2 := b.isLt; have h3 := sz.code_lt; simp only [pack]; omega
theorem andn (d : Reg) (a : Reg) (b : Reg) (sz : Width) : Statement (.andn d a b sz) := by
  intro w h; cases h; have h0 := d.isLt; have h1 := a.isLt; have h2 := b.isLt; have h3 := sz.code_lt; simp only [pack]; omega
theorem or (d : Reg) (a : Reg) (b : Reg) (sz : Width) : Statement (.or d a b sz) := by
  intro w h; cases h; have h0 := d.isLt; have h1 := a.isLt; have h2 := b.isLt; have h3 := sz.code_lt; simp only [pack]; omega
theorem xor (d : Reg) (a : Reg) (b : Reg) (sz : Width) : Statement (.xor d a b sz) := by
  intro w h; cases h; have h0 := d.isLt; have h1 := a.isLt; have h2 := b.isLt; have h3 := sz.code_lt; simp only [pack]; omega
theorem shl (d : Reg) (a : Reg) (b : Reg) (sz : Width) : Statement (.shl d a b sz) := by
  intro w h; cases h; have h0 := d.isLt; have h1 := a.isLt; have h2 := b.isLt; have h3 := sz.code_lt; simp only [pack]; omega
theorem shr (d : Reg) (a : Reg) (b : Reg) (sz : Width) : Statement (.shr d a b sz) := by
  intro w h; cases h; have h0 := d.isLt; have h1 := a.isLt; have h2 := b.isLt; have h3 := sz.code_lt; simp only [pack]; omega
theorem sra (d : Reg) (a : Reg) (b : Reg) (sz : Width) : Statement (.sra d a b sz) := by
  intro w h; cases h; have h0 := d.isLt; have h1 := a.isLt; have h2 := b.isLt; have h3 := sz.code_lt; simp only [pack]; omega
theorem rol (d : Reg) (a : Reg) (b : Reg) (sz : Width) : Statement (.rol d a b sz) := by
  intro w h; cases h; have h0 := d.isLt; have h1 := a.isLt; have h2 := b.isLt; have h3 := sz.code_lt; simp only [pack]; omega
theorem ror (d : Reg) (a : Reg) (b : Reg) (sz : Width) : Statement (.ror d a b sz) := by
  intro w h; cases h; have h0 := d.isLt; have h1 := a.isLt; have h2 := b.isLt; have h3 := sz.code_lt; simp only [pack]; omega
theorem min (d : Reg) (a : Reg) (b : Reg) (sz : Width) : Statement (.min d a b sz) := by
  intro w h; cases h; have h0 := d.isLt; have h1 := a.isLt; have h2 := b.isLt; have h3 := sz.code_lt; simp only [pack]; omega
theorem max (d : Reg) (a : Reg) (b : Reg) (sz : Width) : Statement (.max d a b sz) := by
  intro w h; cases h; have h0 := d.isLt; have h1 := a.isLt; have h2 := b.isLt; have h3 := sz.code_lt; simp only [pack]; omega
theorem minn (d : Reg) (a : Reg) (b : Reg) (sz : Width) : Statement (.minn d a b sz) := by
  intro w h; cases h; have h0 := d.isLt; have h1 := a.isLt; have h2 := b.isLt; have h3 := sz.code_lt; simp only [pack]; omega
theorem maxn (d : Reg) (a : Reg) (b : Reg) (sz : Width) : Statement (.maxn d a b sz) := by
  intro w h; cases h; have h0 := d.isLt; have h1 := a.isLt; have h2 := b.isLt; have h3 := sz.code_lt; simp only [pack]; omega
theorem sel (d : Reg) (a : Reg) (b : Reg) : Statement (.sel d a b) := by
  intro w h; cases h; have h0 := d.isLt; have h1 := a.isLt; have h2 := b.isLt; simp only [pack]; omega
theorem cmpeq (d : Reg) (a : Reg) (b : Reg) (sz : Width) : Statement (.cmpeq d a b sz) := by
  intro w h; cases h; have h0 := d.isLt; have h1 := a.isLt; have h2 := b.isLt; have h3 := sz.code_lt; simp only [pack]; omega
theorem cmpne (d : Reg) (a : Reg) (b : Reg) (sz : Width) : Statement (.cmpne d a b sz) := by
  intro w h; cases h; have h0 := d.isLt; have h1 := a.isLt; have h2 := b.isLt; have h3 := sz.code_lt; simp only [pack]; omega
theorem cmplt (d : Reg) (a : Reg) (b : Reg) (sz : Width) : Statement (.cmplt d a b sz) := by
  intro w h; cases h; have h0 := d.isLt; have h1 := a.isLt; have h2 := b.isLt; have h3 := sz.code_lt; simp only [pack]; omega
theorem cmpltn (d : Reg) (a : Reg) (b : Reg) (sz : Width) : Statement (.cmpltn d a b sz) := by
  intro w h; cases h; have h0 := d.isLt; have h1 := a.isLt; have h2 := b.isLt; have h3 := sz.code_lt; simp only [pack]; omega
theorem cmple (d : Reg) (a : Reg) (b : Reg) (sz : Width) : Statement (.cmple d a b sz) := by
  intro w h; cases h; have h0 := d.isLt; have h1 := a.isLt; have h2 := b.isLt; have h3 := sz.code_lt; simp only [pack]; omega
theorem cmplen (d : Reg) (a : Reg) (b : Reg) (sz : Width) : Statement (.cmplen d a b sz) := by
  intro w h; cases h; have h0 := d.isLt; have h1 := a.isLt; have h2 := b.isLt; have h3 := sz.code_lt; simp only [pack]; omega
theorem abs (d : Reg) (a : Reg) (sz : Width) : Statement (.abs d a sz) := by
  intro w h; cases h; have h0 := d.isLt; have h1 := a.isLt; have h2 := sz.code_lt; simp only [pack]; omega
theorem neg (d : Reg) (a : Reg) (sz : Width) : Statement (.neg d a sz) := by
  intro w h; cases h; have h0 := d.isLt; have h1 := a.isLt; have h2 := sz.code_lt; simp only [pack]; omega
theorem clz (d : Reg) (a : Reg) (sz : Width) : Statement (.clz d a sz) := by
  intro w h; cases h; have h0 := d.isLt; have h1 := a.isLt; have h2 := sz.code_lt; simp only [pack]; omega
theorem ctz (d : Reg) (a : Reg) (sz : Width) : Statement (.ctz d a sz) := by
  intro w h; cases h; have h0 := d.isLt; have h1 := a.isLt; have h2 := sz.code_lt; simp only [pack]; omega
theorem popc (d : Reg) (a : Reg) (sz : Width) : Statement (.popc d a sz) := by
  intro w h; cases h; have h0 := d.isLt; have h1 := a.isLt; have h2 := sz.code_lt; simp only [pack]; omega
theorem brev (d : Reg) (a : Reg) (sz : Width) : Statement (.brev d a sz) := by
  intro w h; cases h; have h0 := d.isLt; have h1 := a.isLt; have h2 := sz.code_lt; simp only [pack]; omega
theorem bfx (d : Reg) (a : Reg) (b : Reg) : Statement (.bfx d a b) := by
  intro w h; cases h; have h0 := d.isLt; have h1 := a.isLt; have h2 := b.isLt; simp only [pack]; omega
theorem bfxs (d : Reg) (a : Reg) (b : Reg) : Statement (.bfxs d a b) := by
  intro w h; cases h; have h0 := d.isLt; have h1 := a.isLt; have h2 := b.isLt; simp only [pack]; omega
theorem bfi (d : Reg) (a : Reg) (b : Reg) : Statement (.bfi d a b) := by
  intro w h; cases h; have h0 := d.isLt; have h1 := a.isLt; have h2 := b.isLt; simp only [pack]; omega
theorem sext (d : Reg) (a : Reg) (sz : Width) : Statement (.sext d a sz) := by
  intro w h; cases h; have h0 := d.isLt; have h1 := a.isLt; have h2 := sz.code_lt; simp only [pack]; omega
theorem zext (d : Reg) (a : Reg) (sz : Width) : Statement (.zext d a sz) := by
  intro w h; cases h; have h0 := d.isLt; have h1 := a.isLt; have h2 := sz.code_lt; simp only [pack]; omega
theorem mov (d : Reg) (a : Reg) : Statement (.mov d a) := by
  intro w h; cases h; have h0 := d.isLt; have h1 := a.isLt; simp only [pack]; omega
theorem addi (d : Reg) (a : Reg) (imm : BitVec 18) : Statement (.addi d a imm) := by
  intro w h; cases h; have h0 := d.isLt; have h1 := a.isLt; have h2 := imm.isLt; simp only [pack]; omega
theorem andi (d : Reg) (a : Reg) (imm : BitVec 18) : Statement (.andi d a imm) := by
  intro w h; cases h; have h0 := d.isLt; have h1 := a.isLt; have h2 := imm.isLt; simp only [pack]; omega
theorem ori (d : Reg) (a : Reg) (imm : BitVec 18) : Statement (.ori d a imm) := by
  intro w h; cases h; have h0 := d.isLt; have h1 := a.isLt; have h2 := imm.isLt; simp only [pack]; omega
theorem xori (d : Reg) (a : Reg) (imm : BitVec 18) : Statement (.xori d a imm) := by
  intro w h; cases h; have h0 := d.isLt; have h1 := a.isLt; have h2 := imm.isLt; simp only [pack]; omega
theorem muli (d : Reg) (a : Reg) (imm : BitVec 18) : Statement (.muli d a imm) := by
  intro w h; cases h; have h0 := d.isLt; have h1 := a.isLt; have h2 := imm.isLt; simp only [pack]; omega
theorem shli (d : Reg) (a : Reg) (k : BitVec 6) : Statement (.shli d a k) := by
  intro w h; cases h; have h0 := d.isLt; have h1 := a.isLt; have h2 := k.isLt; simp only [pack]; omega
theorem shri (d : Reg) (a : Reg) (k : BitVec 6) : Statement (.shri d a k) := by
  intro w h; cases h; have h0 := d.isLt; have h1 := a.isLt; have h2 := k.isLt; simp only [pack]; omega
theorem srai (d : Reg) (a : Reg) (k : BitVec 6) : Statement (.srai d a k) := by
  intro w h; cases h; have h0 := d.isLt; have h1 := a.isLt; have h2 := k.isLt; simp only [pack]; omega
theorem cmpi (d : Reg) (a : Reg) (c : Cond) (m : BitVec 14) : Statement (.cmpi d a c m) := by
  intro w h; cases h; have h0 := d.isLt; have h1 := a.isLt; have h2 := m.isLt; have h3 := c.code_lt; simp only [pack]; omega
theorem movw (d : Reg) (hw : BitVec 2) (keep : Bool) (imm : BitVec 16) : Statement (.movw d hw keep imm) := by
  intro w h; cases h; have h0 := d.isLt; have h1 := hw.isLt; have h2 := imm.isLt; have h3 := bit_lt keep; simp only [pack]; omega
theorem lea (t : Reg) (a : Reg) (g : SegNo) (sz : MSize) (off : BitVec 10) : Statement (.lea t a g sz off) := by
  intro w h; cases h; have h0 := t.isLt; have h1 := a.isLt; have h2 := g.isLt; have h3 := off.isLt; have h4 := sz.code_lt; simp only [pack]; omega
theorem b (c : Cond) (a : Reg) (disp : BitVec 18) : Statement (.b c a disp) := by
  intro w h; cases h; have h0 := a.isLt; have h1 := disp.isLt; have h2 := c.code_lt; simp only [pack]; omega
theorem bc (c : Cond) (a : Reg) (b : Reg) (disp : BitVec 14) : Statement (.bc c a b disp) := by
  intro w h; cases h; have h0 := a.isLt; have h1 := b.isLt; have h2 := disp.isLt; have h3 := c.code_lt; simp only [pack]; omega
theorem loop (a : Reg) (disp : BitVec 18) : Statement (.loop a disp) := by
  intro w h; cases h; have h0 := a.isLt; have h1 := disp.isLt; simp only [pack]; omega
theorem call (disp : BitVec 26) : Statement (.call disp) := by
  intro w h; cases h; have h0 := disp.isLt; simp only [pack]; omega
theorem jr (a : Reg) : Statement (.jr a) := by
  intro w h; cases h; have h0 := a.isLt; simp only [pack]; omega
theorem ret : Statement (.ret) := by
  intro w h; cases h; simp only [pack]; omega
theorem callr (a : Reg) : Statement (.callr a) := by
  intro w h; cases h; have h0 := a.isLt; simp only [pack]; omega
theorem repf (n : BitVec 5) (len : BitVec 4) (dv : BitVec 5) (dx : BitVec 4) : Statement (.repf n len dv dx) := by
  intro w h; cases h; have h0 := n.isLt; have h1 := len.isLt; have h2 := dv.isLt; have h3 := dx.isLt; simp only [pack]; omega
theorem burn (h : Reg) (un : BitVec 2) (mn : BitVec 9) (mx : BitVec 11) : Statement (.burn h un mn mx) := by
  intro w h; cases h; have h0 := h.isLt; have h1 := un.isLt; have h2 := mn.isLt; have h3 := mx.isLt; simp only [pack]; omega
theorem burnr (h : Reg) (a : Reg) (b : Reg) : Statement (.burnr h a b) := by
  intro w h; cases h; have h0 := h.isLt; have h1 := a.isLt; have h2 := b.isLt; simp only [pack]; omega
theorem burnq (d : Reg) : Statement (.burnq d) := by
  intro w h; cases h; have h0 := d.isLt; simp only [pack]; omega
theorem burne : Statement (.burne) := by
  intro w h; cases h; simp only [pack]; omega
theorem ld (t : Reg) (a : Reg) (g : SegNo) (sz : MSize) (acq : Bool) (off : BitVec 10) : Statement (.ld t a g sz acq off) := by
  intro w h; cases h; have h0 := t.isLt; have h1 := a.isLt; have h2 := g.isLt; have h3 := off.isLt; have h4 := sz.code_lt; have h5 := bit_lt acq; simp only [pack]; omega
theorem ldn (t : Reg) (a : Reg) (g : SegNo) (sz : MSize) (acq : Bool) (off : BitVec 10) : Statement (.ldn t a g sz acq off) := by
  intro w h; cases h; have h0 := t.isLt; have h1 := a.isLt; have h2 := g.isLt; have h3 := off.isLt; have h4 := sz.code_lt; have h5 := bit_lt acq; simp only [pack]; omega
theorem st (t : Reg) (a : Reg) (g : SegNo) (sz : MSize) (rel : Bool) (off : BitVec 10) : Statement (.st t a g sz rel off) := by
  intro w h; cases h; have h0 := t.isLt; have h1 := a.isLt; have h2 := g.isLt; have h3 := off.isLt; have h4 := sz.code_lt; have h5 := bit_lt rel; simp only [pack]; omega
theorem ldv (v : VReg) (a : Reg) (g : SegNo) (sz : VSize) (acq : Bool) (off : BitVec 9) : Statement (.ldv v a g sz acq off) := by
  intro w h; cases h; have h0 := v.isLt; have h1 := a.isLt; have h2 := g.isLt; have h3 := off.isLt; have h4 := sz.code_lt; have h5 := bit_lt acq; simp only [pack]; omega
theorem stv (v : VReg) (a : Reg) (g : SegNo) (sz : VSize) (rel : Bool) (off : BitVec 9) : Statement (.stv v a g sz rel off) := by
  intro w h; cases h; have h0 := v.isLt; have h1 := a.isLt; have h2 := g.isLt; have h3 := off.isLt; have h4 := sz.code_lt; have h5 := bit_lt rel; simp only [pack]; omega
theorem ldvg (v : VReg) (i : VReg) (b : Reg) (g : SegNo) (ty : Ty) (mk : Bool) : Statement (.ldvg v i b g ty mk) := by
  intro w h; cases h; have h0 := v.isLt; have h1 := i.isLt; have h2 := b.isLt; have h3 := g.isLt; have h4 := ty.code_lt; have h5 := bit_lt mk; simp only [pack]; omega
theorem stvs (v : VReg) (i : VReg) (b : Reg) (g : SegNo) (ty : Ty) (mk : Bool) : Statement (.stvs v i b g ty mk) := by
  intro w h; cases h; have h0 := v.isLt; have h1 := i.isLt; have h2 := b.isLt; have h3 := g.isLt; have h4 := ty.code_lt; have h5 := bit_lt mk; simp only [pack]; omega
theorem ldf (t : Reg) (a : Reg) (g : SegNo) (sc : Scope) : Statement (.ldf t a g sc) := by
  intro w h; cases h; have h0 := t.isLt; have h1 := a.isLt; have h2 := g.isLt; have h3 := sc.code_lt; simp only [pack]; omega
theorem ldfe (t : Reg) (a : Reg) (g : SegNo) (sc : Scope) : Statement (.ldfe t a g sc) := by
  intro w h; cases h; have h0 := t.isLt; have h1 := a.isLt; have h2 := g.isLt; have h3 := sc.code_lt; simp only [pack]; omega
theorem stf (t : Reg) (a : Reg) (g : SegNo) (sc : Scope) : Statement (.stf t a g sc) := by
  intro w h; cases h; have h0 := t.isLt; have h1 := a.isLt; have h2 := g.isLt; have h3 := sc.code_lt; simp only [pack]; omega
theorem stef (t : Reg) (a : Reg) (g : SegNo) (sc : Scope) : Statement (.stef t a g sc) := by
  intro w h; cases h; have h0 := t.isLt; have h1 := a.isLt; have h2 := g.isLt; have h3 := sc.code_lt; simp only [pack]; omega
theorem tagrd (t : Reg) (a : Reg) (g : SegNo) (sc : Scope) : Statement (.tagrd t a g sc) := by
  intro w h; cases h; have h0 := t.isLt; have h1 := a.isLt; have h2 := g.isLt; have h3 := sc.code_lt; simp only [pack]; omega
theorem tagset (v : Reg) (a : Reg) (g : SegNo) (sc : Scope) : Statement (.tagset v a g sc) := by
  intro w h; cases h; have h0 := v.isLt; have h1 := a.isLt; have h2 := g.isLt; have h3 := sc.code_lt; simp only [pack]; omega
theorem aadd (t : Reg) (a : Reg) (g : SegNo) (b : Reg) (w : Bool) (ret : Bool) (o : MemOrd) (sc : Scope) : Statement (.aadd t a g b w ret o sc) := by
  intro w h; cases h; have h0 := t.isLt; have h1 := a.isLt; have h2 := g.isLt; have h3 := b.isLt; have h4 := o.code_lt; have h5 := sc.code_lt; have h6 := bit_lt w; have h7 := bit_lt ret; simp only [pack]; omega
theorem aand (t : Reg) (a : Reg) (g : SegNo) (b : Reg) (w : Bool) (ret : Bool) (o : MemOrd) (sc : Scope) : Statement (.aand t a g b w ret o sc) := by
  intro w h; cases h; have h0 := t.isLt; have h1 := a.isLt; have h2 := g.isLt; have h3 := b.isLt; have h4 := o.code_lt; have h5 := sc.code_lt; have h6 := bit_lt w; have h7 := bit_lt ret; simp only [pack]; omega
theorem aor (t : Reg) (a : Reg) (g : SegNo) (b : Reg) (w : Bool) (ret : Bool) (o : MemOrd) (sc : Scope) : Statement (.aor t a g b w ret o sc) := by
  intro w h; cases h; have h0 := t.isLt; have h1 := a.isLt; have h2 := g.isLt; have h3 := b.isLt; have h4 := o.code_lt; have h5 := sc.code_lt; have h6 := bit_lt w; have h7 := bit_lt ret; simp only [pack]; omega
theorem axor (t : Reg) (a : Reg) (g : SegNo) (b : Reg) (w : Bool) (ret : Bool) (o : MemOrd) (sc : Scope) : Statement (.axor t a g b w ret o sc) := by
  intro w h; cases h; have h0 := t.isLt; have h1 := a.isLt; have h2 := g.isLt; have h3 := b.isLt; have h4 := o.code_lt; have h5 := sc.code_lt; have h6 := bit_lt w; have h7 := bit_lt ret; simp only [pack]; omega
theorem amin (t : Reg) (a : Reg) (g : SegNo) (b : Reg) (w : Bool) (ret : Bool) (o : MemOrd) (sc : Scope) : Statement (.amin t a g b w ret o sc) := by
  intro w h; cases h; have h0 := t.isLt; have h1 := a.isLt; have h2 := g.isLt; have h3 := b.isLt; have h4 := o.code_lt; have h5 := sc.code_lt; have h6 := bit_lt w; have h7 := bit_lt ret; simp only [pack]; omega
theorem amax (t : Reg) (a : Reg) (g : SegNo) (b : Reg) (w : Bool) (ret : Bool) (o : MemOrd) (sc : Scope) : Statement (.amax t a g b w ret o sc) := by
  intro w h; cases h; have h0 := t.isLt; have h1 := a.isLt; have h2 := g.isLt; have h3 := b.isLt; have h4 := o.code_lt; have h5 := sc.code_lt; have h6 := bit_lt w; have h7 := bit_lt ret; simp only [pack]; omega
theorem aminn (t : Reg) (a : Reg) (g : SegNo) (b : Reg) (w : Bool) (ret : Bool) (o : MemOrd) (sc : Scope) : Statement (.aminn t a g b w ret o sc) := by
  intro w h; cases h; have h0 := t.isLt; have h1 := a.isLt; have h2 := g.isLt; have h3 := b.isLt; have h4 := o.code_lt; have h5 := sc.code_lt; have h6 := bit_lt w; have h7 := bit_lt ret; simp only [pack]; omega
theorem amaxn (t : Reg) (a : Reg) (g : SegNo) (b : Reg) (w : Bool) (ret : Bool) (o : MemOrd) (sc : Scope) : Statement (.amaxn t a g b w ret o sc) := by
  intro w h; cases h; have h0 := t.isLt; have h1 := a.isLt; have h2 := g.isLt; have h3 := b.isLt; have h4 := o.code_lt; have h5 := sc.code_lt; have h6 := bit_lt w; have h7 := bit_lt ret; simp only [pack]; omega
theorem axch (t : Reg) (a : Reg) (g : SegNo) (b : Reg) (w : Bool) (ret : Bool) (o : MemOrd) (sc : Scope) : Statement (.axch t a g b w ret o sc) := by
  intro w h; cases h; have h0 := t.isLt; have h1 := a.isLt; have h2 := g.isLt; have h3 := b.isLt; have h4 := o.code_lt; have h5 := sc.code_lt; have h6 := bit_lt w; have h7 := bit_lt ret; simp only [pack]; omega
theorem afadd (t : Reg) (a : Reg) (g : SegNo) (b : Reg) (w : Bool) (ret : Bool) (o : MemOrd) (sc : Scope) : Statement (.afadd t a g b w ret o sc) := by
  intro w h; cases h; have h0 := t.isLt; have h1 := a.isLt; have h2 := g.isLt; have h3 := b.isLt; have h4 := o.code_lt; have h5 := sc.code_lt; have h6 := bit_lt w; have h7 := bit_lt ret; simp only [pack]; omega
theorem acas (t : Reg) (a : Reg) (g : SegNo) (b : Reg) (w : Bool) (o : MemOrd) (sc : Scope) : Statement (.acas t a g b w o sc) := by
  intro w h; cases h; have h0 := t.isLt; have h1 := a.isLt; have h2 := g.isLt; have h3 := b.isLt; have h4 := o.code_lt; have h5 := sc.code_lt; have h6 := bit_lt w; simp only [pack]; omega
theorem ahx (t : Reg) (a : Reg) (g : SegNo) (b : Reg) (ret : Bool) (o : MemOrd) (sc : Scope) : Statement (.ahx t a g b ret o sc) := by
  intro w h; cases h; have h0 := t.isLt; have h1 := a.isLt; have h2 := g.isLt; have h3 := b.isLt; have h4 := o.code_lt; have h5 := sc.code_lt; have h6 := bit_lt ret; simp only [pack]; omega
theorem dredfF64 (a : Reg) (g : SegNo) (b : Reg) (sc : Scope) : Statement (.dredfF64 a g b sc) := by
  intro w h; cases h; have h0 := a.isLt; have h1 := g.isLt; have h2 := b.isLt; have h3 := sc.code_lt; simp only [pack]; omega
theorem dredfF32 (a : Reg) (g : SegNo) (b : Reg) (sc : Scope) : Statement (.dredfF32 a g b sc) := by
  intro w h; cases h; have h0 := a.isLt; have h1 := g.isLt; have h2 := b.isLt; have h3 := sc.code_lt; simp only [pack]; omega
theorem dcloseF64 (a : Reg) (g : SegNo) (sc : Scope) : Statement (.dcloseF64 a g sc) := by
  intro w h; cases h; have h0 := a.isLt; have h1 := g.isLt; have h2 := sc.code_lt; simp only [pack]; omega
theorem dcloseF32 (a : Reg) (g : SegNo) (sc : Scope) : Statement (.dcloseF32 a g sc) := by
  intro w h; cases h; have h0 := a.isLt; have h1 := g.isLt; have h2 := sc.code_lt; simp only [pack]; omega
theorem fence (o : MemOrd) (sc : Scope) : Statement (.fence o sc) := by
  intro w h; cases h; have h0 := o.code_lt; have h1 := sc.code_lt; simp only [pack]; omega
theorem fences (t : Reg) (sc : Scope) : Statement (.fences t sc) := by
  intro w h; cases h; have h0 := t.isLt; have h1 := sc.code_lt; simp only [pack]; omega
theorem dcwb (a : Reg) (g : SegNo) (sc : Scope) : Statement (.dcwb a g sc) := by
  intro w h; cases h; have h0 := a.isLt; have h1 := g.isLt; have h2 := sc.code_lt; simp only [pack]; omega
theorem pf (a : Reg) (g : SegNo) (sc : Scope) : Statement (.pf a g sc) := by
  intro w h; cases h; have h0 := a.isLt; have h1 := g.isLt; have h2 := sc.code_lt; simp only [pack]; omega
theorem putn (d : Reg) (a : Reg) (core : BitVec 4) (slot : BitVec 4) : Statement (.putn d a core slot) := by
  intro w h; cases h; have h0 := d.isLt; have h1 := a.isLt; have h2 := core.isLt; have h3 := slot.isLt; simp only [pack]; omega
theorem xclr (d : Reg) : Statement (.xclr d) := by
  intro w h; cases h; have h0 := d.isLt; simp only [pack]; omega
theorem xpres (d : Reg) (a : Reg) : Statement (.xpres d a) := by
  intro w h; cases h; have h0 := d.isLt; have h1 := a.isLt; simp only [pack]; omega
theorem send (d : Reg) (a : Reg) (b : Reg) (phys : Bool) (spark : Bool) (n : BitVec 3) : Statement (.send d a b phys spark n) := by
  intro w h; cases h; have h0 := d.isLt; have h1 := a.isLt; have h2 := b.isLt; have h3 := n.isLt; have h4 := bit_lt phys; have h5 := bit_lt spark; simp only [pack]; omega
theorem recv (d : Reg) (a : Reg) (b : Reg) (n : BitVec 3) : Statement (.recv d a b n) := by
  intro w h; cases h; have h0 := d.isLt; have h1 := a.isLt; have h2 := b.isLt; have h3 := n.isLt; simp only [pack]; omega
theorem spkret : Statement (.spkret) := by
  intro w h; cases h; simp only [pack]; omega
theorem spawn (d : Reg) (a : Reg) (b : Reg) (ember : Bool) (s : BitVec 4) : Statement (.spawn d a b ember s) := by
  intro w h; cases h; have h0 := d.isLt; have h1 := a.isLt; have h2 := b.isLt; have h3 := s.isLt; have h4 := bit_lt ember; simp only [pack]; omega
theorem reap (d : Reg) (s : BitVec 4) : Statement (.reap d s) := by
  intro w h; cases h; have h0 := d.isLt; have h1 := s.isLt; simp only [pack]; omega
theorem launch (d : Reg) (a : Reg) (b : Reg) (graph : Bool) : Statement (.launch d a b graph) := by
  intro w h; cases h; have h0 := d.isLt; have h1 := a.isLt; have h2 := b.isLt; have h3 := bit_lt graph; simp only [pack]; omega
theorem exit : Statement (.exit) := by
  intro w h; cases h; simp only [pack]; omega
theorem migr (d : Reg) (a : Reg) : Statement (.migr d a) := by
  intro w h; cases h; have h0 := d.isLt; have h1 := a.isLt; simp only [pack]; omega
theorem dtask (d : Reg) : Statement (.dtask d) := by
  intro w h; cases h; have h0 := d.isLt; simp only [pack]; omega
theorem slotq (d : Reg) (a : Reg) : Statement (.slotq d a) := by
  intro w h; cases h; have h0 := d.isLt; have h1 := a.isLt; simp only [pack]; omega
theorem nop : Statement (.nop) := by
  intro w h; cases h; simp only [pack]; omega
theorem halt : Statement (.halt) := by
  intro w h; cases h; simp only [pack]; omega
theorem wfi : Statement (.wfi) := by
  intro w h; cases h; simp only [pack]; omega
theorem yield : Statement (.yield) := by
  intro w h; cases h; simp only [pack]; omega
theorem isync : Statement (.isync) := by
  intro w h; cases h; simp only [pack]; omega
theorem eret : Statement (.eret) := by
  intro w h; cases h; simp only [pack]; omega
theorem uiret : Statement (.uiret) := by
  intro w h; cases h; simp only [pack]; omega
theorem trap (code : BitVec 12) : Statement (.trap code) := by
  intro w h; cases h; have h0 := code.isLt; simp only [pack]; omega
theorem brk (code : BitVec 12) : Statement (.brk code) := by
  intro w h; cases h; have h0 := code.isLt; simp only [pack]; omega
theorem mfc (d : Reg) (crn : BitVec 12) : Statement (.mfc d crn) := by
  intro w h; cases h; have h0 := d.isLt; have h1 := crn.isLt; simp only [pack]; omega
theorem mtc (a : Reg) (crn : BitVec 12) : Statement (.mtc a crn) := by
  intro w h; cases h; have h0 := a.isLt; have h1 := crn.isLt; simp only [pack]; omega
theorem segld (b : Reg) (a : Reg) (n : SegNo) : Statement (.segld b a n) := by
  intro w h; cases h; have h0 := b.isLt; have h1 := a.isLt; have h2 := n.isLt; simp only [pack]; omega
theorem segrd (d : Reg) (p : Bool) (n : SegNo) : Statement (.segrd d p n) := by
  intro w h; cases h; have h0 := d.isLt; have h1 := n.isLt; have h2 := bit_lt p; simp only [pack]; omega
theorem tlbi (a : Reg) (k : BitVec 2) (sc : Scope) : Statement (.tlbi a k sc) := by
  intro w h; cases h; have h0 := a.isLt; have h1 := k.isLt; have h2 := sc.code_lt; simp only [pack]; omega
theorem vadd (d : VReg) (a : VReg) (b : VReg) (ty : Ty) (mk : Bool) : Statement (.vadd d a b ty mk) := by
  intro w h; cases h; have h0 := d.isLt; have h1 := a.isLt; have h2 := b.isLt; have h3 := ty.code_lt; have h4 := bit_lt mk; simp only [pack]; omega
theorem vsub (d : VReg) (a : VReg) (b : VReg) (ty : Ty) (mk : Bool) : Statement (.vsub d a b ty mk) := by
  intro w h; cases h; have h0 := d.isLt; have h1 := a.isLt; have h2 := b.isLt; have h3 := ty.code_lt; have h4 := bit_lt mk; simp only [pack]; omega
theorem vmul (d : VReg) (a : VReg) (b : VReg) (ty : Ty) (mk : Bool) : Statement (.vmul d a b ty mk) := by
  intro w h; cases h; have h0 := d.isLt; have h1 := a.isLt; have h2 := b.isLt; have h3 := ty.code_lt; have h4 := bit_lt mk; simp only [pack]; omega
theorem vmulh (d : VReg) (a : VReg) (b : VReg) (ty : Ty) (mk : Bool) : Statement (.vmulh d a b ty mk) := by
  intro w h; cases h; have h0 := d.isLt; have h1 := a.isLt; have h2 := b.isLt; have h3 := ty.code_lt; have h4 := bit_lt mk; simp only [pack]; omega
theorem vadds (d : VReg) (a : VReg) (b : VReg) (ty : Ty) (mk : Bool) : Statement (.vadds d a b ty mk) := by
  intro w h; cases h; have h0 := d.isLt; have h1 := a.isLt; have h2 := b.isLt; have h3 := ty.code_lt; have h4 := bit_lt mk; simp only [pack]; omega
theorem vsubs (d : VReg) (a : VReg) (b : VReg) (ty : Ty) (mk : Bool) : Statement (.vsubs d a b ty mk) := by
  intro w h; cases h; have h0 := d.isLt; have h1 := a.isLt; have h2 := b.isLt; have h3 := ty.code_lt; have h4 := bit_lt mk; simp only [pack]; omega
theorem vmin (d : VReg) (a : VReg) (b : VReg) (ty : Ty) (mk : Bool) : Statement (.vmin d a b ty mk) := by
  intro w h; cases h; have h0 := d.isLt; have h1 := a.isLt; have h2 := b.isLt; have h3 := ty.code_lt; have h4 := bit_lt mk; simp only [pack]; omega
theorem vmax (d : VReg) (a : VReg) (b : VReg) (ty : Ty) (mk : Bool) : Statement (.vmax d a b ty mk) := by
  intro w h; cases h; have h0 := d.isLt; have h1 := a.isLt; have h2 := b.isLt; have h3 := ty.code_lt; have h4 := bit_lt mk; simp only [pack]; omega
theorem vand (d : VReg) (a : VReg) (b : VReg) (ty : Ty) (mk : Bool) : Statement (.vand d a b ty mk) := by
  intro w h; cases h; have h0 := d.isLt; have h1 := a.isLt; have h2 := b.isLt; have h3 := ty.code_lt; have h4 := bit_lt mk; simp only [pack]; omega
theorem vor (d : VReg) (a : VReg) (b : VReg) (ty : Ty) (mk : Bool) : Statement (.vor d a b ty mk) := by
  intro w h; cases h; have h0 := d.isLt; have h1 := a.isLt; have h2 := b.isLt; have h3 := ty.code_lt; have h4 := bit_lt mk; simp only [pack]; omega
theorem vxor (d : VReg) (a : VReg) (b : VReg) (ty : Ty) (mk : Bool) : Statement (.vxor d a b ty mk) := by
  intro w h; cases h; have h0 := d.isLt; have h1 := a.isLt; have h2 := b.isLt; have h3 := ty.code_lt; have h4 := bit_lt mk; simp only [pack]; omega
theorem vshl (d : VReg) (a : VReg) (b : VReg) (ty : Ty) (mk : Bool) : Statement (.vshl d a b ty mk) := by
  intro w h; cases h; have h0 := d.isLt; have h1 := a.isLt; have h2 := b.isLt; have h3 := ty.code_lt; have h4 := bit_lt mk; simp only [pack]; omega
theorem vshr (d : VReg) (a : VReg) (b : VReg) (ty : Ty) (mk : Bool) : Statement (.vshr d a b ty mk) := by
  intro w h; cases h; have h0 := d.isLt; have h1 := a.isLt; have h2 := b.isLt; have h3 := ty.code_lt; have h4 := bit_lt mk; simp only [pack]; omega
theorem vsra (d : VReg) (a : VReg) (b : VReg) (ty : Ty) (mk : Bool) : Statement (.vsra d a b ty mk) := by
  intro w h; cases h; have h0 := d.isLt; have h1 := a.isLt; have h2 := b.isLt; have h3 := ty.code_lt; have h4 := bit_lt mk; simp only [pack]; omega
theorem vabs (d : VReg) (a : VReg) (ty : Ty) (mk : Bool) : Statement (.vabs d a ty mk) := by
  intro w h; cases h; have h0 := d.isLt; have h1 := a.isLt; have h2 := ty.code_lt; have h3 := bit_lt mk; simp only [pack]; omega
theorem vfadd (d : VReg) (a : VReg) (b : VReg) (ty : Ty) (mk : Bool) : Statement (.vfadd d a b ty mk) := by
  intro w h; cases h; have h0 := d.isLt; have h1 := a.isLt; have h2 := b.isLt; have h3 := ty.code_lt; have h4 := bit_lt mk; simp only [pack]; omega
theorem vfsub (d : VReg) (a : VReg) (b : VReg) (ty : Ty) (mk : Bool) : Statement (.vfsub d a b ty mk) := by
  intro w h; cases h; have h0 := d.isLt; have h1 := a.isLt; have h2 := b.isLt; have h3 := ty.code_lt; have h4 := bit_lt mk; simp only [pack]; omega
theorem vfmul (d : VReg) (a : VReg) (b : VReg) (ty : Ty) (mk : Bool) : Statement (.vfmul d a b ty mk) := by
  intro w h; cases h; have h0 := d.isLt; have h1 := a.isLt; have h2 := b.isLt; have h3 := ty.code_lt; have h4 := bit_lt mk; simp only [pack]; omega
theorem vfmin (d : VReg) (a : VReg) (b : VReg) (ty : Ty) (mk : Bool) : Statement (.vfmin d a b ty mk) := by
  intro w h; cases h; have h0 := d.isLt; have h1 := a.isLt; have h2 := b.isLt; have h3 := ty.code_lt; have h4 := bit_lt mk; simp only [pack]; omega
theorem vfmax (d : VReg) (a : VReg) (b : VReg) (ty : Ty) (mk : Bool) : Statement (.vfmax d a b ty mk) := by
  intro w h; cases h; have h0 := d.isLt; have h1 := a.isLt; have h2 := b.isLt; have h3 := ty.code_lt; have h4 := bit_lt mk; simp only [pack]; omega
theorem vfabs (d : VReg) (a : VReg) (ty : Ty) (mk : Bool) : Statement (.vfabs d a ty mk) := by
  intro w h; cases h; have h0 := d.isLt; have h1 := a.isLt; have h2 := ty.code_lt; have h3 := bit_lt mk; simp only [pack]; omega
theorem vfneg (d : VReg) (a : VReg) (ty : Ty) (mk : Bool) : Statement (.vfneg d a ty mk) := by
  intro w h; cases h; have h0 := d.isLt; have h1 := a.isLt; have h2 := ty.code_lt; have h3 := bit_lt mk; simp only [pack]; omega
theorem vfma (d : VReg) (a : VReg) (b : VReg) (ty : Ty) (mk : Bool) : Statement (.vfma d a b ty mk) := by
  intro w h; cases h; have h0 := d.isLt; have h1 := a.isLt; have h2 := b.isLt; have h3 := ty.code_lt; have h4 := bit_lt mk; simp only [pack]; omega
theorem vfms (d : VReg) (a : VReg) (b : VReg) (ty : Ty) (mk : Bool) : Statement (.vfms d a b ty mk) := by
  intro w h; cases h; have h0 := d.isLt; have h1 := a.isLt; have h2 := b.isLt; have h3 := ty.code_lt; have h4 := bit_lt mk; simp only [pack]; omega
theorem vfnma (d : VReg) (a : VReg) (b : VReg) (ty : Ty) (mk : Bool) : Statement (.vfnma d a b ty mk) := by
  intro w h; cases h; have h0 := d.isLt; have h1 := a.isLt; have h2 := b.isLt; have h3 := ty.code_lt; have h4 := bit_lt mk; simp only [pack]; omega
theorem vbcast (d : VReg) (b : Reg) (ty : Ty) (mk : Bool) : Statement (.vbcast d b ty mk) := by
  intro w h; cases h; have h0 := d.isLt; have h1 := b.isLt; have h2 := ty.code_lt; have h3 := bit_lt mk; simp only [pack]; omega
theorem vins (d : VReg) (k : BitVec 6) (b : Reg) (ty : Ty) : Statement (.vins d k b ty) := by
  intro w h; cases h; have h0 := d.isLt; have h1 := k.isLt; have h2 := b.isLt; have h3 := ty.code_lt; simp only [pack]; omega
theorem vext (v : VReg) (k : BitVec 6) (b : Reg) (ty : Ty) : Statement (.vext v k b ty) := by
  intro w h; cases h; have h0 := v.isLt; have h1 := k.isLt; have h2 := b.isLt; have h3 := ty.code_lt; simp only [pack]; omega
theorem vaddx (d : VReg) (a : VReg) (b : Reg) (ty : Ty) (mk : Bool) : Statement (.vaddx d a b ty mk) := by
  intro w h; cases h; have h0 := d.isLt; have h1 := a.isLt; have h2 := b.isLt; have h3 := ty.code_lt; have h4 := bit_lt mk; simp only [pack]; omega
theorem vfmulx (d : VReg) (a : VReg) (b : Reg) (ty : Ty) (mk : Bool) : Statement (.vfmulx d a b ty mk) := by
  intro w h; cases h; have h0 := d.isLt; have h1 := a.isLt; have h2 := b.isLt; have h3 := ty.code_lt; have h4 := bit_lt mk; simp only [pack]; omega
theorem vcmp (n : MReg) (a : VReg) (b : VReg) (c : Cond) (ty : Ty) (mk : Bool) : Statement (.vcmp n a b c ty mk) := by
  intro w h; cases h; have h0 := n.isLt; have h1 := a.isLt; have h2 := b.isLt; have h3 := c.code_lt; have h4 := ty.code_lt; have h5 := bit_lt mk; simp only [pack]; omega
theorem vsel (d : VReg) (a : VReg) (b : VReg) (ty : Ty) : Statement (.vsel d a b ty) := by
  intro w h; cases h; have h0 := d.isLt; have h1 := a.isLt; have h2 := b.isLt; have h3 := ty.code_lt; simp only [pack]; omega
theorem mand (n : MReg) (a : MReg) (b : MReg) : Statement (.mand n a b) := by
  intro w h; cases h; have h0 := n.isLt; have h1 := a.isLt; have h2 := b.isLt; simp only [pack]; omega
theorem mor (n : MReg) (a : MReg) (b : MReg) : Statement (.mor n a b) := by
  intro w h; cases h; have h0 := n.isLt; have h1 := a.isLt; have h2 := b.isLt; simp only [pack]; omega
theorem mnot (n : MReg) (a : MReg) : Statement (.mnot n a) := by
  intro w h; cases h; have h0 := n.isLt; have h1 := a.isLt; simp only [pack]; omega
theorem mpopc (x : Reg) (a : MReg) (ty : Ty) (mk : Bool) : Statement (.mpopc x a ty mk) := by
  intro w h; cases h; have h0 := x.isLt; have h1 := a.isLt; have h2 := ty.code_lt; have h3 := bit_lt mk; simp only [pack]; omega
theorem vcvt (d : VReg) (a : VReg) (nan : Bool) (rm : Round) (src : Ty) (p : BitVec 2) (dst : Ty) (mk : Bool) : Statement (.vcvt d a nan rm src p dst mk) := by
  intro w h; cases h; have h0 := d.isLt; have h1 := a.isLt; have h2 := p.isLt; have h3 := rm.code_lt; have h4 := src.code_lt; have h5 := dst.code_lt; have h6 := bit_lt nan; have h7 := bit_lt mk; simp only [pack]; omega
theorem vcvts (d : VReg) (a : VReg) (k : BitVec 4) (src : Ty) (p : BitVec 2) (dst : Ty) (mk : Bool) : Statement (.vcvts d a k src p dst mk) := by
  intro w h; cases h; have h0 := d.isLt; have h1 := a.isLt; have h2 := k.isLt; have h3 := p.isLt; have h4 := src.code_lt; have h5 := dst.code_lt; have h6 := bit_lt mk; simp only [pack]; omega
theorem vexp2 (d : VReg) (a : VReg) (ty : Ty) (mk : Bool) : Statement (.vexp2 d a ty mk) := by
  intro w h; cases h; have h0 := d.isLt; have h1 := a.isLt; have h2 := ty.code_lt; have h3 := bit_lt mk; simp only [pack]; omega
theorem vlog2 (d : VReg) (a : VReg) (ty : Ty) (mk : Bool) : Statement (.vlog2 d a ty mk) := by
  intro w h; cases h; have h0 := d.isLt; have h1 := a.isLt; have h2 := ty.code_lt; have h3 := bit_lt mk; simp only [pack]; omega
theorem vrcp (d : VReg) (a : VReg) (ty : Ty) (mk : Bool) : Statement (.vrcp d a ty mk) := by
  intro w h; cases h; have h0 := d.isLt; have h1 := a.isLt; have h2 := ty.code_lt; have h3 := bit_lt mk; simp only [pack]; omega
theorem vrsq (d : VReg) (a : VReg) (ty : Ty) (mk : Bool) : Statement (.vrsq d a ty mk) := by
  intro w h; cases h; have h0 := d.isLt; have h1 := a.isLt; have h2 := ty.code_lt; have h3 := bit_lt mk; simp only [pack]; omega
theorem vsqrt (d : VReg) (a : VReg) (ty : Ty) (mk : Bool) : Statement (.vsqrt d a ty mk) := by
  intro w h; cases h; have h0 := d.isLt; have h1 := a.isLt; have h2 := ty.code_lt; have h3 := bit_lt mk; simp only [pack]; omega
theorem vtanh (d : VReg) (a : VReg) (ty : Ty) (mk : Bool) : Statement (.vtanh d a ty mk) := by
  intro w h; cases h; have h0 := d.isLt; have h1 := a.isLt; have h2 := ty.code_lt; have h3 := bit_lt mk; simp only [pack]; omega
theorem vsigm (d : VReg) (a : VReg) (ty : Ty) (mk : Bool) : Statement (.vsigm d a ty mk) := by
  intro w h; cases h; have h0 := d.isLt; have h1 := a.isLt; have h2 := ty.code_lt; have h3 := bit_lt mk; simp only [pack]; omega
theorem vradd (d : VReg) (a : VReg) (ty : Ty) (mk : Bool) : Statement (.vradd d a ty mk) := by
  intro w h; cases h; have h0 := d.isLt; have h1 := a.isLt; have h2 := ty.code_lt; have h3 := bit_lt mk; simp only [pack]; omega
theorem vrmax (d : VReg) (a : VReg) (ty : Ty) (mk : Bool) : Statement (.vrmax d a ty mk) := by
  intro w h; cases h; have h0 := d.isLt; have h1 := a.isLt; have h2 := ty.code_lt; have h3 := bit_lt mk; simp only [pack]; omega
theorem vrmin (d : VReg) (a : VReg) (ty : Ty) (mk : Bool) : Statement (.vrmin d a ty mk) := by
  intro w h; cases h; have h0 := d.isLt; have h1 := a.isLt; have h2 := ty.code_lt; have h3 := bit_lt mk; simp only [pack]; omega
theorem vrmaxi (d : VReg) (a : VReg) (ty : Ty) (mk : Bool) : Statement (.vrmaxi d a ty mk) := by
  intro w h; cases h; have h0 := d.isLt; have h1 := a.isLt; have h2 := ty.code_lt; have h3 := bit_lt mk; simp only [pack]; omega
theorem vscan (d : VReg) (a : VReg) (ty : Ty) (mk : Bool) : Statement (.vscan d a ty mk) := by
  intro w h; cases h; have h0 := d.isLt; have h1 := a.isLt; have h2 := ty.code_lt; have h3 := bit_lt mk; simp only [pack]; omega
theorem vperm (d : VReg) (a : VReg) (b : VReg) (ty : Ty) (mk : Bool) : Statement (.vperm d a b ty mk) := by
  intro w h; cases h; have h0 := d.isLt; have h1 := a.isLt; have h2 := b.isLt; have h3 := ty.code_lt; have h4 := bit_lt mk; simp only [pack]; omega
theorem vslide (d : VReg) (a : VReg) (k : BitVec 5) (ty : Ty) (mk : Bool) : Statement (.vslide d a k ty mk) := by
  intro w h; cases h; have h0 := d.isLt; have h1 := a.isLt; have h2 := k.isLt; have h3 := ty.code_lt; have h4 := bit_lt mk; simp only [pack]; omega
theorem vslideUp (d : VReg) (a : VReg) (k : BitVec 5) (ty : Ty) (mk : Bool) : Statement (.vslideUp d a k ty mk) := by
  intro w h; cases h; have h0 := d.isLt; have h1 := a.isLt; have h2 := k.isLt; have h3 := ty.code_lt; have h4 := bit_lt mk; simp only [pack]; omega
theorem vrot (d : VReg) (a : VReg) (k : BitVec 5) (ty : Ty) (mk : Bool) : Statement (.vrot d a k ty mk) := by
  intro w h; cases h; have h0 := d.isLt; have h1 := a.isLt; have h2 := k.isLt; have h3 := ty.code_lt; have h4 := bit_lt mk; simp only [pack]; omega
theorem vdot4 (d : VReg) (a : VReg) (b : VReg) (ty : Ty) (mk : Bool) : Statement (.vdot4 d a b ty mk) := by
  intro w h; cases h; have h0 := d.isLt; have h1 := a.isLt; have h2 := b.isLt; have h3 := ty.code_lt; have h4 := bit_lt mk; simp only [pack]; omega
theorem vdotf8 (d : VReg) (a : VReg) (b : VReg) (ty : Ty) (mk : Bool) : Statement (.vdotf8 d a b ty mk) := by
  intro w h; cases h; have h0 := d.isLt; have h1 := a.isLt; have h2 := b.isLt; have h3 := ty.code_lt; have h4 := bit_lt mk; simp only [pack]; omega
theorem vsortk (d : VReg) (a : VReg) (b : VReg) (ty : Ty) (mk : Bool) : Statement (.vsortk d a b ty mk) := by
  intro w h; cases h; have h0 := d.isLt; have h1 := a.isLt; have h2 := b.isLt; have h3 := ty.code_lt; have h4 := bit_lt mk; simp only [pack]; omega
theorem vmergek (d : VReg) (a : VReg) (b : VReg) (ty : Ty) : Statement (.vmergek d a b ty) := by
  intro w h; cases h; have h0 := d.isLt; have h1 := a.isLt; have h2 := b.isLt; have h3 := ty.code_lt; simp only [pack]; omega
theorem vrnd (d : VReg) (a : VReg) (mk : Bool) : Statement (.vrnd d a mk) := by
  intro w h; cases h; have h0 := d.isLt; have h1 := a.isLt; have h2 := bit_lt mk; simp only [pack]; omega
theorem dstkp (d : Reg) (a : Reg) (b : Reg) : Statement (.dstkp d a b) := by
  intro w h; cases h; have h0 := d.isLt; have h1 := a.isLt; have h2 := b.isLt; simp only [pack]; omega
theorem dstka (d : Reg) (a : Reg) (b : Reg) : Statement (.dstka d a b) := by
  intro w h; cases h; have h0 := d.isLt; have h1 := a.isLt; have h2 := b.isLt; simp only [pack]; omega
theorem dstkc (b : Reg) : Statement (.dstkc b) := by
  intro w h; cases h; have h0 := b.isLt; simp only [pack]; omega
theorem kfmt (c : BitVec 2) (nan : Bool) (strict : Bool) (fb : KFormat) (fa : KFormat) : Statement (.kfmt c nan strict fb fa) := by
  intro w h; cases h; have h0 := c.isLt; have h1 := fb.code_lt; have h2 := fa.code_lt; have h3 := bit_lt nan; have h4 := bit_lt strict; simp only [pack]; omega
theorem kmma (t : TReg) (a : Reg) (b : Reg) (c : BitVec 2) (as : Bool) (acc : Bool) : Statement (.kmma t a b c as acc) := by
  intro w h; cases h; have h0 := t.isLt; have h1 := a.isLt; have h2 := b.isLt; have h3 := c.isLt; have h4 := bit_lt as; have h5 := bit_lt acc; simp only [pack]; omega
theorem kmmas (t : TReg) (a : Reg) (b : Reg) (c : BitVec 2) (as : Bool) (acc : Bool) : Statement (.kmmas t a b c as acc) := by
  intro w h; cases h; have h0 := t.isLt; have h1 := a.isLt; have h2 := b.isLt; have h3 := c.isLt; have h4 := bit_lt as; have h5 := bit_lt acc; simp only [pack]; omega
theorem kmmv (t : TReg) (b : Reg) (c : BitVec 2) (as : Bool) (acc : Bool) : Statement (.kmmv t b c as acc) := by
  intro w h; cases h; have h0 := t.isLt; have h1 := b.isLt; have h2 := c.isLt; have h3 := bit_lt as; have h4 := bit_lt acc; simp only [pack]; omega
theorem kzero (t : TReg) : Statement (.kzero t) := by
  intro w h; cases h; have h0 := t.isLt; simp only [pack]; omega
theorem klda (t : TReg) (a : Reg) (acc : Bool) : Statement (.klda t a acc) := by
  intro w h; cases h; have h0 := t.isLt; have h1 := a.isLt; have h2 := bit_lt acc; simp only [pack]; omega
theorem ksta (t : TReg) (a : Reg) : Statement (.ksta t a) := by
  intro w h; cases h; have h0 := t.isLt; have h1 := a.isLt; simp only [pack]; omega
theorem kcvt (t : TReg) (a : Reg) (c : BitVec 2) : Statement (.kcvt t a c) := by
  intro w h; cases h; have h0 := t.isLt; have h1 := a.isLt; have h2 := c.isLt; simp only [pack]; omega
theorem ksync : Statement (.ksync) := by
  intro w h; cases h; simp only [pack]; omega
theorem kscaleA (a : Reg) (b : Reg) : Statement (.kscaleA a b) := by
  intro w h; cases h; have h0 := a.isLt; have h1 := b.isLt; simp only [pack]; omega
theorem kscaleB (a : Reg) (b : Reg) : Statement (.kscaleB a b) := by
  intro w h; cases h; have h0 := a.isLt; have h1 := b.isLt; simp only [pack]; omega
theorem ctxsv (keep : Bool) (s : BitVec 4) : Statement (.ctxsv keep s) := by
  intro w h; cases h; have h0 := s.isLt; have h1 := bit_lt keep; simp only [pack]; omega
theorem ctxld (a : Reg) (s : BitVec 4) : Statement (.ctxld a s) := by
  intro w h; cases h; have h0 := a.isLt; have h1 := s.isLt; simp only [pack]; omega
theorem accspill : Statement (.accspill) := by
  intro w h; cases h; simp only [pack]; omega
theorem accfill : Statement (.accfill) := by
  intro w h; cases h; simp only [pack]; omega
theorem cpyw (a : Reg) (b : Reg) (k : BitVec 2) : Statement (.cpyw a b k) := by
  intro w h; cases h; have h0 := a.isLt; have h1 := b.isLt; have h2 := k.isLt; simp only [pack]; omega
theorem cpyq (d : Reg) : Statement (.cpyq d) := by
  intro w h; cases h; have h0 := d.isLt; simp only [pack]; omega
theorem cpyx (d : Reg) : Statement (.cpyx d) := by
  intro w h; cases h; have h0 := d.isLt; simp only [pack]; omega
theorem cpy (d : Reg) (o : MemOrd) (sc : Scope) : Statement (.cpy d o sc) := by
  intro w h; cases h; have h0 := d.isLt; have h1 := o.code_lt; have h2 := sc.code_lt; simp only [pack]; omega
theorem cpyt (d : Reg) (o : MemOrd) (sc : Scope) : Statement (.cpyt d o sc) := by
  intro w h; cases h; have h0 := d.isLt; have h1 := o.code_lt; have h2 := sc.code_lt; simp only [pack]; omega
theorem cpyk (d : Reg) (o : MemOrd) (sc : Scope) : Statement (.cpyk d o sc) := by
  intro w h; cases h; have h0 := d.isLt; have h1 := o.code_lt; have h2 := sc.code_lt; simp only [pack]; omega
theorem cpys (d : Reg) (o : MemOrd) (sc : Scope) : Statement (.cpys d o sc) := by
  intro w h; cases h; have h0 := d.isLt; have h1 := o.code_lt; have h2 := sc.code_lt; simp only [pack]; omega
theorem mwinCount (d : Reg) : Statement (.mwinCount d) := by
  intro w h; cases h; have h0 := d.isLt; simp only [pack]; omega
theorem mwin (d : Reg) (a : Reg) : Statement (.mwin d a) := by
  intro w h; cases h; have h0 := d.isLt; have h1 := a.isLt; simp only [pack]; omega
theorem mtick (d : Reg) : Statement (.mtick d) := by
  intro w h; cases h; have h0 := d.isLt; simp only [pack]; omega
theorem mack (a : Reg) : Statement (.mack a) := by
  intro w h; cases h; have h0 := a.isLt; simp only [pack]; omega
theorem frameIssue (core : Nat) : Statement (.frameIssue core) := by intro w h; cases h
theorem sequencerRelease (core : Nat) : Statement (.sequencerRelease core) := by intro w h; cases h
theorem burneComplete (slot : Nat) : Statement (.burneComplete slot) := by intro w h; cases h
theorem burnHandlerEntry (slot : Nat) : Statement (.burnHandlerEntry slot) := by intro w h; cases h
theorem handlerOverrun (slot : Nat) : Statement (.handlerOverrun slot) := by intro w h; cases h
theorem atomicPerform (k : Nat) : Statement (.atomicPerform k) := by intro w h; cases h
theorem reductionContribution (k : Nat) : Statement (.reductionContribution k) := by intro w h; cases h
theorem reductionAdmit (grate : Nat) (k : Nat) : Statement (.reductionAdmit grate k) := by intro w h; cases h
theorem reductionClose (k : Nat) : Statement (.reductionClose k) := by intro w h; cases h
theorem putnDelivery (slot : Nat) : Statement (.putnDelivery slot) := by intro w h; cases h
theorem messageDelivery (k : Nat) : Statement (.messageDelivery k) := by intro w h; cases h
theorem sparkHandlerStart (core : Nat) : Statement (.sparkHandlerStart core) := by intro w h; cases h
theorem illegalWord (w : Word32) : Statement (.illegalWord w) := by intro w h; cases h
theorem deferredTrap (slot : Nat) : Statement (.deferredTrap slot) := by intro w h; cases h
theorem tlbiAck (slot : Nat) : Statement (.tlbiAck slot) := by intro w h; cases h
theorem partWrite (core : Nat) (v : Word) : Statement (.partWrite core v) := by intro w h; cases h
theorem userInterruptEntry (slot : Nat) : Statement (.userInterruptEntry slot) := by intro w h; cases h
theorem tagwait (slot : Nat) : Statement (.tagwait slot) := by intro w h; cases h
theorem slotWake (slot : Nat) : Statement (.slotWake slot) := by intro w h; cases h
theorem loadFill (slot : Nat) (k : Nat) : Statement (.loadFill slot k) := by intro w h; cases h
theorem vectorLoadFill (slot : Nat) (k : Nat) : Statement (.vectorLoadFill slot k) := by intro w h; cases h
theorem storeBufferDrain (slot : Nat) : Statement (.storeBufferDrain slot) := by intro w h; cases h
theorem l2Eviction (hearth : Nat) (line : Nat) : Statement (.l2Eviction hearth line) := by intro w h; cases h
theorem homeMerge (hearth : Nat) (line : Nat) : Statement (.homeMerge hearth line) := by intro w h; cases h
theorem emberArrival (clamp : Nat) (pkg : Nat) (slot : Nat) (p : EmberPacket) : Statement (.emberArrival clamp pkg slot p) := by intro w h; cases h
theorem emberHandoff (clamp : Nat) : Statement (.emberHandoff clamp) := by intro w h; cases h
theorem emberack (slot : Nat) (ok : Bool) : Statement (.emberack slot ok) := by intro w h; cases h
theorem haltRequest (slot : Nat) : Statement (.haltRequest slot) := by intro w h; cases h
theorem resumeRequest (slot : Nat) : Statement (.resumeRequest slot) := by intro w h; cases h
theorem sparkDelivery (core : Nat) : Statement (.sparkDelivery core) := by intro w h; cases h
theorem launchAccept (hearth : Nat) (rcba : Nat) : Statement (.launchAccept hearth rcba) := by intro w h; cases h
theorem overflowMove (hearth : Nat) : Statement (.overflowMove hearth) := by intro w h; cases h
theorem priorityAging (hearth : Nat) : Statement (.priorityAging hearth) := by intro w h; cases h
theorem placement (hearth : Nat) : Statement (.placement hearth) := by intro w h; cases h
theorem preempt (hearth : Nat) (rcba : Nat) : Statement (.preempt hearth rcba) := by intro w h; cases h
theorem groupComplete (hearth : Nat) (rcba : Nat) : Statement (.groupComplete hearth rcba) := by intro w h; cases h
theorem checkedRerun (hearth : Nat) (rcba : Nat) : Statement (.checkedRerun hearth rcba) := by intro w h; cases h
theorem l2WritebackFail (hearth : Nat) (line : Nat) : Statement (.l2WritebackFail hearth line) := by intro w h; cases h
theorem pageWalk (clamp : Nat) (root : Nat) (va : Nat) (write : Bool) : Statement (.pageWalk clamp root va write) := by intro w h; cases h
theorem pageFaultWake (slot : Nat) (token : Nat) (decline : Bool) : Statement (.pageFaultWake slot token decline) := by intro w h; cases h
theorem kilnGrant (clamp : Nat) : Statement (.kilnGrant clamp) := by intro w h; cases h
theorem kilnRetire (core : Nat) : Statement (.kilnRetire core) := by intro w h; cases h
theorem commandAccept (core : Nat) : Statement (.commandAccept core) := by intro w h; cases h
theorem cpykKilnIssue (core : Nat) (k : Nat) : Statement (.cpykKilnIssue core k) := by intro w h; cases h
theorem copyComplete (core : Nat) (k : Nat) : Statement (.copyComplete core k) := by intro w h; cases h
theorem copyFaultResume (core : Nat) (k : Nat) (decline : Bool) : Statement (.copyFaultResume core k decline) := by intro w h; cases h
theorem nvmeReadComplete (k : Nat) (error : Bool) (data : List Byte) : Statement (.nvmeReadComplete k error data) := by intro w h; cases h
theorem storageControllerReset : Statement (.storageControllerReset) := by intro w h; cases h
theorem keySlotInstall (n : Nat) (kmac : List Byte) (ed448 : List Byte) : Statement (.keySlotInstall n kmac ed448) := by intro w h; cases h
theorem tick (n : Nat) : Statement (.tick n) := by intro w h; cases h
theorem slippedTickLaunch (n : Nat) : Statement (.slippedTickLaunch n) := by intro w h; cases h
theorem recordPresent (n : Nat) : Statement (.recordPresent n) := by intro w h; cases h
theorem recordExpire (n : Nat) : Statement (.recordExpire n) := by intro w h; cases h
theorem dtadjStep (v : Word) : Statement (.dtadjStep v) := by intro w h; cases h
theorem timeReferenceInput (r : TimeReference) : Statement (.timeReferenceInput r) := by intro w h; cases h
theorem flitReceive (port : Nat) (f : LinkFlit) : Statement (.flitReceive port f) := by intro w h; cases h
theorem lack (port : Nat) (seq : Nat) (nak : Bool) : Statement (.lack port seq nak) := by intro w h; cases h
theorem linkDown (port : Nat) : Statement (.linkDown port) := by intro w h; cases h
theorem pause (port : Nat) (on : Bool) : Statement (.pause port on) := by intro w h; cases h
theorem keyx (port : Nat) (m : KeyExchange) : Statement (.keyx port m) := by intro w h; cases h
theorem rekeyStart (port : Nat) : Statement (.rekeyStart port) := by intro w h; cases h
theorem keyout (port : Nat) : Statement (.keyout port) := by intro w h; cases h
theorem keyoutTimeout (port : Nat) : Statement (.keyoutTimeout port) := by intro w h; cases h
theorem writeArrival (grate : Nat) (f : WriteFlit) : Statement (.writeArrival grate f) := by intro w h; cases h
theorem releaseArrival (grate : Nat) (f : ReleaseFlit) : Statement (.releaseArrival grate f) := by intro w h; cases h
theorem flagack (a : WindowName) : Statement (.flagack a) := by intro w h; cases h
theorem shortfallTimeout (grate : Nat) (a : WindowName) : Statement (.shortfallTimeout grate a) := by intro w h; cases h
theorem shortfall (a : WindowName) (bitmap : Nat) : Statement (.shortfall a bitmap) := by intro w h; cases h
theorem giveup (a : WindowName) (bitmap : Nat) : Statement (.giveup a bitmap) := by intro w h; cases h
theorem notable (a : WindowName) (seq : Nat) : Statement (.notable a seq) := by intro w h; cases h
theorem notableRetry (a : WindowName) (seq : Nat) : Statement (.notableRetry a seq) := by intro w h; cases h
theorem streamEntryFree (grate : Nat) (sid : Nat) : Statement (.streamEntryFree grate sid) := by intro w h; cases h
theorem probe (grate : Nat) (f : ReleaseFlit) : Statement (.probe grate f) := by intro w h; cases h
theorem probeack (a : WindowName) (frozen : Bool) : Statement (.probeack a frozen) := by intro w h; cases h
theorem deadlinkTimeout (pkg : Nat) : Statement (.deadlinkTimeout pkg) := by intro w h; cases h
theorem frozen (a : WindowName) : Statement (.frozen a) := by intro w h; cases h
theorem fzctlRetry (grate : Nat) (token : Nat) : Statement (.fzctlRetry grate token) := by intro w h; cases h
theorem fzctlRefuse (grate : Nat) (token : Nat) : Statement (.fzctlRefuse grate token) := by intro w h; cases h
theorem resume (a : WindowName) (refused : Option Nat) : Statement (.resume a refused) := by intro w h; cases h
theorem remoteRead (grate : Nat) (f : ReadFlit) : Statement (.remoteRead grate f) := by intro w h; cases h
theorem ahloadLoad (n : Nat) : Statement (.ahloadLoad n) := by intro w h; cases h
theorem ahloadUnload (n : Nat) : Statement (.ahloadUnload n) := by intro w h; cases h
theorem ringTailWrite (n : Nat) (v : Word) : Statement (.ringTailWrite n v) := by intro w h; cases h
theorem ringRecord (n : Nat) : Statement (.ringRecord n) := by intro w h; cases h
theorem ringResume (n : Nat) : Statement (.ringResume n) := by intro w h; cases h
theorem ringEnable (n : Nat) (v : Word) : Statement (.ringEnable n v) := by intro w h; cases h
theorem hostWrite (place : HostAddr) (data : List Byte) : Statement (.hostWrite place data) := by intro w h; cases h
theorem hostRead (place : HostAddr) (size : Nat) : Statement (.hostRead place size) := by intro w h; cases h
theorem registerWrite (crn : Nat) (idx : Nat) (v : Word) : Statement (.registerWrite crn idx v) := by intro w h; cases h
theorem islceilWrite (island : Nat) (v : Word) : Statement (.islceilWrite island v) := by intro w h; cases h
theorem islandPowerSample (island : Nat) (power : Nat) : Statement (.islandPowerSample island power) := by intro w h; cases h
theorem scrub (place : ScrubAt) (found : Option Bool) : Statement (.scrub place found) := by intro w h; cases h
theorem packageFailover (pkg : Nat) (spare : Nat) : Statement (.packageFailover pkg spare) := by intro w h; cases h
theorem deviceReset : Statement (.deviceReset) := by intro w h; cases h
theorem boot (image : List Byte) : Statement (.boot image) := by intro w h; cases h
theorem attestationRequest (nonce : List Byte) : Statement (.attestationRequest nonce) := by intro w h; cases h
theorem coreReset (core : Nat) : Statement (.coreReset core) := by intro w h; cases h
theorem powerGate (clamp : Nat) (on : Bool) : Statement (.powerGate clamp on) := by intro w h; cases h

end Sys2Proof.Laws.Fits
end

