-- ==== Sys2Proof/Laws/Words.lean ====
section
/-! SUPPORT. The w-bit results of the ALU, which the machine computes over natural numbers, read as bit vectors of width w. -/
namespace Sys2Proof.Machine
open Sys2Proof

theorem widthBits_pos (sz : Width) : 0 < widthBits sz := by cases sz <;> decide
theorem widthBits_le (sz : Width) : widthBits sz ≤ 64 := by cases sz <;> decide

theorem sgn_toInt (w v : Nat) (h : 0 < w) : sgn w v = (BitVec.ofNat w v).toInt := by
  have h1 : 2 ^ w = 2 * 2 ^ (w - 1) := by
    rw [← pow_succ', Nat.sub_add_cancel h]
  rw [BitVec.toInt_eq_toNat_cond, BitVec.toNat_ofNat, sgn]
  split <;> split <;> omega

theorem sgn_of (w : Nat) (a : BitVec w) (h : 0 < w) : sgn w a.toNat = a.toInt := by
  rw [sgn_toInt w _ h, BitVec.ofNat_toNat, BitVec.setWidth_eq]

theorem ofNat_wrap (w : Nat) (x : Int) : BitVec.ofNat w (wrap w x) = BitVec.ofInt w x := by
  apply BitVec.eq_of_toNat_eq
  have h : (0 : Int) ≤ x % ((2 ^ w : Nat) : Int) := Int.emod_nonneg _ (by positivity)
  have h2 : x % ((2 ^ w : Nat) : Int) < ((2 ^ w : Nat) : Int) := Int.emod_lt_of_pos _ (by positivity)
  rw [BitVec.toNat_ofNat, BitVec.toNat_ofInt, wrap, Nat.mod_eq_of_lt (by omega)]

theorem sext_eq (w v : Nat) (h : 0 < w) : sext w v = (BitVec.ofNat w v).signExtend 64 := by
  rw [sext, sgn_toInt w v h, BitVec.signExtend]

theorem mod_toNat (w : Nat) (x : Word) : x.toNat % 2 ^ w = (x.setWidth w).toNat := by simp

theorem ofNat_self (w : Nat) (a : BitVec w) : BitVec.ofNat w a.toNat = a := by simp

theorem ofNat_two (w : Nat) (a b : BitVec w) : BitVec.ofNat w (a.toNat + 2 ^ w - b.toNat) = a - b := by
  apply BitVec.eq_of_toNat_eq
  rw [BitVec.toNat_ofNat, BitVec.toNat_sub]
  congr 1
  have := b.isLt
  omega

theorem alu_sub (w : Nat) (a b : BitVec w) : BitVec.ofNat w (aluSub w a.toNat b.toNat) = a - b := ofNat_two w a b
theorem alu_add (w : Nat) (a b : BitVec w) : BitVec.ofNat w (aluAdd w a.toNat b.toNat) = a + b := by
  simp [aluAdd, BitVec.ofNat_add]
theorem alu_mul (w : Nat) (a b : BitVec w) : BitVec.ofNat w (aluMul w a.toNat b.toNat) = a * b := by
  simp [aluMul, BitVec.ofNat_mul]
theorem alu_and (w : Nat) (a b : BitVec w) : BitVec.ofNat w (aluAnd w a.toNat b.toNat) = a &&& b := by
  simp [aluAnd, BitVec.ofNat_and]
theorem alu_or (w : Nat) (a b : BitVec w) : BitVec.ofNat w (aluOr w a.toNat b.toNat) = a ||| b := by
  simp [aluOr, BitVec.ofNat_or]
theorem alu_xor (w : Nat) (a b : BitVec w) : BitVec.ofNat w (aluXor w a.toNat b.toNat) = a ^^^ b := by
  simp [aluXor, BitVec.ofNat_xor]
theorem alu_andn (w : Nat) (a b : BitVec w) : BitVec.ofNat w (aluAndn w a.toNat b.toNat) = a &&& ~~~b := by
  have h : 2 ^ w - 1 - b.toNat = (~~~b).toNat := by simp
  rw [aluAndn, h, BitVec.ofNat_and, ofNat_self, ofNat_self]

theorem alu_mulhn (w : Nat) (a b : BitVec w) : BitVec.ofNat w (aluMulhn w a.toNat b.toNat) =
    (a.zeroExtend (2 * w) * b.zeroExtend (2 * w)).extractLsb' w w := by
  apply BitVec.eq_of_toNat_eq
  have hp : 2 ^ (2 * w) = 2 ^ w * 2 ^ w := by rw [two_mul, pow_add]
  have ha : a.toNat < 2 ^ (2 * w) := lt_of_lt_of_le a.isLt (Nat.pow_le_pow_right (by omega) (by omega))
  have hb : b.toNat < 2 ^ (2 * w) := lt_of_lt_of_le b.isLt (Nat.pow_le_pow_right (by omega) (by omega))
  have hab : a.toNat * b.toNat < 2 ^ (2 * w) := by
    rw [hp]; exact Nat.mul_lt_mul'' a.isLt b.isLt
  simp only [BitVec.toNat_ofNat, BitVec.extractLsb'_toNat, BitVec.toNat_mul, BitVec.truncate_eq_setWidth,
    BitVec.toNat_setWidth, Nat.shiftRight_eq_div_pow, aluMulhn]
  rw [Nat.mod_eq_of_lt ha, Nat.mod_eq_of_lt hb, Nat.mod_eq_of_lt hab]

theorem alu_mulh (w : Nat) (h : 0 < w) (a b : BitVec w) : BitVec.ofNat w (aluMulh w a.toNat b.toNat) =
    (a.signExtend (2 * w) * b.signExtend (2 * w)).extractLsb' w w := by
  rw [aluMulh, ofNat_wrap, sgn_of w a h, sgn_of w b h]
  have hp : (2 : Nat) ^ (2 * w) = 2 ^ w * 2 ^ w := by rw [two_mul, pow_add]
  have e : a.signExtend (2 * w) * b.signExtend (2 * w) = BitVec.ofInt (2 * w) (a.toInt * b.toInt) := by
    rw [BitVec.ofInt_mul]; rfl
  rw [e]
  apply BitVec.eq_of_toNat_eq
  have hpos : (0 : Int) < ((2 ^ w : Nat) : Int) := by positivity
  simp only [BitVec.extractLsb'_toNat, BitVec.toNat_ofInt, Nat.shiftRight_eq_div_pow]
  generalize a.toInt * b.toInt = z
  zify
  rw [Int.toNat_of_nonneg (Int.emod_nonneg _ (by positivity)), Int.toNat_of_nonneg (Int.emod_nonneg _ (by positivity))]
  have hq2 : (2 : Int) ^ (2 * w) = 2 ^ w * 2 ^ w := by rw [two_mul, pow_add]
  rw [hq2]
  generalize hq : (2 : Int) ^ w = q at *
  have hq0 : 0 < q := by rw [← hq]; positivity
  have e2 : z % (q * q) = z - q * q * (z / (q * q)) := by have := Int.emod_add_mul_ediv z (q * q); linarith
  rw [e2]
  have e3 : (z - q * q * (z / (q * q))) / q = z / q - q * (z / (q * q)) := by
    rw [show z - q * q * (z / (q * q)) = z + q * (-(q * (z / (q * q)))) by ring, Int.add_mul_ediv_left _ _ hq0.ne']
    ring
  rw [e3, Int.sub_mul_emod_self_left]

theorem ofInt_toInt' (w : Nat) (a : BitVec w) : BitVec.ofInt w a.toInt = a := BitVec.ofInt_toInt

theorem toNat_zero_iff (w : Nat) (b : BitVec w) : b.toNat = 0 ↔ b = 0 :=
  ⟨fun h => BitVec.eq_of_toNat_eq (by simpa using h), fun h => by simp [h]⟩

theorem ofNat_ones (w : Nat) : BitVec.ofNat w (2 ^ w - 1) = BitVec.allOnes w := by
  apply BitVec.eq_of_toNat_eq
  simp

theorem alu_div (w : Nat) (h : 0 < w) (a b : BitVec w) : BitVec.ofNat w (aluDiv w a.toNat b.toNat) =
    if b = 0 then BitVec.allOnes w else a.sdiv b := by
  rw [aluDiv]
  by_cases hb : b = 0
  · simp [hb, ofNat_ones]
  · rw [if_neg (by rwa [toNat_zero_iff]), if_neg hb, ofNat_wrap, sgn_of w a h, sgn_of w b h]
    apply BitVec.eq_of_toInt_eq
    rw [BitVec.toInt_ofInt, BitVec.toInt_sdiv]

theorem alu_rem (w : Nat) (h : 0 < w) (a b : BitVec w) : BitVec.ofNat w (aluRem w a.toNat b.toNat) =
    if b = 0 then a else a.srem b := by
  rw [aluRem]
  by_cases hb : b = 0
  · simp [hb]
  · rw [if_neg (by rwa [toNat_zero_iff]), if_neg hb, ofNat_wrap, sgn_of w a h, sgn_of w b h, ← BitVec.toInt_srem]
    exact BitVec.ofInt_toInt

theorem alu_divn (w : Nat) (a b : BitVec w) : BitVec.ofNat w (aluDivn w a.toNat b.toNat) =
    if b = 0 then BitVec.allOnes w else a / b := by
  rw [aluDivn]
  by_cases hb : b = 0
  · simp [hb, ofNat_ones]
  · rw [if_neg (by rwa [toNat_zero_iff]), if_neg hb]
    apply BitVec.eq_of_toNat_eq
    rw [BitVec.toNat_ofNat, BitVec.toNat_udiv, Nat.mod_eq_of_lt (lt_of_le_of_lt (Nat.div_le_self _ _) a.isLt)]

theorem alu_remn (w : Nat) (a b : BitVec w) : BitVec.ofNat w (aluRemn w a.toNat b.toNat) =
    if b = 0 then a else a % b := by
  rw [aluRemn]
  by_cases hb : b = 0
  · simp [hb]
  · rw [if_neg (by rwa [toNat_zero_iff]), if_neg hb]
    apply BitVec.eq_of_toNat_eq
    rw [BitVec.toNat_ofNat, BitVec.toNat_umod, Nat.mod_eq_of_lt (lt_of_le_of_lt (Nat.mod_le _ _) a.isLt)]

theorem alu_shl (w : Nat) (a b : BitVec w) : BitVec.ofNat w (aluShl w a.toNat b.toNat) = a <<< (b.toNat % w) := by
  apply BitVec.eq_of_toNat_eq
  rw [aluShl, BitVec.toNat_ofNat, BitVec.toNat_shiftLeft, Nat.shiftLeft_eq]

theorem alu_shr (w : Nat) (a b : BitVec w) : BitVec.ofNat w (aluShr w a.toNat b.toNat) = a >>> (b.toNat % w) := by
  apply BitVec.eq_of_toNat_eq
  rw [aluShr, BitVec.toNat_ofNat, BitVec.toNat_ushiftRight, Nat.shiftRight_eq_div_pow,
    Nat.mod_eq_of_lt (lt_of_le_of_lt (Nat.div_le_self _ _) a.isLt)]

theorem alu_sra (w : Nat) (h : 0 < w) (a b : BitVec w) :
    BitVec.ofNat w (aluSra w a.toNat b.toNat) = a.sshiftRight (b.toNat % w) := by
  rw [aluSra, ofNat_wrap, sgn_of w a h]
  apply BitVec.eq_of_toInt_eq
  rw [BitVec.toInt_sshiftRight, BitVec.toInt_ofInt, Int.shiftRight_eq_div_pow, ← BitVec.toInt_ofInt]
  have := BitVec.toInt_sshiftRight (x := a) (n := b.toNat % w)
  rw [Int.shiftRight_eq_div_pow] at this
  rw [← this, BitVec.ofInt_toInt, this]

theorem rol_nat (w k : Nat) (a : BitVec w) (hk : k ≤ w) : BitVec.ofNat w (a.toNat * 2 ^ k % 2 ^ w + a.toNat * 2 ^ k / 2 ^ w) =
    BitVec.ofNat w (a.toNat * 2 ^ k % 2 ^ w ||| a.toNat / 2 ^ (w - k)) := by
  have hlt := a.isLt
  have hp : 2 ^ w = 2 ^ (w - k) * 2 ^ k := by rw [← pow_add]; congr 1; omega
  have e : a.toNat * 2 ^ k / 2 ^ w = a.toNat / 2 ^ (w - k) := by
    rw [hp, Nat.mul_div_mul_right _ _ (by positivity)]
  have e2 : a.toNat * 2 ^ k % 2 ^ w = 2 ^ k * (a.toNat % 2 ^ (w - k)) := by
    rw [hp, Nat.mul_mod_mul_right, mul_comm]
  have lt : a.toNat / 2 ^ (w - k) < 2 ^ k := by
    rw [Nat.div_lt_iff_lt_mul (by positivity)]; rw [mul_comm, ← hp]; exact hlt
  rw [e, e2, Nat.two_pow_add_eq_or_of_lt lt]

theorem alu_rol (w : Nat) (h : 0 < w) (a b : BitVec w) :
    BitVec.ofNat w (aluRol w a.toNat b.toNat) = a.rotateLeft (b.toNat % w) := by
  have hk : b.toNat % w < w := Nat.mod_lt _ h
  rw [aluRol, rol_nat w _ a hk.le]
  apply BitVec.eq_of_toNat_eq
  rw [BitVec.toNat_rotateLeft, Nat.mod_eq_of_lt hk, BitVec.toNat_ofNat, Nat.shiftLeft_eq, Nat.shiftRight_eq_div_pow,
    Nat.mod_eq_of_lt]
  exact Nat.or_lt_two_pow (Nat.mod_lt _ (by positivity)) (lt_of_le_of_lt (Nat.div_le_self _ _) a.isLt)

theorem alu_ror (w : Nat) (h : 0 < w) (a b : BitVec w) :
    BitVec.ofNat w (aluRor w a.toNat b.toNat) = a.rotateRight (b.toNat % w) := by
  have hk : b.toNat % w < w := Nat.mod_lt _ h
  apply BitVec.eq_of_toNat_eq
  rw [BitVec.toNat_rotateRight, Nat.mod_eq_of_lt hk, Nat.shiftLeft_eq, Nat.shiftRight_eq_div_pow, aluRor, aluRol]
  rcases Nat.eq_zero_or_pos (b.toNat % w) with h0 | h0
  · rw [h0, Nat.sub_zero, Nat.mod_self]
    simp [Nat.mod_eq_of_lt a.isLt, Nat.div_eq_of_lt a.isLt]
  · rw [Nat.mod_eq_of_lt (by omega : w - b.toNat % w < w), rol_nat w _ a (by omega), BitVec.toNat_ofNat,
      Nat.mod_eq_of_lt]
    · rw [Nat.lor_comm, show w - (w - b.toNat % w) = b.toNat % w by omega]
    · exact Nat.or_lt_two_pow (Nat.mod_lt _ (by positivity)) (lt_of_le_of_lt (Nat.div_le_self _ _) a.isLt)

theorem alu_min (w : Nat) (h : 0 < w) (a b : BitVec w) :
    BitVec.ofNat w (aluMin w a.toNat b.toNat) = if a.sle b then a else b := by
  rw [aluMin, sgn_of w a h, sgn_of w b h]
  simp only [BitVec.sle, decide_eq_true_eq]
  split <;> simp
theorem alu_max (w : Nat) (h : 0 < w) (a b : BitVec w) :
    BitVec.ofNat w (aluMax w a.toNat b.toNat) = if b.sle a then a else b := by
  rw [aluMax, sgn_of w a h, sgn_of w b h]
  simp only [BitVec.sle, decide_eq_true_eq]
  split <;> simp
theorem alu_minn (w : Nat) (a b : BitVec w) :
    BitVec.ofNat w (aluMinn w a.toNat b.toNat) = if a.ule b then a else b := by
  rw [aluMinn]
  simp only [BitVec.ule, decide_eq_true_eq]
  split <;> simp
theorem alu_maxn (w : Nat) (a b : BitVec w) :
    BitVec.ofNat w (aluMaxn w a.toNat b.toNat) = if b.ule a then a else b := by
  rw [aluMaxn]
  simp only [BitVec.ule, decide_eq_true_eq]
  split <;> simp

theorem ofNat_bool (w : Nat) (c : Bool) : BitVec.ofNat w (boolNat c) = if c then 1 else 0 := by
  cases c <;> simp [boolNat]

theorem eq_toNat (w : Nat) (a b : BitVec w) : (a.toNat == b.toNat) = (a == b) := by
  rw [Bool.eq_iff_iff]
  simp [BitVec.toNat_inj]

theorem alu_cmpeq (w : Nat) (a b : BitVec w) : BitVec.ofNat w (aluCmpeq w a.toNat b.toNat) = if a == b then 1 else 0 := by
  rw [aluCmpeq, ofNat_bool, eq_toNat]
theorem alu_cmpne (w : Nat) (a b : BitVec w) : BitVec.ofNat w (aluCmpne w a.toNat b.toNat) = if a != b then 1 else 0 := by
  rw [aluCmpne, ofNat_bool, bne, eq_toNat, bne]
theorem alu_cmplt (w : Nat) (h : 0 < w) (a b : BitVec w) :
    BitVec.ofNat w (aluCmplt w a.toNat b.toNat) = if a.slt b then 1 else 0 := by
  rw [aluCmplt, ofNat_bool, sgn_of w a h, sgn_of w b h]; rfl
theorem alu_cmpltn (w : Nat) (a b : BitVec w) : BitVec.ofNat w (aluCmpltn w a.toNat b.toNat) = if a.ult b then 1 else 0 := by
  rw [aluCmpltn, ofNat_bool]; rfl
theorem alu_cmple (w : Nat) (h : 0 < w) (a b : BitVec w) :
    BitVec.ofNat w (aluCmple w a.toNat b.toNat) = if a.sle b then 1 else 0 := by
  rw [aluCmple, ofNat_bool, sgn_of w a h, sgn_of w b h]; rfl
theorem alu_cmplen (w : Nat) (a b : BitVec w) : BitVec.ofNat w (aluCmplen w a.toNat b.toNat) = if a.ule b then 1 else 0 := by
  rw [aluCmplen, ofNat_bool]; rfl

theorem alu_abs (w : Nat) (h : 0 < w) (a : BitVec w) : BitVec.ofNat w (aluAbs w a.toNat) = if a.msb then -a else a := by
  rw [aluAbs, sgn_of w a h, ofNat_wrap]
  split <;> rename_i hm
  · have : a.toInt < 0 := by
      rw [BitVec.toInt_eq_msb_cond, if_pos hm]
      have h2 : (a.toNat : Int) < 2 ^ w := by exact_mod_cast a.isLt
      push_cast
      omega
    rw [show ((a.toInt.natAbs : Nat) : Int) = -a.toInt by omega, BitVec.ofInt_neg, BitVec.ofInt_toInt]
  · have : 0 ≤ a.toInt := BitVec.toInt_nonneg_of_msb_false (by simpa using hm)
    rw [show ((a.toInt.natAbs : Nat) : Int) = a.toInt by omega, BitVec.ofInt_toInt]

theorem alu_neg (w : Nat) (a : BitVec w) : BitVec.ofNat w (aluNeg w a.toNat) = -a := by
  apply BitVec.eq_of_toNat_eq
  rw [aluNeg, BitVec.toNat_ofNat, BitVec.toNat_neg]

/-! ## Bits -/

theorem bitOf_testBit (a k : Nat) : bitOf a k = a.testBit k := by
  rw [bitOf, Nat.testBit_eq_decide_div_mod_eq]
  rfl

theorem clzOf_length (a n : Nat) :
    clzOf a n = ((List.range n).takeWhile (fun k => !bitOf a (n - 1 - k))).length := by
  induction n with
  | zero => rfl
  | succ n ih =>
    rw [List.range_succ_eq_map, List.takeWhile_cons, clzOf]
    simp only [Nat.add_sub_cancel, Nat.sub_zero]
    by_cases hb : bitOf a n = true
    · simp [hb]
    · simp only [hb, Bool.not_eq_true] at *
      simp only [Bool.false_eq_true, if_false, if_true, Bool.not_false, List.length_cons, List.takeWhile_map, List.length_map, ih]
      rw [Nat.add_comm]
      congr 3
      funext k
      simp only [Function.comp, Nat.succ_eq_add_one]
      congr 2
      omega

theorem ctzOf_length (a n : Nat) : ctzOf a n = ((List.range n).takeWhile (fun k => !bitOf a k)).length := by
  induction n generalizing a with
  | zero => rfl
  | succ n ih =>
    rw [List.range_succ_eq_map, List.takeWhile_cons, ctzOf]
    by_cases hb : a % 2 = 1
    · simp [bitOf, hb]
    · simp only [bitOf, Nat.pow_zero, Nat.div_one, hb, beq_eq_false_iff_ne.2 hb, Bool.not_false, if_true, if_false, List.length_cons,
        List.takeWhile_map, List.length_map, ih]
      rw [Nat.add_comm]
      congr 3
      funext k
      simp only [Function.comp, Nat.succ_eq_add_one]
      rw [Nat.div_div_eq_div_mul, pow_succ, Nat.mul_comm 2]

theorem popOf_length (a n : Nat) : popOf a n = ((List.range n).filter (fun k => bitOf a k)).length := by
  induction n generalizing a with
  | zero => rfl
  | succ n ih =>
    rw [List.range_succ_eq_map, List.filter_cons, popOf, ih, List.filter_map, ]
    have h : (fun k => bitOf (a / 2) k) = (fun k => bitOf a k) ∘ Nat.succ := by
      funext k
      simp only [Function.comp, bitOf, Nat.succ_eq_add_one]
      rw [Nat.div_div_eq_div_mul, pow_succ, Nat.mul_comm 2]
    rw [h]
    have h0 : bitOf a 0 = decide (a % 2 = 1) := by simp [bitOf]; rfl
    rw [h0]
    rcases Nat.mod_two_eq_zero_or_one a with e | e <;> simp [e, Nat.add_comm]

theorem revOf_testBit (a n k : Nat) : (revOf a n).testBit k = (decide (k < n) && a.testBit (n - 1 - k)) := by
  induction n generalizing a k with
  | zero => simp [revOf]
  | succ n ih =>
    rw [revOf]
    have hlt : revOf (a / 2) n < 2 ^ n := by
      apply Nat.lt_pow_two_of_testBit
      intro j hj
      rw [ih]; simp; omega
    rw [Nat.mul_comm, Nat.testBit_two_pow_mul_add _ hlt]
    by_cases hk : k < n
    · rw [if_pos hk, ih, decide_eq_true hk, decide_eq_true (by omega : k < n + 1), ← Nat.testBit_succ]
      congr 2
      omega
    · rw [if_neg hk]
      by_cases e : k = n
      · subst e
        have : (a % 2).testBit 0 = a.testBit 0 := by
          simp [Nat.testBit_zero]
        simp [this]
      · rw [decide_eq_false (by omega : ¬ k < n + 1), Bool.false_and]
        have : a % 2 < 2 ^ 1 := by omega
        exact Nat.testBit_lt_two_pow (lt_of_lt_of_le this (Nat.pow_le_pow_right (by omega) (by omega)))

theorem alu_brev (w : Nat) (a : BitVec w) : BitVec.ofNat w (aluBrev w a.toNat) = a.reverse := by
  apply BitVec.eq_of_getLsbD_eq
  intro k hk
  rw [BitVec.getLsbD_reverse, BitVec.getLsbD_ofNat, aluBrev, revOf_testBit, BitVec.getMsbD]
  simp [hk, BitVec.testBit_toNat]

theorem alu_clz (w : Nat) (a : BitVec w) :
    aluClz w a.toNat = ((List.range w).takeWhile (fun k => !a.getLsbD (w - 1 - k))).length := by
  simp only [aluClz, clzOf_length, bitOf_testBit, BitVec.testBit_toNat]
theorem alu_ctz (w : Nat) (a : BitVec w) :
    aluCtz w a.toNat = ((List.range w).takeWhile (fun k => !a.getLsbD k)).length := by
  simp only [aluCtz, ctzOf_length, bitOf_testBit, BitVec.testBit_toNat]
theorem alu_popc (w : Nat) (a : BitVec w) :
    aluPopc w a.toNat = ((List.range w).filter (fun k => a.getLsbD k)).length := by
  simp only [aluPopc, popOf_length, bitOf_testBit, BitVec.testBit_toNat]

/-! ## Fields -/

theorem getField_testBit (w : Word) (lo n k : Nat) : (getField w lo n).testBit k = (decide (k < n) && w.getLsbD (lo + k)) := by
  rw [getField, fld, Nat.testBit_mod_two_pow, Nat.testBit_div_two_pow, Nat.add_comm k, BitVec.testBit_toNat]

theorem putField_getLsbD (w : Word) (lo n v k : Nat) (hk : k < 64) :
    (putField w lo n v).getLsbD k = if lo ≤ k ∧ k < lo + n then v.testBit (k - lo) else w.getLsbD k := by
  have h1 : ((2 ^ n - 1) * 2 ^ lo).testBit k = (decide (lo ≤ k) && decide (k < lo + n)) := by
    rw [Nat.mul_comm, Nat.testBit_two_pow_mul, Nat.testBit_two_pow_sub_one]
    by_cases h : lo ≤ k
    · simp [h]; omega
    · simp [h]
  have h2 : (v % 2 ^ n * 2 ^ lo).testBit k = (decide (lo ≤ k) && (decide (k - lo < n) && v.testBit (k - lo))) := by
    rw [Nat.mul_comm, Nat.testBit_two_pow_mul, Nat.testBit_mod_two_pow]
  rw [putField, BitVec.getLsbD_or, BitVec.getLsbD_and, BitVec.getLsbD_not, BitVec.getLsbD_ofNat, BitVec.getLsbD_ofNat, h1, h2]
  by_cases ha : lo ≤ k <;> by_cases hb : k < lo + n <;> simp [ha, hb, hk]
  all_goals (intro h; omega)

end Sys2Proof.Machine
end

