-- ==== Sys2Proof/Tests/Slice0.lean ====
section
/-! SUPPORT. The model's own tests: decoding of words written from the opcode table, ill-formed terms, and for every statement with
hypotheses a state and operands that meet them. -/
namespace Sys2Proof.Tests
set_option maxRecDepth 100000
set_option Elab.async false
open Sys2Proof Sys2Proof.Machine

/-! ## Decoding: one word of each instruction

Each word is written from the row of the instruction in the opcode table: its fields and fixed bits from bit 31 down, an underscore between
them. -/

theorem words_integer_1 :
    decode 0b000010_0110_1100_1010_00000000_10_0000 = .ok (.add 6 12 10 .w16) ∧
    decode 0b000010_0110_1100_1010_00000001_10_0000 = .ok (.sub 6 12 10 .w16) ∧
    decode 0b000010_0110_1100_1010_00000010_10_0000 = .ok (.mul 6 12 10 .w16) ∧
    decode 0b000010_0110_1100_1010_00000011_10_0000 = .ok (.mulh 6 12 10 .w16) ∧
    decode 0b000010_0110_1100_1010_00000100_10_0000 = .ok (.mulhn 6 12 10 .w16) ∧
    decode 0b000010_0110_1100_1010_00000101_10_0000 = .ok (.div 6 12 10 .w16) ∧
    decode 0b000010_0110_1100_1010_00000110_10_0000 = .ok (.divn 6 12 10 .w16) ∧
    decode 0b000010_0110_1100_1010_00000111_10_0000 = .ok (.rem 6 12 10 .w16) ∧
    decode 0b000010_0110_1100_1010_00001000_10_0000 = .ok (.remn 6 12 10 .w16) ∧
    decode 0b000010_0110_1100_1010_00010000_10_0000 = .ok (.and 6 12 10 .w16) ∧
    decode 0b000010_0110_1100_1010_00010001_10_0000 = .ok (.andn 6 12 10 .w16) ∧
    decode 0b000010_0110_1100_1010_00010010_10_0000 = .ok (.or 6 12 10 .w16) ∧
    decode 0b000010_0110_1100_1010_00010011_10_0000 = .ok (.xor 6 12 10 .w16) ∧
    decode 0b000010_0110_1100_1010_00011000_10_0000 = .ok (.shl 6 12 10 .w16) ∧
    decode 0b000010_0110_1100_1010_00011001_10_0000 = .ok (.shr 6 12 10 .w16) ∧
    decode 0b000010_0110_1100_1010_00011010_10_0000 = .ok (.sra 6 12 10 .w16) ∧
    decode 0b000010_0110_1100_1010_00011011_10_0000 = .ok (.rol 6 12 10 .w16) ∧
    decode 0b000010_0110_1100_1010_00011100_10_0000 = .ok (.ror 6 12 10 .w16) ∧
    decode 0b000010_0110_1100_1010_00100000_10_0000 = .ok (.min 6 12 10 .w16) ∧
    decode 0b000010_0110_1100_1010_00100001_10_0000 = .ok (.max 6 12 10 .w16) ∧
    decode 0b000010_0110_1100_1010_00100010_10_0000 = .ok (.minn 6 12 10 .w16) ∧
    decode 0b000010_0110_1100_1010_00100011_10_0000 = .ok (.maxn 6 12 10 .w16) ∧
    decode 0b000010_0110_1100_1010_00100100000000 = .ok (.sel 6 12 10) ∧
    decode 0b000010_0110_1100_1010_00101000_10_0000 = .ok (.cmpeq 6 12 10 .w16) :=
  ⟨rfl, rfl, rfl, rfl, rfl, rfl, rfl, rfl, rfl, rfl, rfl, rfl, rfl, rfl, rfl, rfl, rfl, rfl, rfl, rfl, rfl, rfl, rfl, rfl⟩

theorem words_integer_2 :
    decode 0b000010_0110_1100_1010_00101001_10_0000 = .ok (.cmpne 6 12 10 .w16) ∧
    decode 0b000010_0110_1100_1010_00101010_10_0000 = .ok (.cmplt 6 12 10 .w16) ∧
    decode 0b000010_0110_1100_1010_00101011_10_0000 = .ok (.cmpltn 6 12 10 .w16) ∧
    decode 0b000010_0110_1100_1010_00101100_10_0000 = .ok (.cmple 6 12 10 .w16) ∧
    decode 0b000010_0110_1100_1010_00101101_10_0000 = .ok (.cmplen 6 12 10 .w16) ∧
    decode 0b000010_0110_1100_000000110000_10_0000 = .ok (.abs 6 12 .w16) ∧
    decode 0b000010_0110_1100_000000110001_10_0000 = .ok (.neg 6 12 .w16) ∧
    decode 0b000010_0110_1100_000000110010_10_0000 = .ok (.clz 6 12 .w16) ∧
    decode 0b000010_0110_1100_000000110011_10_0000 = .ok (.ctz 6 12 .w16) ∧
    decode 0b000010_0110_1100_000000110100_10_0000 = .ok (.popc 6 12 .w16) ∧
    decode 0b000010_0110_1100_000000110101_10_0000 = .ok (.brev 6 12 .w16) ∧
    decode 0b000010_0110_1100_1010_00111000000000 = .ok (.bfx 6 12 10) ∧
    decode 0b000010_0110_1100_1010_00111001000000 = .ok (.bfxs 6 12 10) ∧
    decode 0b000010_0110_1100_1010_00111010000000 = .ok (.bfi 6 12 10) ∧
    decode 0b000010_0110_1100_000000111011_10_0000 = .ok (.sext 6 12 .w16) ∧
    decode 0b000010_0110_1100_000000111100_10_0000 = .ok (.zext 6 12 .w16) ∧
    decode 0b000010_0110_1100_000000111101000000 = .ok (.mov 6 12) :=
  ⟨rfl, rfl, rfl, rfl, rfl, rfl, rfl, rfl, rfl, rfl, rfl, rfl, rfl, rfl, rfl, rfl, rfl⟩

theorem words_immediate :
    decode 0b000011_0110_1100_110101001011011010 = .ok (.addi 6 12 0x352DA) ∧
    decode 0b000100_0110_1100_110101001011011010 = .ok (.andi 6 12 0x352DA) ∧
    decode 0b000101_0110_1100_110101001011011010 = .ok (.ori 6 12 0x352DA) ∧
    decode 0b000110_0110_1100_110101001011011010 = .ok (.xori 6 12 0x352DA) ∧
    decode 0b001011_0110_1100_110101001011011010 = .ok (.muli 6 12 0x352DA) ∧
    decode 0b000111_0110_1100_000000000000_111010 = .ok (.shli 6 12 58) ∧
    decode 0b000111_0110_1100_010000000000_111010 = .ok (.shri 6 12 58) ∧
    decode 0b000111_0110_1100_100000000000_111010 = .ok (.srai 6 12 58) ∧
    decode 0b001000_0110_1100_0100_11001011011010 = .ok (.cmpi 6 12 .ltn 0x32DA) ∧
    decode 0b001001_0110_10_1_000_1101001011011010 = .ok (.movw 6 2 true 0xD2DA) :=
  ⟨rfl, rfl, rfl, rfl, rfl, rfl, rfl, rfl, rfl, rfl⟩

theorem words_address :
    decode 0b001010_0110_1100_101_0_10_00_1011011010 = .ok (.lea 6 12 5 .b32 0x2DA) :=
  rfl

theorem words_control :
    decode 0b001100_0100_0110_110101001011011010 = .ok (.b .ltn 6 0x352DA) ∧
    decode 0b001101_0100_0110_1100_11001011011010 = .ok (.bc .ltn 6 12 0x32DA) ∧
    decode 0b0100000001_0110_110101001011011010 = .ok (.loop 6 0x352DA) ∧
    decode 0b001110_11011010110101001011011010 = .ok (.call 0x36B52DA) ∧
    decode 0b0011110000_0110_000000000000000000 = .ok (.jr 6) ∧
    decode 0b00111100001111000000000000000000 = .ok .ret ∧
    decode 0b0011110000_0110_000000000001000000 = .ok (.callr 6) ∧
    decode 0b010001_11010_1010_11010_1010_00000000 = .ok (.repf 26 10 26 10) ∧
    decode 0b010010_0110_10_011110011_10010100001 = .ok (.burn 6 2 0xF3 0x4A1) ∧
    decode 0b010011_0110_1100_1010_00000100000000 = .ok (.burnr 6 12 10) ∧
    decode 0b010011_0110_0000000000001000000000 = .ok (.burnq 6) ∧
    decode 0b01001100000000000000000000000000 = .ok .burne :=
  ⟨rfl, rfl, rfl, rfl, rfl, rfl, rfl, rfl, rfl, rfl, rfl, rfl⟩

theorem words_scalar_memory :
    decode 0b010100_0110_1100_101_0_10_0_1_1011011010 = .ok (.ld 6 12 5 .b32 true 0x2DA) ∧
    decode 0b010101_0110_1100_101_0_10_0_1_1011011010 = .ok (.ldn 6 12 5 .b32 true 0x2DA) ∧
    decode 0b010110_0110_1100_101_0_10_1_0_1011011010 = .ok (.st 6 12 5 .b32 true 0x2DA) :=
  ⟨rfl, rfl, rfl⟩

theorem words_vector_memory :
    decode 0b010111_1101_0110_101_101_01_1_111011010 = .ok (.ldv 29 6 5 .v32 true 0x1DA) ∧
    decode 0b011000_1101_0110_101_101_10_1_111011010 = .ok (.stv 29 6 5 .v32 true 0x1DA) ∧
    decode 0b011001_11101_00110_1010_101_000_1010_1_0 = .ok (.ldvg 29 6 10 5 .f32 true) ∧
    decode 0b011001_11101_00110_1010_101_001_1010_1_0 = .ok (.stvs 29 6 10 5 .f32 true) :=
  ⟨rfl, rfl, rfl, rfl⟩

theorem words_tagged :
    decode 0b011010_0110_1100_101_000000000000_011 = .ok (.ldf 6 12 5 .pkg) ∧
    decode 0b011010_0110_1100_101_000000001000_011 = .ok (.ldfe 6 12 5 .pkg) ∧
    decode 0b011010_0110_1100_101_000000010000_011 = .ok (.stf 6 12 5 .pkg) ∧
    decode 0b011010_0110_1100_101_000000011000_011 = .ok (.stef 6 12 5 .pkg) ∧
    decode 0b011010_0110_1100_101_000000100000_011 = .ok (.tagrd 6 12 5 .pkg) ∧
    decode 0b011010_0001_1100_101_000000101000_011 = .ok (.tagset 1 12 5 .pkg) :=
  ⟨rfl, rfl, rfl, rfl, rfl, rfl⟩

theorem words_atomics :
    decode 0b011011_0110_1100_101_1010_0000_1_1_10_011 = .ok (.aadd 6 12 5 10 true true .rel .pkg) ∧
    decode 0b011011_0110_1100_101_1010_0001_1_1_10_011 = .ok (.aand 6 12 5 10 true true .rel .pkg) ∧
    decode 0b011011_0110_1100_101_1010_0010_1_1_10_011 = .ok (.aor 6 12 5 10 true true .rel .pkg) ∧
    decode 0b011011_0110_1100_101_1010_0011_1_1_10_011 = .ok (.axor 6 12 5 10 true true .rel .pkg) ∧
    decode 0b011011_0110_1100_101_1010_0100_1_1_10_011 = .ok (.amin 6 12 5 10 true true .rel .pkg) ∧
    decode 0b011011_0110_1100_101_1010_0101_1_1_10_011 = .ok (.amax 6 12 5 10 true true .rel .pkg) ∧
    decode 0b011011_0110_1100_101_1010_0110_1_1_10_011 = .ok (.aminn 6 12 5 10 true true .rel .pkg) ∧
    decode 0b011011_0110_1100_101_1010_0111_1_1_10_011 = .ok (.amaxn 6 12 5 10 true true .rel .pkg) ∧
    decode 0b011011_0110_1100_101_1010_1000_1_1_10_011 = .ok (.axch 6 12 5 10 true true .rel .pkg) ∧
    decode 0b011011_0110_1100_101_1010_1010_1_1_10_011 = .ok (.afadd 6 12 5 10 true true .rel .pkg) ∧
    decode 0b011011_0110_1100_101_1010_1001_1_1_10_011 = .ok (.acas 6 12 5 10 true .rel .pkg) ∧
    decode 0b011011_0110_1100_101_1010_10110_1_10_011 = .ok (.ahx 6 12 5 10 true .rel .pkg) :=
  ⟨rfl, rfl, rfl, rfl, rfl, rfl, rfl, rfl, rfl, rfl, rfl, rfl⟩

theorem words_fences :
    decode 0b011100000000000000000000000_10_011 = .ok (.fence .rel .pkg) ∧
    decode 0b011100_0110_0000000000000001000_011 = .ok (.fences 6 .pkg) ∧
    decode 0b0111000000_0110_101_000000010000_011 = .ok (.dcwb 6 5 .pkg) ∧
    decode 0b0111000000_0110_101_000000011000_010 = .ok (.pf 6 5 .hearth) :=
  ⟨rfl, rfl, rfl, rfl⟩

theorem words_links_and_messages :
    decode 0b011101_0110_1100_0000000000_1010_1010 = .ok (.putn 6 12 10 10) ∧
    decode 0b011101_0110_0000000000000100000000 = .ok (.xclr 6) ∧
    decode 0b011101_0110_1100_000000001000000000 = .ok (.xpres 6 12) ∧
    decode 0b011110_0110_1100_1010_000000000_1_1_110 = .ok (.send 6 12 10 true true 6) ∧
    decode 0b011110_0110_1100_1010_00000100000_110 = .ok (.recv 6 12 10 6) ∧
    decode 0b01111000000000000000001000000000 = .ok .spkret :=
  ⟨rfl, rfl, rfl, rfl, rfl, rfl⟩

theorem words_threads :
    decode 0b011111_0110_1100_1010_000000000_1_1101 = .ok (.spawn 6 12 10 true 13) ∧
    decode 0b011111_0110_000000000000010000_1110 = .ok (.reap 6 14) ∧
    decode 0b011111_0110_1100_1010_0000100000000_1 = .ok (.launch 6 12 10 true) ∧
    decode 0b01111100000000000000001100000000 = .ok .exit ∧
    decode 0b011111_0110_1100_000000010000000000 = .ok (.migr 6 12) ∧
    decode 0b011111_0110_0000000000010100000000 = .ok (.dtask 6) ∧
    decode 0b011111_0110_1100_000000011000000000 = .ok (.slotq 6 12) :=
  ⟨rfl, rfl, rfl, rfl, rfl, rfl, rfl⟩

theorem words_system :
    decode 0b00000000000000000000000000000001 = .ok .nop ∧
    decode 0b00000000000000000000000000000010 = .ok .halt ∧
    decode 0b00000000000000000000000000000011 = .ok .wfi ∧
    decode 0b00000000000000000000000000000100 = .ok .yield ∧
    decode 0b00000000000000000000000000000101 = .ok .isync ∧
    decode 0b00000000000000000000000000000110 = .ok .eret ∧
    decode 0b00000000000000000000000000000111 = .ok .uiret ∧
    decode 0b00000000000000_101011011010_001000 = .ok (.trap 0xADA) ∧
    decode 0b00000000000000_101011011010_001001 = .ok (.brk 0xADA) ∧
    decode 0b000001_0110_0000_101011011010_000000 = .ok (.mfc 6 0xADA) ∧
    decode 0b0000010000_0110_101011011010_000001 = .ok (.mtc 6 0xADA) ∧
    decode 0b000001_0110_1100_000000000_101_000010 = .ok (.segld 6 12 5) ∧
    decode 0b000001_0110_000000000000_1_101_000011 = .ok (.segrd 6 true 5) ∧
    decode 0b0000010000_0110_000000_10_0_011_000100 = .ok (.tlbi 6 2 .pkg) :=
  ⟨rfl, rfl, rfl, rfl, rfl, rfl, rfl, rfl, rfl, rfl, rfl, rfl, rfl, rfl⟩

theorem words_vector_integer :
    decode 0b100000_11101_00110_10011_0000000_101_1 = .ok (.vadd 29 6 19 .n32 true) ∧
    decode 0b100000_11101_00110_10011_0000010_101_1 = .ok (.vsub 29 6 19 .n32 true) ∧
    decode 0b100000_11101_00110_10011_0000100_101_1 = .ok (.vmul 29 6 19 .n32 true) ∧
    decode 0b100000_11101_00110_10011_0000110_101_1 = .ok (.vmulh 29 6 19 .n32 true) ∧
    decode 0b100000_11101_00110_10011_0001000_101_1 = .ok (.vadds 29 6 19 .n32 true) ∧
    decode 0b100000_11101_00110_10011_0001010_101_1 = .ok (.vsubs 29 6 19 .n32 true) ∧
    decode 0b100000_11101_00110_10011_0001100_101_1 = .ok (.vmin 29 6 19 .n32 true) ∧
    decode 0b100000_11101_00110_10011_0001110_101_1 = .ok (.vmax 29 6 19 .n32 true) ∧
    decode 0b100000_11101_00110_10011_0010000_101_1 = .ok (.vand 29 6 19 .n32 true) ∧
    decode 0b100000_11101_00110_10011_0010010_101_1 = .ok (.vor 29 6 19 .n32 true) ∧
    decode 0b100000_11101_00110_10011_0010100_101_1 = .ok (.vxor 29 6 19 .n32 true) ∧
    decode 0b100000_11101_00110_10011_0010110_101_1 = .ok (.vshl 29 6 19 .n32 true) ∧
    decode 0b100000_11101_00110_10011_0011000_101_1 = .ok (.vshr 29 6 19 .n32 true) ∧
    decode 0b100000_11101_00110_10011_0011010_101_1 = .ok (.vsra 29 6 19 .n32 true) ∧
    decode 0b100000_11101_00110_000000011100_10_0_1 = .ok (.vabs 29 6 .s32 true) :=
  ⟨rfl, rfl, rfl, rfl, rfl, rfl, rfl, rfl, rfl, rfl, rfl, rfl, rfl, rfl, rfl⟩

theorem words_vector_float :
    decode 0b100001_11101_00110_10011_00000010_10_1 = .ok (.vfadd 29 6 19 .f32 true) ∧
    decode 0b100001_11101_00110_10011_00000110_10_1 = .ok (.vfsub 29 6 19 .f32 true) ∧
    decode 0b100001_11101_00110_10011_00001010_10_1 = .ok (.vfmul 29 6 19 .f32 true) ∧
    decode 0b100001_11101_00110_10011_00001110_10_1 = .ok (.vfmin 29 6 19 .f32 true) ∧
    decode 0b100001_11101_00110_10011_00010010_10_1 = .ok (.vfmax 29 6 19 .f32 true) ∧
    decode 0b100001_11101_00110_0000000010110_10_1 = .ok (.vfabs 29 6 .f32 true) ∧
    decode 0b100001_11101_00110_0000000011010_10_1 = .ok (.vfneg 29 6 .f32 true) ∧
    decode 0b100010_11101_00110_10011_00000010_10_1 = .ok (.vfma 29 6 19 .f32 true) ∧
    decode 0b100010_11101_00110_10011_00000110_10_1 = .ok (.vfms 29 6 19 .f32 true) ∧
    decode 0b100010_11101_00110_10011_00001010_10_1 = .ok (.vfnma 29 6 19 .f32 true) :=
  ⟨rfl, rfl, rfl, rfl, rfl, rfl, rfl, rfl, rfl, rfl⟩

theorem words_vector_lanes :
    decode 0b100011_11101_00000_1100_000000_1010_1_0 = .ok (.vbcast 29 12 .f32 true) ∧
    decode 0b100011_11101_01101_1100_00100_1_0001_00 = .ok (.vins 29 45 12 .n8) ∧
    decode 0b100011_11101_01101_1100_01000_1_0001_00 = .ok (.vext 29 45 12 .n8) ∧
    decode 0b100011_11101_00110_1010_011000_1010_1_0 = .ok (.vaddx 29 6 10 .f32 true) ∧
    decode 0b100011_11101_00110_1010_100000_1010_1_0 = .ok (.vfmulx 29 6 10 .f32 true) ∧
    decode 0b101000_11101_00110_10011_000000_1010_1 = .ok (.vperm 29 6 19 .f32 true) ∧
    decode 0b101000_11101_00110_11010_000001_1010_1 = .ok (.vslide 29 6 26 .f32 true) ∧
    decode 0b101000_11101_00110_11010_000010_1010_1 = .ok (.vslideUp 29 6 26 .f32 true) ∧
    decode 0b101000_11101_00110_11010_000011_1010_1 = .ok (.vrot 29 6 26 .f32 true) ∧
    decode 0b101011_11101_00110_10011_000000000_1_1 = .ok (.vdot4 29 6 19 .n8 true) ∧
    decode 0b101011_11101_00110_10011_000001110_1_1 = .ok (.vdotf8 29 6 19 .e5m2 true) :=
  ⟨rfl, rfl, rfl, rfl, rfl, rfl, rfl, rfl, rfl, rfl, rfl⟩

theorem words_vector_masks :
    decode 0b100100000_11_00110_10011_00_1001_0100_1 = .ok (.vcmp 3 6 19 .gtn .s32 true) ∧
    decode 0b100100_11101_00110_10011_010000_1010_0 = .ok (.vsel 29 6 19 .f32) ∧
    decode 0b100100000_11_000_01_000_10_01000100000 = .ok (.mand 3 1 2) ∧
    decode 0b100100000_11_000_01_000_10_01001000000 = .ok (.mor 3 1 2) ∧
    decode 0b100100000_11_000_01_0000001001100000 = .ok (.mnot 3 1) ∧
    decode 0b1001000_0110_000_01_00000010100_1010_1 = .ok (.mpopc 6 1 .f32 true) :=
  ⟨rfl, rfl, rfl, rfl, rfl, rfl⟩

theorem words_vector_conversions :
    decode 0b100101_11101_00110_00_1_11_1010_10_1100_1 = .ok (.vcvt 29 6 true .rdn .f32 2 .e4m3 true) ∧
    decode 0b100101_11101_00110_1_1010_1010_01_0010_1 = .ok (.vcvts 29 6 10 .f32 1 .s16 true) ∧
    decode 0b100110_11101_00110_0000000000010_01_1 = .ok (.vexp2 29 6 .bf16 true) ∧
    decode 0b100110_11101_00110_0000000000110_01_1 = .ok (.vlog2 29 6 .bf16 true) ∧
    decode 0b100110_11101_00110_0000000001010_01_1 = .ok (.vrcp 29 6 .bf16 true) ∧
    decode 0b100110_11101_00110_0000000001110_01_1 = .ok (.vrsq 29 6 .bf16 true) ∧
    decode 0b100110_11101_00110_0000000010010_01_1 = .ok (.vsqrt 29 6 .bf16 true) ∧
    decode 0b100110_11101_00110_0000000010110_01_1 = .ok (.vtanh 29 6 .bf16 true) ∧
    decode 0b100110_11101_00110_0000000011010_01_1 = .ok (.vsigm 29 6 .bf16 true) :=
  ⟨rfl, rfl, rfl, rfl, rfl, rfl, rfl, rfl, rfl⟩

theorem words_vector_reductions :
    decode 0b100111_11101_00110_00000000000_1010_1 = .ok (.vradd 29 6 .f32 true) ∧
    decode 0b100111_11101_00110_00000000001_1010_1 = .ok (.vrmax 29 6 .f32 true) ∧
    decode 0b100111_11101_00110_00000000010_1010_1 = .ok (.vrmin 29 6 .f32 true) ∧
    decode 0b100111_11101_00110_00000000011_1010_1 = .ok (.vrmaxi 29 6 .f32 true) ∧
    decode 0b100111_11101_00110_00000000100_1010_1 = .ok (.vscan 29 6 .f32 true) :=
  ⟨rfl, rfl, rfl, rfl, rfl⟩

theorem words_vector_others :
    decode 0b101001_11101_00110_10011_000000_1010_1 = .ok (.vsortk 29 6 19 .f32 true) ∧
    decode 0b101001_11101_00110_10011_000001_1010_0 = .ok (.vmergek 29 6 19 .f32) ∧
    decode 0b101010_11101_00110_000000000000101_1 = .ok (.vrnd 29 6 true) ∧
    decode 0b110100_0110_1100_1010_00000000000000 = .ok (.dstkp 6 12 10) ∧
    decode 0b110100_0110_1100_1010_00000100000000 = .ok (.dstka 6 12 10) ∧
    decode 0b11010000000000_0110_00001000000000 = .ok (.dstkc 6) :=
  ⟨rfl, rfl, rfl, rfl, rfl, rfl⟩

theorem words_kiln :
    decode 0b10110000_10_00000000000000_1_1_011_010 = .ok (.kfmt 2 true true .e5m2 .e4m3) ∧
    decode 0b101101_1101_0110_1100_00000_10_1_0_1_0000 = .ok (.kmma 13 6 12 2 true true) ∧
    decode 0b101101_1101_0110_1100_00000_10_1_1_1_0000 = .ok (.kmmas 13 6 12 2 true true) ∧
    decode 0b101101_1101_0000_0110_00001_10_1_0_1_0000 = .ok (.kmmv 13 6 2 true true) ∧
    decode 0b101110_1101_0000000000000000000000 = .ok (.kzero 13) ∧
    decode 0b101110_1101_0110_0000000010000_1_0000 = .ok (.klda 13 6 true) ∧
    decode 0b101110_1101_0110_000000010000000000 = .ok (.ksta 13 6) ∧
    decode 0b101110_1101_0110_000000011_10_0000000 = .ok (.kcvt 13 6 2) ∧
    decode 0b10111000000000000000100000000000 = .ok .ksync ∧
    decode 0b1011110000_0110_1100_00000000000000 = .ok (.kscaleA 6 12) ∧
    decode 0b1011110000_0110_1100_00000100000000 = .ok (.kscaleB 6 12) :=
  ⟨rfl, rfl, rfl, rfl, rfl, rfl, rfl, rfl, rfl, rfl, rfl⟩

theorem words_copies :
    decode 0b1100010000_0110_1100_000000000000_10 = .ok (.cpyw 6 12 2) ∧
    decode 0b110001_0110_0000000000000100000000 = .ok (.cpyq 6) ∧
    decode 0b110001_0110_0000000000001000000000 = .ok (.cpyx 6) ∧
    decode 0b110000_0110_00000000000000000_1_0_011 = .ok (.cpy 6 .rel .pkg) ∧
    decode 0b110000_0110_00000000000001000_1_0_011 = .ok (.cpyt 6 .rel .pkg) ∧
    decode 0b110000_0110_00000000000010000_1_0_011 = .ok (.cpyk 6 .rel .pkg) ∧
    decode 0b110000_0110_00000000000011000_1_0_011 = .ok (.cpys 6 .rel .pkg) :=
  ⟨rfl, rfl, rfl, rfl, rfl, rfl, rfl⟩

theorem words_media :
    decode 0b110010_0110_0000000000000000000001 = .ok (.mwinCount 6) ∧
    decode 0b110010_0110_1100_000000000000000000 = .ok (.mwin 6 12) ∧
    decode 0b110010_0110_0000000000000100000000 = .ok (.mtick 6) ∧
    decode 0b1100100000_0110_000000001000000000 = .ok (.mack 6) :=
  ⟨rfl, rfl, rfl, rfl⟩

theorem words_ordered_reductions :
    decode 0b1100110000_0110_101_1100_00000000_011 = .ok (.dredfF64 6 5 12 .pkg) ∧
    decode 0b1100110000_0110_101_1100_00001000_011 = .ok (.dredfF32 6 5 12 .pkg) ∧
    decode 0b1100110000_0110_101_000000010000_011 = .ok (.dcloseF64 6 5 .pkg) ∧
    decode 0b1100110000_0110_101_000000011000_011 = .ok (.dcloseF32 6 5 .pkg) :=
  ⟨rfl, rfl, rfl, rfl⟩

theorem words_contexts :
    decode 0b110101000000000000000_1_1101_000000 = .ok (.ctxsv true 13) ∧
    decode 0b1101010000_0110_00000000_1101_000001 = .ok (.ctxld 6 13) ∧
    decode 0b11010100000000000000000000000010 = .ok .accspill ∧
    decode 0b11010100000000000000000000000011 = .ok .accfill :=
  ⟨rfl, rfl, rfl, rfl⟩

/-! ## Codes of the operand fields (R43, R45, R63, R220) -/

theorem codes_widths_and_scopes :
    decode 0b000010_0110_1100_1010_00000000_00_0000 = .ok (.add 6 12 10 .w64) ∧
    decode 0b000010_0110_1100_1010_00000000_01_0000 = .ok (.add 6 12 10 .w32) ∧
    decode 0b000010_0110_1100_1010_00000000_11_0000 = .ok (.add 6 12 10 .w8) ∧
    decode 0b010100_0110_1100_101_000_00_0000000000 = .ok (.ld 6 12 5 .b8 false 0) ∧
    decode 0b010100_0110_1100_101_001_00_0000000000 = .ok (.ld 6 12 5 .b16 false 0) ∧
    decode 0b010100_0110_1100_101_011_00_0000000000 = .ok (.ld 6 12 5 .b64 false 0) ∧
    decode 0b011100_00000000000000000000_0_00_000 = .ok (.fence .none .core) ∧
    decode 0b011100_00000000000000000000_0_01_001 = .ok (.fence .acq .clamp) ∧
    decode 0b011100_00000000000000000000_0_10_010 = .ok (.fence .rel .hearth) ∧
    decode 0b011100_00000000000000000000_0_11_100 = .ok (.fence .ar .sys) := ⟨rfl, rfl, rfl, rfl, rfl, rfl, rfl, rfl, rfl, rfl⟩

theorem codes_conditions :
    decode 0b001100_0000_1100_000000000000000001 = .ok (.b .eq 12 1) ∧ decode 0b001100_0001_1100_000000000000000001 = .ok (.b .ne 12 1) ∧
    decode 0b001100_0010_1100_000000000000000001 = .ok (.b .lt 12 1) ∧ decode 0b001100_0011_1100_000000000000000001 = .ok (.b .ge 12 1) ∧
    decode 0b001100_0100_1100_000000000000000001 = .ok (.b .ltn 12 1) ∧ decode 0b001100_0101_1100_000000000000000001 = .ok (.b .gen 12 1) ∧
    decode 0b001100_0110_1100_000000000000000001 = .ok (.b .le 12 1) ∧ decode 0b001100_0111_1100_000000000000000001 = .ok (.b .gt 12 1) ∧
    decode 0b001100_1000_1100_000000000000000001 = .ok (.b .len 12 1) ∧ decode 0b001100_1001_1100_000000000000000001 = .ok (.b .gtn 12 1) ∧
    decode 0b001100_1010_0000_000000000000000001 = .ok (.b .al 0 1) := ⟨rfl, rfl, rfl, rfl, rfl, rfl, rfl, rfl, rfl, rfl, rfl⟩

theorem codes_types :
    ([Ty.s8, .n8, .s16, .n16, .s32, .n32, .s64, .n64, .f16, .bf16, .f32, .f64, .e4m3, .e5m2].map Ty.code) = List.range 14 ∧
    Ty.e2m1.code = 14 ∧ decode 0b100011_00001_00000_1100_000000_1101_0_0 = .ok (.vbcast 1 12 .e5m2 false) ∧
    decode 0b101100_00_10_00000000000000_1_1_010_010 = .ok (.kfmt 2 true true .e4m3 .e4m3) := ⟨rfl, rfl, rfl, rfl⟩

/-! ## Illegal words and ill-formed instructions (R48) -/

theorem illegal_words :
    readWord 0 = none ∧ readWord 0xFFFFFFFF = none ∧ readWord 0b000010_0110_1100_1010_00000000_10_0001 = none ∧
    readWord 0b000010_0110_1100_1010_00001001_10_0000 = none ∧ readWord 0b010100_0110_1100_101_100_00_0000000000 = none ∧
    readWord 0b010100_0110_1100_101_011_10_0000000000 = none ∧ readWord 0b001100_1010_0001_000000000000000001 = none ∧
    readWord 0b011100_00000000000000000000_0_00_101 = none ∧ readWord 0b100000_00001_00010_00011_00000_1111_0 = none := by decide +kernel

theorem illformed_scalar :
    ([.sext 0 0 .w64, .zext 0 0 .w64, .cmpi 0 1 .al 0, .cmpi 0 0 .al 1, .b .al 1 0, .bc .al 1 0 0, .bc .al 0 1 0, .jr 15,
      .burn 0 0 2 1] : List Instr).all (fun i => !wellFormed i) = true := by decide +kernel

theorem illformed_memory :
    ([.ldvg 0 0 0 0 .n16 false, .stvs 0 0 0 0 .f64 false, .tagset 2 0 0 .core, .aadd 1 0 0 0 false false .none .core,
      .aand 1 0 0 0 false false .none .core, .aor 1 0 0 0 false false .none .core, .axor 1 0 0 0 false false .none .core,
      .amin 1 0 0 0 false false .none .core, .amax 1 0 0 0 false false .none .core, .aminn 1 0 0 0 false false .none .core,
      .amaxn 1 0 0 0 false false .none .core, .axch 1 0 0 0 false false .none .core, .afadd 1 0 0 0 false false .none .core,
      .dredfF64 0 0 0 .hearth, .dredfF32 0 0 0 .core, .dcloseF64 0 0 .clamp, .dcloseF32 0 0 .hearth, .dcwb 0 0 .hearth, .pf 0 0 .sys,
      .pf 0 0 .clamp] : List Instr).all (fun i => !wellFormed i) = true := by decide +kernel

theorem illformed_system :
    ([.spawn 0 0 0 false 0, .spawn 0 0 0 false 14, .reap 0 0, .reap 0 15, .ctxsv false 14, .ctxld 0 0, .tlbi 0 3 .pkg, .tlbi 0 0 .core] :
      List Instr).all (fun i => !wellFormed i) = true := by decide +kernel

theorem illformed_vector_lanes :
    ([.vadd 0 0 0 .f32 false, .vsub 0 0 0 .f16 false, .vmul 0 0 0 .bf16 false, .vmulh 0 0 0 .f64 false, .vadds 0 0 0 .e4m3 false,
      .vsubs 0 0 0 .e5m2 false, .vmin 0 0 0 .e2m1 false, .vmax 0 0 0 .f32 false, .vand 0 0 0 .f32 false, .vor 0 0 0 .f32 false,
      .vxor 0 0 0 .f32 false, .vshl 0 0 0 .f32 false, .vshr 0 0 0 .f32 false, .vsra 0 0 0 .f32 false, .vabs 0 0 .n8 false,
      .vfadd 0 0 0 .s32 false, .vfsub 0 0 0 .e4m3 false, .vfmul 0 0 0 .n8 false, .vfmin 0 0 0 .s8 false, .vfmax 0 0 0 .s16 false,
      .vfabs 0 0 .n64 false, .vfneg 0 0 .s64 false, .vfma 0 0 0 .s32 false, .vfms 0 0 0 .n32 false, .vfnma 0 0 0 .e5m2 false,
      .vbcast 0 0 .e2m1 false, .vins 0 0 0 .e2m1, .vins 0 8 0 .s64, .vext 0 16 0 .f32, .vext 0 0 0 .e2m1, .vaddx 0 0 0 .e4m3 false,
      .vfmulx 0 0 0 .s32 false] : List Instr).all (fun i => !wellFormed i) = true := by decide +kernel

theorem illformed_vector_others :
    ([.vcmp 0 0 0 .al .s32 false, .vcmp 0 0 0 .ltn .f32 false, .vcmp 0 0 0 .eq .e4m3 false, .vsel 0 0 0 .e2m1, .mpopc 0 0 .e2m1 false,
      .vcvt 0 0 false .rne .f32 0 .f32 false, .vcvt 0 0 false .rne .f64 0 .s8 false, .vcvt 0 0 false .rne .f32 2 .f16 false,
      .vcvts 0 0 0 .f32 0 .f16 false, .vcvts 0 0 0 .s32 0 .s16 false, .vexp2 0 0 .f64 false, .vlog2 0 0 .s32 false, .vrcp 0 0 .f64 false,
      .vrsq 0 0 .e4m3 false, .vsqrt 0 0 .f64 false, .vtanh 0 0 .f64 false, .vsigm 0 0 .n32 false, .vradd 0 0 .e4m3 false,
      .vrmax 0 0 .e5m2 false, .vrmin 0 0 .e2m1 false, .vrmaxi 0 0 .e4m3 false, .vscan 0 0 .e4m3 false, .vperm 0 0 0 .e2m1 false,
      .vslide 0 0 0 .e2m1 false, .vslideUp 0 0 0 .e2m1 false, .vrot 0 0 0 .e2m1 false, .vdot4 0 0 0 .s16 false,
      .vdotf8 0 0 0 .f16 false, .vsortk 0 0 0 .s64 false, .vmergek 0 0 0 .n16] : List Instr).all (fun i => !wellFormed i) = true := by
  decide +kernel

theorem illformed_kiln :
    ([.kfmt 0 false false .bf16 .f16, .kfmt 0 false false .e2m1 .e4m3, .kmma 0 1 0 0 false false, .kmma 0 0 1 0 false false,
      .kmmas 0 1 0 0 false false, .kmmas 0 0 1 0 false false, .kmmv 0 1 0 false false, .klda 0 1 false, .ksta 0 3, .kcvt 0 5 0] :
      List Instr).all (fun i => !wellFormed i) = true := by decide +kernel

/-! ## The first step after a word is placed -/

theorem test_withFetchWord :
    (∃ t : State, step (State.reset.withFetchWord 32 0b001001_0011_00_0_000_0000000000001000) = .next t ∧ t.me.getX 3 = 8 ∧ t.me.pc = 4) ∧
    decodeTableWord 32 0b001001_0011_00_0_000_0000000000001000 = some (.movw 3 0 false 8) := ⟨⟨_, rfl, rfl, rfl⟩, rfl⟩
/-! ## States for the witnesses -/

/-- Values in x registers. -/
def xs (p : Slot) (l : List (Nat × Nat)) : Slot := l.foldl (fun p e => p.setX (BitVec.ofNat 4 e.1) (BitVec.ofNat 64 e.2)) p

/-- A thread of slot 1: sg1 names 64 KiB of DRAM from 0x1000 by global addresses with rights R, W, T and A, sg7 the core's pool. -/
def thread : Slot :=
  { Slot.free with
    mode := .running
    pc := 0x40
    sg := ((Slot.free.sg.set 0 ⟨0x100000, 0xFFFF, 0x85⟩).set 1 ⟨0x1000, 0xFFFF, 0x9B⟩).set 7 ⟨0x1FFFFFFC0000000, 0x1FFFF, 0x4F⟩ }

/-- Slot 1 of core 0 issues; the core has 32 vector registers, 16 tiles and 8 granules. -/
def st (p : Slot) : State :=
  { State.reset with cur := 1, slots := [(1, p)], cores := [(0, { Core.reset with part := 1091 })] }

/-- The package has accepted its firmware image. -/
def booted (s : State) : State := { s with pkg := { s.pkg with bootState := 1 } }

/-- What holds of the hearths listed and of an untouched one holds of every hearth. -/
theorem hearth_all (s : State) (P : Hearth → Prop) (h0 : P Hearth.reset) (he : ∀ e ∈ s.hearths, P e.2) (k : Nat) : P (s.hearth k) := by
  rw [State.hearth]
  revert he
  induction s.hearths with
  | nil => exact fun _ => h0
  | cons y ys ih =>
    obtain ⟨n, x⟩ := y
    intro he
    by_cases h : n = k
    · simpa [Table.get, Table.find, h] using he (n, x) (by simp)
    · simpa [Table.get, Table.find, h] using ih fun e h => he e (by simp [h])

/-- A slot that burns until DTIME 1000. -/
def burning (p : Slot) : Slot := { p with ctl := { p.ctl with status := 4, burnst := 1, bmin := 500, bmax := 1000 } }

/-- A supervisor. -/
def super (p : Slot) : Slot := { p with ctl := { p.ctl with status := p.ctl.status ||| 1 } }

/-- DTIME is n ns. -/
def at_ (n : Nat) (s : State) : State := { s with clock := n * nsUnits }

/-- The instruction completes its issue in some next state. -/
def Next (i : Instr) (s : State) : Prop := ∃ t, exec i s = .next t

/-! ## Witnesses: integer and address instructions -/

theorem witness_IntegerResults :
    (arithRow (.divn 15 0 14 .w8)).isSome = true ∧ (shiftRow (.ror 3 3 3 .w64)).isSome = true ∧
    (unaryRow (.brev 0 15 .w16)).isSome = true ∧ (st thread).ready (.divn 15 0 14 .w8) = true ∧
    (st thread).ready (.ror 3 3 3 .w64) = true ∧ (st thread).ready (.brev 0 15 .w16) = true := by decide +kernel

theorem witness_ImmediateResults :
    (immediateRow (.addi 15 0 0x20000)).isSome = true ∧ (st thread).ready (.addi 15 0 0x20000) = true ∧
    (st thread).ready (.cmpi 1 2 .le 0) = true ∧ (st thread).ready (.cmpi 1 2 .lt 0x2000) = true := by decide +kernel

theorem witness_ImmediateResults_conditions :
    condition .le ((st thread).me.getX 2) ((0 : BitVec 14).signExtend 64) ∧
    ¬ condition .lt ((st thread).me.getX 2) ((0x2000 : BitVec 14).signExtend 64) := by
  simp only [condition]; decide +kernel

theorem witness_BitfieldResults :
    (st (xs thread [(2, 63 + 256 * 63)])).ready (.bfx 0 1 2) = true ∧ (st thread).ready (.bfxs 0 0 0) = true ∧
    (st (xs thread [(2, 256 * 63)])).ready (.bfi 1 1 2) = true := by decide +kernel

theorem witness_LeaResult :
    (st (xs thread [(2, 0xFFF8)])).ready (.lea 1 2 1 .b64 0) = true ∧ thread.seg 1 ≠ Seg.empty ∧
    ((xs thread [(2, 0xFFF8)]).getX 2).toNat + 8 - 1 = (thread.seg 1).limit.toNat ∧
    (st (xs thread [(2, 0xFFF9)])).ready (.lea 1 2 1 .b64 0) = true ∧
    (thread.seg 1).limit.toNat < ((xs thread [(2, 0xFFF9)]).getX 2).toNat + 8 - 1 ∧
    (st thread).ready (.lea 1 2 2 .b8 0x200) = true ∧ thread.seg 2 = Seg.empty := by decide +kernel

theorem witness_ScalarFrame :
    scalarDest (.popc 15 0 .w32) = some 15 ∧ (st thread).ready (.popc 15 0 .w32) = true ∧ leaInside thread (.popc 15 0 .w32) ∧
    (st thread).inFrame = false ∧ Next (.popc 15 0 .w32) (st thread) := ⟨rfl, by decide +kernel, trivial, rfl, _, rfl⟩

/-! ## Witnesses: control flow, frames and burns -/

theorem witness_BranchResults :
    (st thread).inFrame = false ∧ (st thread).ready (.b .eq 0 0x20000) = true ∧ (st thread).ready (.b .ne 0 1) = true ∧
    (st thread).ready (.bc .ge 1 2 0x2000) = true ∧ (st thread).ready (.bc .ltn 1 2 1) = true ∧
    (st (xs thread [(1, 1)])).ready (.loop 1 0x20000) = true ∧ (st thread).ready (.loop 1 0x3FFFF) = true ∧
    (st thread).ready (.call 0x2000000) = true := by decide +kernel

theorem witness_BranchResults_registers :
    (st (xs thread [(2, 4)])).ready (.jr 2) = true ∧ ((xs thread [(2, 4)]).getX 2).toNat % 4 = 0 ∧
    (st (xs thread [(2, 3)])).ready (.jr 2) = true ∧ ((xs thread [(2, 3)]).getX 2).toNat % 4 ≠ 0 ∧
    (st (xs thread [(15, 8)])).ready .ret = true ∧ ((xs thread [(15, 8)]).getX 15).toNat % 4 = 0 ∧
    (st (xs thread [(15, 1)])).ready .ret = true ∧ ((xs thread [(15, 1)]).getX 15).toNat % 4 ≠ 0 ∧
    (st (xs thread [(15, 8)])).ready (.callr 15) = true ∧ (st (xs thread [(15, 2)])).ready (.callr 15) = true := by decide +kernel

theorem witness_BranchResults_conditions :
    condition .eq (thread.getX 0) 0 ∧ ¬ condition .ne (thread.getX 0) 0 ∧ condition .ge (thread.getX 1) (thread.getX 2) ∧
    ¬ condition .ltn (thread.getX 1) (thread.getX 2) := by simp only [condition]; decide +kernel

/-- VADD v1, v2, v3 as the word after the REPF at 0x40 of the thread's code. -/
def framed : State := (st thread).writeHome 0x100044 (bytesOfNat 4 0x8022180A)

theorem witness_RepeatFrames_capture :
    framed.ready (.repf 3 0 1 0) = true ∧ framed.myCore.frameOf framed.cur = none ∧
    (framed.capture framed.me.pc 1 0).2 = .words [(0x8022180A, some (.vadd 1 2 3 .n32 false))] ∧
    (framed.capture framed.me.pc 1 0).1.frameCheck 4 1 0 [(0x8022180A, some (.vadd 1 2 3 .n32 false))] = none ∧
    (framed.capture framed.me.pc 1 0).1.myCore.frame = none ∧ (framed.capture framed.me.pc 1 0).1.myCore.repfQueue = [] := by
  decide +kernel

/-- The frame of that REPF, before replay j. -/
def frame (j : Nat) : Frame := ⟨1, [.vadd 1 2 3 .n32 false], 3, 1, 0, j, 0, 0x40, false, 0⟩

/-- The core replays the frame in cycle 1. -/
def replaying (j : Nat) : State := { st thread with cycle := 1, cores := [(0, { Core.reset with part := 1091, frame := some (frame j) })] }

theorem witness_RepeatFrames_issue :
    ((replaying 3).core 0).frame = some (frame 3) ∧ (replaying 3).frameReady 0 (frame 3) = true ∧ capturable (frame 3).instr = true ∧
    ((replaying 4).core 0).frame = some (frame 4) ∧ (frame 4).n < (frame 4).j ∧ (frame 4).at_ < (replaying 4).cycleOf 0 := by
  decide +kernel

theorem witness_RepeatFrames_lanes :
    coreOf (frame 3).owner = 0 ∧ (integerLaneRow (frame 3).instr).isSome = true ∧
    ((replaying 3).asFrame (frame 3)).legalIn (frame 3).owner (frame 3).instr = true ∧
    ((replaying 3).asFrame (frame 3)).vregBad (frame 3).instr = none := by decide +kernel

theorem witness_RepeatFrames_effect : Next (frame 3).instr { replaying 3 with cur := 1, inFrame := true, lent := false } := ⟨_, rfl⟩

/-- A handler header with a budget of 7 ns at offset 0x80 of the thread's code. -/
def handled (p : Slot) : State := (st (xs p [(1, 0x80), (2, 5), (3, 5)])).writeHome 0x100080 (bytesOfNat 8 7)

theorem witness_BurnStarts :
    (handled thread).me.burning = false ∧ (handled thread).me.sb = [] ∧ (handled thread).islandFreq 0 = 3600 ∧
    ((handled thread).me.getX 1).toNat % 8 = 0 ∧ ((handled thread).readCode 1 ((handled thread).me.getX 1) 8).2 = .bytes 7 ∧
    7 / 2 ^ 32 % 2 ^ 32 = 0 ∧ ((handled thread).readCode 1 ((handled thread).me.getX 1) 8).1.inFrame = false ∧
    (handled thread).ready (.burn 1 3 0 0x1FF) = true ∧ (handled thread).ready (.burnr 1 2 3) = true ∧
    ((handled thread).me.getX 2).toNat ≤ ((handled thread).me.getX 3).toNat := by decide +kernel

theorem witness_BurnEnds :
    (st (burning thread)).inFrame = false ∧ (st (burning thread)).ready (.burnq 15) = true ∧
    (at_ 500 (st (burning thread))).ready .burne = true ∧ (at_ 500 (st (burning thread))).me.burning = true ∧
    (at_ 500 (st (burning thread))).me.ctl.bmin.toNat ≤ (at_ 500 (st (burning thread))).dtime ∧
    (at_ 499 (st (burning thread))).ready .burne = true ∧
    (at_ 499 (st (burning thread))).dtime < (at_ 499 (st (burning thread))).me.ctl.bmin.toNat ∧
    (st thread).ready .burne = true ∧ (st thread).me.burning = false := by decide +kernel

theorem witness_BurnEnds_complete :
    let p := { burning thread with park := some ⟨.burne, 100, false, false, false, 0⟩ }
    let s := at_ 500 (st p)
    (s.slot 1).mode = .running ∧ (s.slot 1).park = some ⟨.burne, 100, false, false, false, 0⟩ ∧ (s.slot 1).burning = true ∧
    (s.slot 1).ctl.bmin.toNat ≤ s.dtime := by decide +kernel

theorem witness_BurnOverruns :
    let s := at_ 1000 (st (burning thread))
    let h := at_ 1000 (st { burning thread with ctl := { (burning thread).ctl with burnst := 2 } })
    (s.slot 1).mode = .running ∧ (s.slot 1).burning = true ∧ (s.slot 1).park = none ∧ (s.slot 1).ctl.bmax.toNat ≤ s.dtime ∧
    (s.slot 1).burnState = 1 ∧ (h.slot 1).mode = .running ∧ (h.slot 1).burning = true ∧ (h.slot 1).park = none ∧
    (h.slot 1).ctl.bmax.toNat ≤ h.dtime ∧ (h.slot 1).burnState = 2 := by decide +kernel

/-! ## Witnesses: memory -/

/-- An access of the thread through segment g. -/
def acc_ (g : Nat) (o : Word) (size : Nat) (need : BitVec 8) : Access := ⟨g, o, size, size, need, 0, false, true⟩

/-- The thread with a segment that ends at the last address of the package in sg3, one that translation serves in sg4, and one of
package 1 in sg5. -/
def wide : Slot :=
  { thread with
    sg := (((thread.sg.set 3 ⟨0x7FFFFFFFFFFF8, 0xFFFF, 0x9B⟩).set 4 ⟨0x10000, 0xFFFF, 0x1B⟩).set 5 ⟨0x8000000001000, 0xFFFF, 0xBB⟩) }

theorem witness_SegmentChecks :
    ((acc_ 1 4 8 1).o.toNat % (acc_ 1 4 8 1).align ≠ 0) ∧
    (wide.seg 2 = Seg.empty ∧ (acc_ 2 0 8 1).o.toNat % 8 = 0) ∧
    ((wide.seg 1).limit.toNat < (acc_ 1 0xFFFC 8 1).o.toNat + 8 - 1 ∧ wide.seg 1 ≠ Seg.empty) ∧
    ((acc_ 1 0xFFF8 8 4).o.toNat + 8 - 1 ≤ (wide.seg 1).limit.toNat ∧ (wide.seg 1).rights &&& 4 ≠ 4) ∧
    ((acc_ 1 0xFFF8 8 3).o.toNat % 8 = 0 ∧ (wide.seg 1).rights &&& 3 = 3 ∧ (wide.seg 1).rights.getLsbD 7 = true ∧
      (wide.seg 1).base.toNat / 2 ^ 51 = (st wide).pkg.number ∧ (wide.seg 1).base.toNat % 2 ^ 51 + 0xFFF8 + 8 ≤ 0xC000000000) ∧
    ((wide.seg 3).base.toNat / 2 ^ 51 = (st wide).pkg.number ∧ (acc_ 3 8 8 1).o.toNat + 8 - 1 ≤ (wide.seg 3).limit.toNat ∧
      2 ^ 51 ≤ (wide.seg 3).base.toNat % 2 ^ 51 + (acc_ 3 8 8 1).o.toNat) := by decide +kernel

theorem witness_AccessFaults :
    (burnForbids (burning thread) (.ldfe 1 2 1 .sys) = true ∧ (st (burning thread)).ready (.ldfe 1 2 1 .sys) = true) ∧
    (let d := { thread with ctl := { thread.ctl with status := 2 } }
     detForbids d (.aadd 1 2 1 3 false true .none .pkg) = true ∧ burnForbids d (.aadd 1 2 1 3 false true .none .pkg) = false ∧
     (st d).ready (.aadd 1 2 1 3 false true .none .pkg) = true) ∧
    (accessOf (st wide).me (.ld 1 0 2 .b64 false 0) = some (mAccess wide 2 0 0 8 1 0) ∧ (st wide).ready (.ld 1 0 2 .b64 false 0) = true ∧
     ((st wide).resolve 1 (mAccess wide 2 0 0 8 1 0)).2 = .fault Cause.seglim) ∧
    (accessOf (st wide).me (.ld 1 0 4 .b64 false 0) = some (mAccess wide 4 0 0 8 1 0) ∧ (st wide).ready (.ld 1 0 4 .b64 false 0) = true ∧
     ((st wide).resolve 1 (mAccess wide 4 0 0 8 1 0)).2 = .page 1 0x10000) := by decide +kernel

theorem witness_LoadsIssue :
    (∃ k, loadRow (st wide).me (.ldv 31 0 1 .v64 true 0) = some k ∧ (st wide).ready (.ldv 31 0 1 .v64 true 0) = true ∧
      Reaches (st wide) (st wide) k.acc ⟨.here 0x1000, 64, none, none⟩) ∧
    (st wide).atomicAhead 1 (.here 0x1000) 64 = false ∧ (st wide).loadBad 1 0x1000 64 = false ∧
    (∃ k p, loadRow (st wide).me (.ld 0 0 5 .b64 false 0) = some k ∧ (st wide).ready (.ld 0 0 5 .b64 false 0) = true ∧
      Reaches (st wide) (st wide) k.acc p ∧ p.loc = .there 1 0x1000 ∧ p.len = 8) ∧
    (st wide).atomicAhead 1 (.there 1 0x1000) 8 = false ∧ (st wide).storeBad 1 (.there 1 0x1000) 8 = false :=
  ⟨⟨_, rfl, by decide +kernel, rfl, rfl⟩, by decide +kernel, by decide +kernel,
    ⟨_, _, rfl, by decide +kernel, ⟨rfl, rfl⟩, rfl, rfl⟩, by decide +kernel, by decide +kernel⟩

/-- A fill that has everything. -/
def fill (vec : Bool) (reg : Nat) (buf : List Byte) (failed : Option DTrap) : Fill :=
  ⟨vec, reg, buf, [], [], buf.length, true, failed, 0x40, 0, 0, false⟩

theorem witness_FillsLand :
    let p := { thread with fills := [fill false 15 [0x80] none, fill true 31 (List.replicate 64 1) none,
      fill false 0 [1, 2, 3, 4, 5, 6, 7, 8] (some ⟨Cause.eccunc, 0, 0⟩), fill false 0 [1, 2, 3, 4, 5, 6, 7, 8] none] }
    ((st p).slot 1).fills[0]? = some (fill false 15 [0x80] none) ∧ (fill false 15 [0x80] none).size = 1 ∧
    ((st p).slot 1).fills[1]? = some (fill true 31 (List.replicate 64 1) none) ∧
    ((st p).slot 1).fills[2]? = some (fill false 0 [1, 2, 3, 4, 5, 6, 7, 8] (some ⟨Cause.eccunc, 0, 0⟩)) ∧
    ((st p).slot 1).fills[3]? = some (fill false 0 [1, 2, 3, 4, 5, 6, 7, 8] none) := by decide +kernel

/-- A plain store of one byte as it waits in a store buffer. -/
def entry (a : Nat) (held : Bool) : SbEntry := ⟨.write [⟨.here a, [1], none, none⟩], none, false, held, 1, false, 0, false⟩

theorem witness_StoresIssue :
    let full := { wide with sb := List.replicate 32 (entry 0 false) }
    let held := { burning wide with sb := List.replicate 32 (entry 0 true) }
    let room := { burning wide with sb := List.replicate 31 (entry 0 true) }
    (storeRow wide (.st 15 0 1 .b64 true 0)).isSome = true ∧ (st wide).ready (.st 15 0 1 .b64 true 0) = true ∧
    burnForbids wide (.st 15 0 1 .b64 true 0) = false ∧
    (storeRow room (.stv 0 0 1 .v32 false 0)).isSome = true ∧ (st room).ready (.stv 0 0 1 .v32 false 0) = true ∧ (st room).me.held < 32 ∧
    burnForbids room (.stv 0 0 1 .v32 false 0) = false ∧
    (st held).ready (.st 15 0 1 .b8 false 0) = true ∧ (st held).me.burning = true ∧ 32 ≤ (st held).me.held ∧
    (st full).ready (.st 15 0 1 .b8 false 0) = true ∧ (st full).me.burning = false ∧ 32 ≤ (st full).me.sb.length := by decide +kernel

theorem witness_StoresIssue_places :
    Reaches (st wide) (st wide) (mAccess wide 1 0 0 8 0x02 1) ⟨.here 0x1000, 8, none, none⟩ ∧
    (∃ p, Reaches (st wide) (st wide) (mAccess wide 5 0 0 8 0x02 1) p ∧ locRemote p.loc = true ∧ p.len = 8) ∧
    RoomToStore (st wide) true := ⟨⟨rfl, rfl⟩, ⟨_, ⟨rfl, rfl⟩, rfl, rfl⟩, by simp only [RoomToStore]; decide +kernel⟩

/-- A write of stream 0 of slot 1 toward package 1 in the send store. -/
def sending (win seq : Nat) : SendEntry := ⟨⟨4, 1, seq, win, win, 0x1000, 1, List.replicate 64 7, none, none⟩, true, none, 1, false, false, false⟩

/-- A send store with `n` such writes. -/
def storing (n : Nat) : State := { st wide with flue := { Flue.reset with store := List.replicate n (sending 0 0) } }

theorem storing_used (n : Nat) : n ≤ (storing n).storeUsed 1 := by
  simp [storing, State.storeUsed, sending, sourceGrate, st]

theorem witness_StoresIssue_sendStore :
    let s := storing sendStoreSize
    s.me.burning = false ∧ sendStoreSize ≤ s.storeUsed s.cur := ⟨rfl, storing_used sendStoreSize⟩

theorem witness_IndexedAccesses :
    let s := st (xs { thread with m := thread.m.set 0 1 } [(2, 0xFFFC)])
    let one : List (Nat × Access) := [(0, ⟨1, 0xFFFC, 4, 4, 0x01, 0, false, false⟩)]
    let two : List (Nat × Access) := [(0, ⟨1, 0xFFFC, 4, 4, 0x02, 1, false, false⟩)]
    (s.ready (.ldvg 31 0 2 1 .f32 true) = true ∧ (∀ e ∈ one, segCheck (s.me.seg e.2.seg) e.2 = none) ∧
      (s.resolveLanes one).2.2 = (.ok [], [(0, [⟨.here 0x10FFC, 4, none, none⟩])])) ∧
    (s.ready (.stvs 31 0 2 1 .n32 true) = true ∧ (∀ e ∈ two, segCheck (s.me.seg e.2.seg) e.2 = none) ∧
      (s.resolveLanes two).2.2 = (.ok [], [(0, [⟨.here 0x10FFC, 4, none, none⟩])])) ∧
    s.atomicAhead 1 (.here 0x10FFC) 4 = false ∧ s.loadBad 1 0x10FFC 4 = false ∧
    (List.range 16).filter (fun k => !true || (s.me.getM 0).getLsbD k) = [0] ∧ (s.me.getM 0).getLsbD 15 = false ∧
    ((st thread).ready (.stvs 31 0 2 1 .n32 true) = true ∧
      (List.range 16).filter (fun k => !true || ((st thread).me.getM 0).getLsbD k) = []) := by decide +kernel

/-- The word at 0x1008 is empty. -/
def emptied (p : Slot) : State := (st (xs p [(2, 8)])).setHomeTag 0x1008 false

theorem witness_TaggedWords :
    let s := st (xs thread [(2, 8)])
    (tagRow s.me (.ldf 0 2 1 .sys) = some (tAccess s.me 1 2 8 0x09 0 true) ∧ s.ready (.ldf 0 2 1 .sys) = true ∧
      s.slotTag 1 0x1008 = true ∧ (emptied thread).slotTag 1 0x1008 = false ∧ s.loadBad 1 0x1008 8 = false) ∧
    (s.ready (.tagrd 15 2 1 .core) = true ∧ s.ready (.stf 1 2 1 .pkg) = true ∧ s.ready (.tagset 1 2 1 .hearth) = true ∧
      s.ready (.ldfe 1 2 1 .sys) = true ∧ s.ready (.stef 1 2 1 .core) = true) ∧
    (burnForbids s.me (.stf 1 2 1 .pkg) = false ∧ burnForbids s.me (.ldfe 1 2 1 .sys) = false) ∧
    (s.atomicAhead 1 (.here 0x1008) 8 = false ∧ s.me.sb = [] ∧ s.settled 1 = true ∧ s.me.burning = false) := by decide +kernel

theorem witness_TaggedWords_homes :
    let s := st (xs thread [(2, 8)])
    (((s.releaseHome 1).mergeWord 0x1008).badAt 0x1008 8 = false ∧ ((s.releaseHome 1).mergeWord 0x1008).homeTag 0x1008 = true ∧
      (((emptied thread).releaseHome 1).mergeWord 0x1008).homeTag 0x1008 = false ∧
      ((emptied thread).mergeWord 0x1008).homeTag 0x1008 = false ∧ (s.mergeWord 0x1008).writeRefused 0x1008 8 = false ∧
      (s.mergeWord 0x1008).homeTag 0x1008 = true) ∧
    Safe s ∧ Safe (emptied thread) ∧ Reaches s s (tAccess s.me 1 2 8 0x09 0 true) ⟨.here 0x1008, 8, none, none⟩ ∧
    Reaches s s (tAccess s.me 1 2 8 0x0A 3 true) ⟨.here 0x1008, 8, none, none⟩ :=
  ⟨by decide +kernel, ⟨rfl, rfl⟩, ⟨rfl, rfl⟩, ⟨rfl, rfl⟩, ⟨rfl, rfl⟩⟩

theorem witness_StoreBufferDrains :
    let plain (k : SbKind) (rel : Option Scope) : SbEntry := ⟨k, rel, false, false, 1, false, 0, false⟩
    let drains (e : SbEntry) : State := st { thread with sb := [e] }
    let a := plain (.write [⟨.here 0x1000, [1, 2], some true, none⟩]) none
    let b := plain (.write [⟨.here poolBase, [1], none, none⟩]) none
    let c := plain (.write [⟨.here 0x1000, [], none, none⟩]) (some .sys)
    (((drains a).slot 1).sb = a :: [] ∧ a.isRelease = false ∧ isPool 0x1000 = false ∧ (drains a).passing 1 = false ∧
      a.behindRelease (drains a) 1 = false ∧ a.waits (drains a) 1 = false ∧ ((drains a).hearth 0).refuses 0x1000 2 = false ∧
      4096 * (((drains a).hearth 0).dirty.length + ((drains a).hearth 0).dtags.length + 2) < l2Bytes) ∧
    (((drains b).slot 1).sb = b :: [] ∧ isPool poolBase = true ∧ (drains b).writeRefused poolBase 1 = false ∧
      (drains b).passing 1 = false ∧ b.behindRelease (drains b) 1 = false ∧ b.waits (drains b) 1 = false) ∧
    (((drains c).slot 1).sb = c :: [] ∧ (drains c).settled 1 = true ∧ (drains c).bad = [] ∧ ((drains c).hearth 0).bad = [] ∧
      (drains c).passing 1 = false ∧ c.behindRelease (drains c) 1 = false ∧ c.waits (drains c) 1 = false) := by decide +kernel

theorem witness_StoreBufferDrains_ordered : Safe (st thread) ∧ L2Ordered (st thread) := ⟨⟨rfl, rfl⟩, rfl⟩

theorem witness_StoreBufferDrains_away :
    let r : AtomicReq := ⟨.add, .here 0x1000, 8, 1, 0, none, 1, 0, false, 0, none, 1⟩
    let e : SbEntry := ⟨.atomic r, none, false, false, 1, false, 0, false⟩
    let f : SbEntry := ⟨.send true false 2 ⟨0, 0, [0]⟩, none, false, false, 0, false, 0, false⟩
    let s : State := { st { thread with sb := [f] } with slots := [(1, { thread with sb := [f] }), (2, thread)] }
    (((st { thread with sb := [e] }).slot 1).sb = e :: [] ∧ e.isRelease = false ∧ (st { thread with sb := [e] }).passing 1 = false ∧
      e.behindRelease (st { thread with sb := [e] }) 1 = false ∧ e.waits (st { thread with sb := [e] }) 1 = false) ∧
    ((s.slot 1).sb = f :: [] ∧ s.settled 1 = true ∧ s.inFlight 1 < 8 ∧ s.destination 1 true false 2 false = .slot 2 ∧ s.passing 1 = false ∧
      f.behindRelease s 1 = false ∧ f.waits s 1 = false) := by
  decide +kernel

/-- A byte of line 32 that hearth 0 holds dirty. -/
def dirty (sent : Bool) : State := { st thread with hearths := [(0, { Hearth.reset with dirty := [(0x1000, ⟨5, [1], sent⟩)] })] }

theorem witness_LinesGoHome :
    Safe (dirty true) ∧ L2Ordered (dirty true) ∧ (dirty true).bad = [] ∧ ((dirty true).hearth 0).bad = [] ∧
    Table.find ((dirty true).hearth 0).dirty 0x1000 = some ⟨5, [1], true⟩ ∧ ((dirty true).hearth 0).onLine 32 0x1000 = true :=
  ⟨⟨rfl, rfl⟩, rfl, rfl, rfl, by decide +kernel, by decide +kernel⟩

theorem witness_AtomicsIssue :
    let d := { thread with ctl := { thread.ctl with status := 2 } }
    ((amoRow thread (.acas 15 0 1 14 true .ar .sys)).isSome = true ∧ (st thread).ready (.acas 15 0 1 14 true .ar .sys) = true ∧
      burnForbids thread (.acas 15 0 1 14 true .ar .sys) = false ∧ detForbids thread (.acas 15 0 1 14 true .ar .sys) = false) ∧
    ((amoRow (burning thread) (.aadd 0 0 1 0 false false .acq .core)).isSome = true ∧
      (st (burning thread)).ready (.aadd 0 0 1 0 false false .acq .core) = true ∧
      burnForbids (burning thread) (.aadd 0 0 1 0 false false .acq .core) = false) ∧
    ((amoRow d (.afadd 0 0 1 3 false false .none .pkg)).isSome = true ∧ (st d).ready (.afadd 0 0 1 3 false false .none .pkg) = true ∧
      burnForbids d (.afadd 0 0 1 3 false false .none .pkg) = false ∧ detForbids d (.afadd 0 0 1 3 false false .none .pkg) = false ∧
      (st d).me.det = true) := by decide +kernel

theorem witness_AtomicsIssue_places :
    Reaches (st thread) (st thread) (tAccess thread 1 0 4 0x13 3 false) ⟨.here 0x1000, 4, none, none⟩ ∧
    RoomToStore (st thread) false := ⟨⟨rfl, rfl⟩, by simp only [RoomToStore]; decide +kernel⟩

/-- An open reduction over the word at 0x1000, of which contribution 0 has come. -/
def opened : Reduction := ⟨0x1000, 8, 0, 2, 3, 1, [], false⟩

theorem witness_FloatAtomicReturns :
    let s := st thread
    let o : State := { st thread with grates := [(grateOf 0x1000, ⟨[opened], []⟩)] }
    s.ready (.afadd 15 0 1 15 true true .acq .sys) = true ∧ s.me.burning = false ∧ s.me.det = false ∧ s.me.sb = [] ∧
    s.atomicAhead 1 (.here 0x1000) 4 = false ∧ s.openAt 0x1000 4 = false ∧ (s.mergeWord 0x1000).badAt 0x1000 4 = false ∧
    s.passing 1 = false ∧ o.passing 1 = false ∧ o.atomicAhead 1 (.here 0x1000) 4 = false ∧
    o.ready (.afadd 15 0 1 15 true true .acq .sys) = true ∧ o.openAt 0x1000 4 = true ∧
    (let q := (st { thread with fenceRel := some .sys }).releaseHome 1
     q.openAt 0x1000 4 = false ∧ (q.mergeWord 0x1000).badAt 0x1000 4 = false) := by decide +kernel

theorem witness_AtomicsPerform :
    let r (op : AtomicOp) (size : Nat) : AtomicReq := ⟨op, .here 0x1000, size, 1, 0x1F, some 7, 1, 0, false, 0, none, 1⟩
    let s (op : AtomicOp) (size : Nat) : State := { st thread with atomics := [r op size] }
    ((s .cas 4).atomics[0]? = some (r .cas 4) ∧ (s .cas 4).atomicTurn 0 = true ∧ integerOp .cas = true ∧
      (({ s .cas 4 with atomics := [] } : State).mergeWord 0x1000).badAt 0x1000 4 = false) ∧
    ((s .max 8).atomicTurn 0 = true ∧ integerOp .max = true) ∧
    ((s .ahx 8).atomicTurn 0 = true ∧ (r .ahx 8).c.toNat % 32 = 31 ∧
      ({ r .ahx 8 with c := 15 } : AtomicReq).c.toNat % 32 < 16) := by decide +kernel

theorem witness_OrderedReductions_issue :
    (reductionRow thread (.dredfF64 0 1 15 .sys)).isSome = true ∧ (st thread).ready (.dredfF64 0 1 15 .sys) = true ∧
    burnForbids thread (.dredfF64 0 1 15 .sys) = false ∧ (reductionRow thread (.dcloseF32 0 1 .pkg)).isSome = true ∧
    (st thread).ready (.dcloseF32 0 1 .pkg) = true ∧ burnForbids thread (.dcloseF32 0 1 .pkg) = false := by decide +kernel

/-- Contribution `lid` of a launch of three, or its close. -/
def given (v : Option Word) (lid : Nat) (rcba : Word) (size : Nat) : RedReq := ⟨.here 0x1000, size, v, lid, rcba, 3, 1, 0, 0, true, none, 1, none⟩

/-- The reduction expects contribution `next`. -/
def expecting (next : Nat) (buffered : List (Nat × Word)) : Reduction := ⟨0x1000, 8, 0, 3, 0, next, buffered, true⟩

/-- The contribution arrives at the grate of its word. -/
def reducing (r : RedReq) (os : List Reduction) : State := { st thread with reductions := [r], grates := [(grateOf 0x1000, ⟨os, []⟩)] }

theorem witness_OrderedReductions :
    let r := given (some 1) 0 0 8
    ((reducing r []).reductions[0]? = some r ∧ (reducing r []).reductionTurn 0 = true ∧ (reducing r []).bad = [] ∧
      ((reducing r []).grate (grateOf 0x1000)).open_ = [] ∧ ((reducing r []).grate (grateOf 0x1000)).held = [] ∧ 1 < r.extent ∧ r.tagged = true) ∧
    ((reducing (given (some 1) 2 0 8) []).reductionTurn 0 = true ∧ (given (some 1) 2 0 8).lid ≠ 0) ∧
    ((reducing (given (some 1) 1 0 8) [expecting 1 []]).reductionTurn 0 = true ∧ (expecting 1 []).next + 1 < (expecting 1 []).extent) ∧
    ((reducing (given (some 1) 2 0 8) [expecting 1 []]).reductionTurn 0 = true ∧ (expecting 1 []).next < 2) ∧
    ((reducing (given (some 1) 2 0 8) [expecting 2 []]).reductionTurn 0 = true ∧ (expecting 2 []).extent = (expecting 2 []).next + 1) ∧
    ((reducing (given (some 1) 0 256 8) [expecting 1 []]).reductionTurn 0 = true ∧ (expecting 1 []).rcba ≠ 256) ∧
    ((reducing (given (some 1) 0 0 4) [expecting 1 []]).reductionTurn 0 = true ∧ (expecting 1 []).size ≠ 4 ∧
      (expecting 1 []).addr < 0x1000 + 4) := by decide +kernel

theorem witness_OrderedReductions_closes :
    ((reducing (given none 0 0 8) [expecting 0 [(1, 5), (2, 6)]]).reductionTurn 0 = true ∧
      ([(1, 5), (2, 6)] : List (Nat × Word)).map (fun e => e.1) = [1, 2]) ∧
    ((reducing (given none 0 0 8) []).reductionTurn 0 = true ∧ ((reducing (given none 0 0 8) []).grate (grateOf 0x1000)).open_ = []) ∧
    ((reducing (given none 0 0 4) [expecting 1 []]).reductionTurn 0 = true ∧ (expecting 1 []).size ≠ (given none 0 0 4).size) := by
  decide +kernel

theorem witness_OrderedReductions_held :
    let r := given (some 1) 2 0 8
    let h : State := { st thread with grates := [(grateOf 0x1000, ⟨[], [r]⟩)] }
    (h.grate (grateOf 0x1000)).held[0]? = some r ∧ (h.contribute (grateOf 0x1000) 0x1000 r).isSome = true ∧ r.lid ≠ 0 ∧ h.bad = [] ∧
    (h.grate (grateOf 0x1000)).open_ = [] := by
  decide +kernel

/-! ## Witnesses: exceptions and the system instructions -/

/-- A load of x3 that waits for package 1. -/
def waiting (r : Nat) : Fill := ⟨false, r, [0, 0, 0, 0, 0, 0, 0, 0], [⟨9, 0, 8, 0, none⟩], [], 8, true, none, 0x40, 0, 0, false⟩

theorem witness_TrapEntry :
    let p := { thread with fills := [waiting 11] }
    let d := { p with deferred := [⟨Cause.remote, 5, 0⟩] }
    (st p).inFrame = false ∧ (st p).me.traph = false ∧ (∀ f ∈ (st p).me.fills, f.vec = true ∨ f.reg < 12) ∧
    (st p).ready (.trap 0xFFF) = true ∧ (st p).ready (.brk 0) = true ∧ (st p).me.debugHalt = false ∧
    (st { p with debugHalt := true }).ready (.brk 0xFFF) = true ∧ (st { p with debugHalt := true }).me.debugHalt = true ∧
    (st d).me.mode = .running ∧ (st d).me.deferred = ⟨Cause.remote, 5, 0⟩ :: [] ∧ (st d).me.traph = false := by decide +kernel

/-- The thread inside its trap handler. -/
def trapped (p : Slot) : Slot := { p with ctl := { p.ctl with estat := 0x8000000000000001, status := p.ctl.status ||| 1, epc := 0x80 } }

theorem witness_TrapWaitsOrStops :
    let w := st { thread with fills := [waiting 12] }
    let t := st (trapped thread)
    ¬ (∀ f ∈ w.me.fills, f.vec = true ∨ f.reg < 12) ∧ w.ready (.trap 0) = true ∧ w.inFrame = false ∧
    (∀ f ∈ t.me.fills, f.vec = true ∨ f.reg < 12) ∧ t.me.traph = true ∧ slotNo t.cur ≠ 0 ∧ t.ready (.trap 0) = true ∧
    (let z : State := { t with cur := 0, slots := [(0, trapped thread)] }
     slotNo z.cur = 0 ∧ z.me.traph = true ∧ z.me.fills = []) := by decide +kernel

theorem witness_TrapWaitsOrStops_resume :
    let x : Trap := ⟨Cause.ill, 0x40, 0, 0⟩
    let w := st { thread with trapWait := some x, fills := [waiting 12] }
    let q := st { thread with trapWait := some x }
    (w.me.trapWait = some x ∧ ¬ (∀ f ∈ w.me.fills, f.vec = true ∨ f.reg < 12)) ∧
    (q.me.trapWait = some x ∧ q.me.burning = false ∧ q.me.traph = false ∧ q.me.fills = []) := by decide +kernel

theorem witness_TrapReturns :
    let t := trapped thread
    let bad := { t with ctl := { t.ctl with epc := 0x82 } }
    ((st thread).ready .eret = true ∧ (st thread).me.priv = false) ∧
    ((st (super thread)).ready .eret = true ∧ (st (super thread)).me.priv = true ∧ (st (super thread)).me.traph = false) ∧
    ((st bad).ready .eret = true ∧ (st bad).me.priv = true ∧ (st bad).me.traph = true ∧ (st bad).me.ctl.epc.toNat % 4 ≠ 0) ∧
    ((st t).ready .eret = true ∧ (st t).me.priv = true ∧ (st t).me.traph = true ∧ (st t).me.ctl.epc.toNat % 4 = 0 ∧ t.fills = []) ∧
    ((st { t with fills := [waiting 15] }).ready .eret = true ∧ ¬ (∀ f ∈ [waiting 15], f.vec = true ∨ f.reg < 12)) := by decide +kernel

theorem witness_TrapReturns_frames :
    let s : State := { st (trapped thread) with cores := [(0, { Core.reset with part := 1091, frame := some { frame 1 with frozen := true } })] }
    let u (pc : Word) := { thread with ctl := { thread.ctl with status := 0x80, uipc := pc } }
    (s.ready .eret = true ∧ s.myCore.frame = some { frame 1 with frozen := true } ∧ ({ frame 1 with frozen := true } : Frame).owner = s.cur) ∧
    ((st thread).ready .uiret = true ∧ (st thread).me.uih = false) ∧
    ((st (u 0x82)).ready .uiret = true ∧ (st (u 0x82)).me.uih = true ∧ (st (u 0x82)).me.ctl.uipc.toNat % 4 ≠ 0) ∧
    ((st (u 0x80)).ready .uiret = true ∧ (st (u 0x80)).me.uih = true ∧ (st (u 0x80)).me.ctl.uipc.toNat % 4 = 0) := by decide +kernel

theorem witness_UserInterrupts :
    let c (k : ParkReason) (status : Word) := { thread with
      park := some ⟨k, 100, false, false, false, 0⟩, ctl := { thread.ctl with status := status, waitlim := 50 } }
    let x := { thread with completions := [(7, 0)], ctl := { thread.ctl with status := 0x10 } }
    ((st x).me.mode = .running ∧ x.fills = [] ∧ (st x).me.burning = false ∧ (st x).me.traph = false ∧ (st x).me.uih = false ∧
      (st x).me.uie = true ∧ (st x).me.barrier = none ∧ (st x).me.tagwait = none ∧ (st x).me.park = none ∧
      (st x).me.completions = (7, 0) :: []) ∧
    ((c (.reg 15) 0x20).park = some ⟨.reg 15, 100, false, false, false, 0⟩ ∧ (c (.reg 15) 0x20).utw = true ∧ (c (.reg 15) 0x20).uih = false ∧
      0 < (c (.reg 15) 0x20).ctl.waitlim.toNat % 2 ^ 32 ∧ 100 + 50 ≤ (at_ 150 (st (c (.reg 15) 0x20))).dtime ∧
      (c (.reg 0) 0).utw = false ∧ (c (.reg 0) 0xA0).uih = true) ∧
    ((c (.tag (.here 8) true 8) 0x20).utw = true ∧ (c (.tag (.here 8) true 8) 0).utw = false ∧
      (c (.tag (.here 8) true 8) 0).tagwait = none) := by decide +kernel

theorem witness_SystemInstructions :
    let w (o : Bool) := { thread with park := some ⟨.wfi, 0, o, false, false, 0⟩ }
    ((st thread).ready .nop = true ∧ (st thread).ready .halt = true ∧ (st thread).me.priv = false ∧
      (st (super thread)).ready .halt = true ∧ (st (super thread)).me.priv = true ∧ (st thread).ready .yield = true) ∧
    ((st thread).ready .wfi = true ∧ (st thread).me.park = none ∧ (st (w true)).ready .wfi = true ∧
      (st (w true)).me.park = some ⟨.wfi, 0, true, false, false, 0⟩) ∧
    ((st thread).ready .isync = true ∧ (st thread).myCore.replays 1 = false ∧ (st thread).me.overlays = [] ∧ (st thread).settled 1 = true ∧
      (st thread).me.sb = [] ∧ (st thread).me.fills = []) ∧
    (((booted (st thread)).slot 1).mode = .running ∧ ((booted (st { thread with mode := .halted })).slot 1).mode = .halted ∧
      (booted (st thread)).recovering = false ∧ (booted (st { thread with mode := .halted })).recovering = false) ∧
    (let p := { thread with park := some ⟨.reg 15, 9, false, true, true, 0⟩ }
     ((st p).slot 1).park = some ⟨.reg 15, 9, false, true, true, 0⟩ ∧ ((st p).slot 1).fullAt ((st p).cycleOf 0) 15 = true ∧
     (st p).limitPassed 1 = false) ∧
    (let p := { thread with park := some ⟨.page 0 1 2, 9, false, false, true, 0⟩ }
     ((st p).slot 1).park = some ⟨.page 0 1 2, 9, false, false, true, 0⟩) := by decide +kernel

theorem witness_ControlRegisters :
    let s := st thread
    let k := st (super thread)
    (s.ready (.mfc 15 0x010) = true ∧ userAccess 0x010 = some .read ∧ (s.readReg 1 0x010).isSome = true) ∧
    (k.ready (.mfc 0 0x833) = true ∧ userAccess 0x833 = some .no ∧ k.me.priv = true ∧ (k.readReg 1 0x833).isSome = true) ∧
    (s.ready (.mfc 0 0xFFF) = true ∧ userAccess 0xFFF = none) ∧
    (s.ready (.mfc 0 0x020) = true ∧ userAccess 0x020 = some .no ∧ s.me.priv = false) ∧
    (s.ready (.mtc 1 0x0A0) = true ∧ (ctlGet s.me.ctl 0x0A0).isSome = true ∧ userAccess 0x0A0 = some .write) ∧
    (s.ready (.mtc 1 0x813) = true ∧ userAccess 0x813 = some .read ∧ s.ready (.mtc 15 0x000) = true ∧ s.ready (.mfc 15 0x010) = true) ∧
    (k.ready (.mtc 1 0x004) = true ∧ k.residentThread 0 = true ∧
      ({ k with cur := 0, slots := [(0, super thread)] } : State).ready (.mtc 1 0x004) = true ∧
      ({ k with cur := 0, slots := [(0, super thread)] } : State).residentThread 0 = false) := by decide +kernel

theorem witness_SegmentRegisters :
    let s := st (xs thread [(2, 0x1008), (3, 0x83000000000007)])
    let z := st (xs thread [(2, 0x11000), (3, 0x83000000000007)])
    (s.ready (.segld 3 2 1) = true ∧ s.me.priv = false ∧ (s.me.getX 3).extractLsb' 48 8 = 0x83 ∧
      (s.me.seg 1).base.toNat ≤ (s.me.getX 2).toNat ∧ (s.me.getX 2).toNat + 7 ≤ (s.me.seg 1).base.toNat + (s.me.seg 1).limit.toNat ∧
      (0x83#8) &&& (s.me.seg 1).rights = 0x83) ∧
    (z.ready (.segld 3 2 1) = true ∧ z.me.priv = false ∧
      (z.me.seg 1).base.toNat + (z.me.seg 1).limit.toNat < (z.me.getX 2).toNat + 7) ∧
    ((st (super thread)).ready (.segld 0 0 7) = true ∧ (st (super thread)).me.priv = true) ∧
    (s.ready (.segrd 15 false 7) = true ∧ s.ready (.segrd 0 true 0) = true) := by decide +kernel

/-- A cached leaf of 64 KiB at 0x10000, for root 1. -/
def leaf : TlbEntry := ⟨1, 0x10000, 0x10000, 0x1000000 + 2 + 1 + 8 + 16 + 128, 0, 0⟩

theorem witness_ShootDowns :
    let s := st (super thread)
    ((st (burning thread)).ready (.tlbi 15 0 .clamp) = true ∧ (st (burning thread)).me.burning = true) ∧
    ((st thread).ready (.tlbi 1 1 .sys) = true ∧ (st thread).me.burning = false ∧ (st thread).me.priv = false) ∧
    (s.ready (.tlbi 1 2 .pkg) = true ∧ s.me.burning = false ∧ s.me.priv = true ∧ s.me.sb = []) ∧
    ((st { super thread with sb := [entry 0 false] }).ready (.tlbi 1 2 .pkg) = true ∧
      (st { super thread with sb := [entry 0 false] }).me.sb ≠ []) ∧
    (let t := { st { thread with barrier := some (.tlbi 0 0x1FFFF 1 .clamp) } with clamps := [(0, { Clamp.reset with tlb := [leaf] })] }
     (t.slot 1).barrier = some (.tlbi 0 0x1FFFF 1 .clamp) ∧ t.atomics = [] ∧ t.reductions = [] ∧ t.grates = [] ∧ inScope .clamp (clampOf 1) 0 = true ∧
     leaf ∈ (t.clamp 0).tlb) ∧
    (let d : DirtyByte := ⟨5, [1], false⟩
     let t := { st { thread with barrier := some (.tlbi 0 0x1FFFF 1 .clamp) } with
       clamps := [(0, { Clamp.reset with tlb := [leaf] })], hearths := [(0, { Hearth.reset with dirty := [(0x1000000, d)] })] }
     Table.find (t.hearth 0).dirty 0x1000000 = some d ∧ 1 ∈ d.writers ∧ leaf.isTable = false ∧ tlbiHits 0 0x1FFFF 1 leaf = true ∧
     leaf.maps 0x1000000 = true ∧ (t.hearth 0).bad = []) := by decide +kernel

/-- The root of a page table at 0x40000 whose first entries lead to a leaf of 64 KiB at user address 0. -/
def paged : State :=
  (((((st thread).writeHomeNat 0x40000 8 (0x80000 + 1)).writeHomeNat 0x80000 8 (0x84000 + 1)).writeHomeNat 0x84000 8 (0x88000 + 1)).writeHomeNat
    0x88000 8 (0x1000000 + 2 + 1 + 8 + 16 + 128)).writeHomeNat 0x88008 8 0

theorem witness_ShootDowns_walk : (paged.translate 0 0x40001 0x1234 false 0 false).2 = .ok 0x1001234 none := by decide +kernel

/-! ## Witnesses: fences, register links and messages -/

theorem witness_FencesAndLines :
    let b (k : Barrier) := { thread with barrier := some k }
    ((st (burning thread)).ready (.fence .ar .sys) = true ∧ (st (burning thread)).me.burning = true ∧
      (st thread).ready (.fence .none .core) = true ∧ (st thread).me.burning = false) ∧
    ((st (b (.fence .ar .sys))).me.barrier = some (.fence .ar .sys) ∧ (st (b (.fence .ar .sys))).me.remoteTag = none ∧
      (st (b (.fence .ar .sys))).me.mode = .running ∧ (st (b (.fence .ar .sys))).me.trapWait = none ∧
      (st (b (.fence .ar .sys))).fenced 1 .ar = true ∧ (st (b (.fence .ar .sys))).outstanding 1 = false) ∧
    ((st (b (.probed 15))).me.barrier = some (.probed 15) ∧ (st (b (.probed 15))).remoteDone 1 = true) ∧
    ((st (burning thread)).ready (.fences 15 .sys) = true ∧ (st thread).ready (.fences 0 .core) = true) ∧
    ((st (b (.fences 15 .hearth))).me.barrier = some (.fences 15 .hearth) ∧ (st (b (.fences 15 .hearth))).fenced 1 .none = true) ∧
    ((dirty false).ready (.dcwb 0 1 .pkg) = true ∧ (dirty false).me.burning = false ∧ (dirty false).bad = [] ∧
      (dirty false).me.sb = [] ∧
      Table.find ((dirty false).hearth 0).dirty 0x1000 = some ⟨5, [1], false⟩) ∧
    ((st thread).ready (.pf 0 7 .core) = true) := by decide +kernel

theorem witness_FencesAndLines_place :
    Safe (dirty false) ∧ L2Ordered (dirty false) ∧ (dirty false).resolve 1 { tAccess thread 1 0 1 0x02 1 false with moves := false } =
      (dirty false, .ok [⟨.here 0x1000, 1, none, none⟩]) := ⟨⟨rfl, rfl⟩, rfl, rfl⟩

theorem witness_FencesAndLines_clean (h : Nat) : ((dirty false).hearth h).bad = [] :=
  hearth_all _ (fun x => x.bad = []) rfl (by decide +kernel) h

theorem witness_RegisterLinks :
    let two (p q : Slot) : State := { st p with slots := [(1, p), (2, q)] }
    let other := { thread with ctl := { thread.ctl with rcba := 8 } }
    let opened := { thread with xf := 0x7FFF, putn := some (15, 9, 1) }
    ((st thread).ready (.putn 15 0 0 2) = true ∧ ((st thread).slot 2).mode = .free) ∧
    ((two thread other).ready (.putn 15 0 0 2) = true ∧ ((two thread other).slot 2).mode ≠ .free ∧
      ((two thread other).slot 2).ctl.rcba ≠ (two thread other).me.ctl.rcba) ∧
    (((two thread opened).slot 2).ctl.rcba = (two thread opened).me.ctl.rcba ∧ ((two thread opened).slot 2).putn ≠ none ∧
      (two thread thread).ready (.putn 15 0 0 2) = true ∧ ((two thread thread).slot 2).putn = none ∧
      ((two thread thread).slot 2).mode ≠ .free) ∧
    (((two thread opened).slot 2).putn = some (15, 9, 1) ∧ ((two thread opened).slot 2).fullX 15 = false ∧
      ((two thread opened).slot 2).fillX 15 = false ∧ ((two thread opened).slot 2).xdead.getLsbD 15 = false) ∧
    ((st thread).ready (.xclr 15) = true ∧ (st opened).ready (.xpres 0 15) = true ∧ (st opened).me.fullX 15 = false) := by decide +kernel

theorem witness_MessagesMove_send :
    let full := { thread with msgs := [⟨0xFFFFFFFF, 0xFFFFFFFF, [1]⟩] }
    ((st thread).ready (.send 15 0 8 false true 7) = true ∧ (st thread).me.ember = false ∧
      (st thread).inFlight 1 + ((st thread).me.sb.filter (fun e => !e.held && e.kind.isSend)).length < 8) ∧
    ((st (super thread)).ready (.send 0 0 0 true false 0) = true ∧ (st (super thread)).me.priv = true) ∧
    ((st thread).ready (.send 0 0 0 true false 0) = true ∧ (st thread).me.priv = false) ∧
    ((st thread).ready (.recv 0 1 2 0) = true ∧ (st thread).me.det = false ∧
      ((st thread).inbox 1).findIdx? (msgMatches ((st thread).me.getX 1) ((st thread).me.getX 2)) = none) ∧
    (let s := st (xs full [(1, 0xFFFFFFFFFFFFFFFF), (2, 0xFFFFFFFFFFFFFFFF)])
     s.ready (.recv 0 1 2 7) = true ∧ (s.inbox 1).findIdx? (msgMatches (s.me.getX 1) (s.me.getX 2)) = some 0 ∧
     (s.inbox 1)[0]? = some ⟨0xFFFFFFFF, 0xFFFFFFFF, [1]⟩) := by decide +kernel

theorem witness_MessagesMove_deliver :
    let f (spark : Bool) : Flight := ⟨1, 2, false, spark, ⟨5, 6, [0x80]⟩, none⟩
    let s (spark : Bool) : State := { st thread with slots := [(1, thread), (2, thread)], flights := [f spark] }
    ((s false).flights[0]? = some (f false) ∧ (s false).flightTurn 0 = true ∧ (s false).accepts 2 false false = true ∧
      ((s false).slot 2).msgs.length < 16) ∧
    ((s true).flightTurn 0 = true ∧ (s true).accepts 2 true false = true ∧ ((s true).core 0).handlers.length < 16) ∧
    (let h (sb : List SbEntry) : State := { st thread with cur := 14, slots := [(14, { thread with sb := sb })] }
     (h [entry 0 false]).ready .spkret = true ∧ slotNo (h []).cur = 14 ∧ (h []).me.ember = false ∧ (h []).me.burning = false ∧
     (h [entry 0 false]).me.sb ≠ [] ∧ (h []).ready .spkret = true ∧ (h []).me.sb = [] ∧ (h []).settled 14 = true) ∧
    (let k : State := { st thread with cores := [(0, { Core.reset with part := 1091, handlers := [{ f true with dst := 1 }] })] }
     (k.core 0).handlers = { f true with dst := 1 } :: [] ∧ (k.slot 14).mode = .free ∧ (k.slot 1).mode ≠ .free) := by decide +kernel

theorem witness_MessagesMove_waiting :
    let f : Flight := ⟨1, 2, false, false, ⟨5, 6, [0x80]⟩, some (0, 0, 0)⟩
    let s : State := { st thread with flights := [f] }
    s.flights[0]? = some f ∧ s.flightTurn 0 = true ∧ s.threadOf 0 0 0 = some (1, thread) ∧ thread.ember = false ∧
    (s.slot 1).msgs.length < 16 := by decide +kernel

theorem witness_MessagesMove_room : RoomToStore (st thread) false := by simp only [RoomToStore]; decide +kernel

/-! ## Witnesses: vectors -/

/-- A core whose granules include the block of v31, with a block error in the register of slot 1. -/
def damaged (r : VReg) : State := { st thread with bad := [(64 * (st thread).vregBlock 1 r, true)] }

theorem witness_VectorIntegerLanes :
    (integerLaneRow (.vadds 31 0 30 .s8 true)).isSome = true ∧ (st thread).ready (.vadds 31 0 30 .s8 true) = true ∧
    (st thread).vregBad (.vadds 31 0 30 .s8 true) = none ∧ (integerLaneRow (.vdot4 0 1 2 .n8 false)).isSome = true ∧
    (damaged 1).ready (.vdot4 0 1 2 .n8 false) = true ∧ (damaged 1).vregBad (.vdot4 0 1 2 .n8 false) = some 1 := by decide +kernel

theorem witness_VectorNumberLanes :
    (numberLaneRow (.vcvt 31 0 true .rdn .f64 3 .f16 true)).isSome = true ∧ (st thread).ready (.vcvt 31 0 true .rdn .f64 3 .f16 true) = true ∧
    (st thread).vregBad (.vcvt 31 0 true .rdn .f64 3 .f16 true) = none ∧ (numberLaneRow (.vfma 0 1 2 .bf16 false)).isSome = true ∧
    (damaged 2).ready (.vfma 0 1 2 .bf16 false) = true ∧ (damaged 2).vregBad (.vfma 0 1 2 .bf16 false) = some 2 := by decide +kernel

theorem witness_RoundsExactly :
    fmtF16.read 0x8001 = .fin true 1 (-24) ∧ 0x8001 < 2 ^ (fmtF16.sign + 1) ∧
    (let r := (fmtE4m3.round .rne (finDyadic false 17 0) false)
     fmtE4m3.read r.bits = .fin false 8 1 ∧ (finDyadic false 8 1).cmp (finDyadic false 17 0) ≠ 0 ∧ r.flags.fp.getLsbD 0 = true) := by
  decide +kernel

theorem witness_MaskResults :
    (st thread).ready (.vext 31 63 15 .n8) = true ∧ (st thread).vregBad (.vext 31 63 15 .n8) = none ∧
    (st thread).ready (.vcmp 3 0 1 .gtn .n64 true) = true ∧ (st thread).vregBad (.vcmp 3 0 1 .gtn .n64 true) = none ∧ tyInt .n64 = true ∧
    (st thread).ready (.vcmp 0 0 1 .ge .bf16 false) = true ∧ tyInt .bf16 = false ∧
    (st thread).ready (.mand 0 3 2) = true ∧ (st thread).ready (.mor 3 3 3) = true ∧ (st thread).ready (.mnot 0 3) = true ∧
    (st thread).ready (.mpopc 15 3 .e4m3 true) = true := by decide +kernel

theorem witness_VectorReductions :
    (st thread).ready (.vradd 31 0 .f32 true) = true ∧ (st thread).vregBad (.vradd 31 0 .f32 true) = none ∧
    (st thread).ready (.vrmin 0 31 .s64 false) = true ∧ (st thread).ready (.vscan 1 2 .n8 true) = true ∧
    (st thread).vregBad (.vscan 1 2 .n8 true) = none ∧ (st thread).ready (.vrmaxi 3 4 .bf16 true) = true ∧
    (st thread).vregBad (.vrmaxi 3 4 .bf16 true) = none ∧ maskedLane true (st thread).me 0 = true ∧
    maskedLane false (st thread).me 31 = false ∧ ((tyFmt .bf16).read (laneEnc .bf16 ((st thread).me.getV 4) 31)).isNan = false := by decide +kernel

/-- A depth stack at the start of the pool, with the header word h. -/
def stack (h : Nat) : State := (st (xs thread [(1, 63), (2, 0)])).writeHomeNat poolBase 8 h

theorem witness_SortsAndStacks :
    (st thread).ready (.vsortk 31 0 1 .f32 true) = true ∧ (st thread).vregBad (.vsortk 31 0 1 .f32 true) = none ∧
    (st thread).ready (.vmergek 0 1 1 .n32) = true ∧ (st thread).vregBad (.vmergek 0 1 1 .n32) = none ∧
    ((stack 64).ready (.dstkp 0 1 2) = true ∧ (stack 64).homeNat poolBase 8 % 128 = 64) ∧
    ((stack (63 + 63 * 256)).ready (.dstkp 0 1 2) = true ∧ (stack (63 + 63 * 256)).homeNat poolBase 8 % 128 < 64 ∧
      ((stack (63 + 63 * 256)).me.getX 1).toNat ≤ (stack (63 + 63 * 256)).homeNat poolBase 8 / 256 % 128) ∧
    ((stack 1).ready (.dstka 0 1 2) = true ∧ (stack 1).ready (.dstkc 2) = true ∧ (stack 1).me.ember = false) := by
  decide +kernel

theorem witness_SortsAndStacks_area :
    StackAt (stack 64) (stack 64) ((stack 64).me.getX 2) true poolBase ∧ StackAt (stack 1) (stack 1) ((stack 1).me.getX 2) false poolBase :=
  ⟨⟨none, some (0, 0), rfl, by decide +kernel, by decide +kernel, rfl, ⟨by decide +kernel, rfl⟩, fun _ _ _ _ => rfl⟩,
    ⟨none, some (0, 0), rfl, by decide +kernel, by decide +kernel, rfl, ⟨by decide +kernel, rfl⟩, fun _ _ _ _ => rfl⟩⟩


/-! ## Witnesses: threads and launches -/

/-- Writes 8-byte words to home memory. -/
def words (l : List (Nat × Nat)) (s : State) : State := l.foldl (fun s e => s.writeHomeNat e.1 8 e.2) s

/-- A root at 0x20000, a group of one thread on one core at 0x20100 below it, and its image at 0x22000. -/
def placed (p : Slot) (pool : List Pend) : State :=
  words [(0x20000, 0), (0x20008, 0x7FFFF), (0x20018, 16 + 64 * 2 ^ 16 + 4 * 2 ^ 32 + 2 * 2 ^ 48), (0x20028, 1091), (0x20030, 0x22000),
      (0x20040, 2 ^ 32), (0x20048, 1), (0x20100, 0x20000), (0x20108, 6 * 2 ^ 32), (0x22000, 0x314B514E + 2 ^ 32),
      (0x22010, 64 + 4 * 2 ^ 32), (0x22018, 128)]
    { State.reset with
      slots := [(0, p)]
      cores := [(0, { Core.reset with part := 1091 })]
      hearths := [(0, { Hearth.reset with pool := pool })] }

/-- The stoker of core 0, with the group's address in x1. -/
def stoker : Slot := super (xs thread [(1, 0x20100), (2, 0)])

/-- An entry of the group in the pool. -/
def pend (state : Nat) (threads : List Placed) : Pend :=
  { (placed stoker []).newPend ((placed stoker []).path 0x20100).1 none none 0 with lseq := 1, state := state, threads := threads }

theorem witness_ThreadInstructions_spawn :
    let s := placed stoker [pend 3 [⟨0, 0, 1, 0⟩]]
    s.inFrame = false ∧ s.ready (.spawn 0 1 2 false 1) = true ∧ slotNo s.cur = 0 ∧ s.cur ≠ 1 ∧ s.slot 1 = Slot.free ∧ s.me.sb = [] ∧
    s.settled s.cur = true ∧ s.promised 1 (s.me.getX 1) 0 = some (0, pend 3 [⟨0, 0, 1, 0⟩]) ∧
    (∃ image, s.readImage s.cur (pend 3 []).g.kaddr = (s, .ok image) ∧ s.spawnStatus 1 (pend 3 []).g image false = 0 ∧
      s.readSegs s.cur (pend 3 []).g.paddr image.segs (Vector.replicate 8 Seg.empty) = (s, .ok (Vector.replicate 8 Seg.empty))) :=
  ⟨rfl, by decide +kernel, rfl, by decide +kernel, rfl, rfl, by decide +kernel, by decide +kernel, _, rfl, by decide +kernel, rfl⟩

/-- The stoker of core 0 with another thread in slot 1. -/
def two (p q : Slot) : State := { placed p [] with slots := [(0, p), (1, q)] }

theorem witness_ThreadInstructions_reap :
    ((st thread).ready (.reap 0 2) = true ∧ slotNo (st thread).cur ≠ 0) ∧
    ((two stoker (burning thread)).ready (.reap 15 1) = true ∧ ((two stoker (burning thread)).slot 1).burning = true ∧
      ((two stoker (burning thread)).slot 1).mode ≠ .stopped ∧ ((two stoker (burning thread)).slot 1).barrier ≠ some .reap) ∧
    ((two stoker thread).ready (.reap 15 1) = true ∧ ((two stoker thread).slot 1).burning = false ∧
      ((two stoker thread).slot 1).mode ≠ .free ∧ (two stoker thread).cur ≠ 16 * coreOf (two stoker thread).cur + 1) ∧
    ((two stoker thread).ready (.reap 15 2) = true ∧ ((two stoker thread).slot 2).mode = .free) := by decide +kernel

theorem witness_ThreadInstructions_exit :
    let b (k : Barrier) : State := st { thread with barrier := some k }
    ((st (burning thread)).ready .exit = true ∧ (st (burning thread)).me.burning = true) ∧
    ((st thread).ready .exit = true ∧ (st thread).me.burning = false ∧ slotNo (st thread).cur = 1) ∧
    ((b .exit).me.barrier = some .exit ∧ (b .exit).me.remoteTag = none ∧ (b .exit).fenced 1 .none = true) ∧
    ((b .ending).me.barrier = some .ending ∧ (b .ending).remoteDone 1 = true ∧ (b .ending).myCore.kilnOf 1 = [] ∧
      (b .ending).frozenStream 1 = false ∧ (b .ending).me.sub = none ∧ (b .ending).myCore.commands = [] ∧ (b .ending).groupOf 1 = none) := by decide +kernel

theorem witness_ThreadInstructions_end :
    let p := { thread with barrier := some .ending, lseq := 1, launcher := .hearth 0, ctl := { thread.ctl with rcba := 0x20100 } }
    let s := { placed stoker [pend 3 [⟨0, 0, 1, 1⟩]] with cur := 1, slots := [(1, p)] }
    s.me.barrier = some .ending ∧ s.frozenStream s.cur = false ∧ s.groupOf s.cur = some (0, pend 3 [⟨0, 0, 1, 1⟩]) ∧ s.me.remoteTag = none ∧ s.remoteDone s.cur = true ∧
    s.myCore.kilnOf s.cur = [] ∧ s.me.sub = none ∧ s.myCore.commands = [] := by decide +kernel

theorem witness_ThreadInstructions_embers :
    let e (w : Nat) : State := st (xs { thread with ctl := { thread.ctl with status := 8 } } [(1, w)])
    (∀ w, w ∈ [0, 0x100, 0x10000] → (e w).ready (.migr 0 1) = true ∧ (e w).me.burning = false ∧ (e w).me.ember = true ∧
      (e w).me.fills = [] ∧ (e w).me.sb = []) ∧
    ((e 0).me.getX 1).toNat / 2 ^ 16 % 2 ^ 13 = (e 0).pkg.number ∧
    (({ e 0x100 with clamps := [(1, { Clamp.reset with gated := true })] } : State).clamp 1).gated = true ∧
    (e 0x100).clampExists 1 = true ∧ ((e 0x100).clamp 1).gated = false ∧
    ((e 0x10000).me.getX 1).toNat / 2 ^ 16 % 2 ^ 13 ≠ (e 0x10000).pkg.number ∧
    ((st thread).ready (.migr 0 1) = true ∧ (st thread).me.ember = false) := by decide +kernel

theorem witness_ThreadInstructions_tasks :
    (let s := st { thread with extent := 4, ntask := 10, taskPos := 2 }
     s.ready (.dtask 15) = true ∧ s.me.ember = false ∧ s.me.extent ≠ 0 ∧
     s.me.ctl.lid.toNat % 2 ^ 32 + s.me.taskPos * s.me.extent < s.me.ntask) ∧
    ((st thread).ready (.dtask 15) = true ∧ (st thread).me.extent = 0) ∧
    ((st thread).ready (.slotq 0 1) = true ∧ (st thread).me.priv = false) ∧
    ((st (super thread)).ready (.slotq 0 1) = true ∧ (st (super thread)).me.priv = true ∧ ((st (super thread)).me.getX 1).toNat < 16) ∧
    ((st (super (xs thread [(1, 16)]))).ready (.slotq 0 1) = true ∧ 16 ≤ ((st (super (xs thread [(1, 16)]))).me.getX 1).toNat) := by
  decide +kernel

/-- A thread of the group launches the node at a. -/
def launching (a : Nat) (pool : List Pend) : State :=
  let p := xs { thread with ctl := { thread.ctl with rcba := 0x20100 } } [(1, a)]
  { placed p pool with cur := 1, slots := [(1, p)] }

theorem witness_LaunchAnswers :
    let s := launching 0x20100 []
    let r := s.releaseHome s.cur
    let path := (r.path 0x20100).1
    (s.ready (.launch 0 1 2 false) = true ∧ s.me.burning = false ∧ s.me.sb = [] ∧ s.settled s.cur = true ∧ path ≠ [] ∧
      r.launchStatus 0 path (r.path 0x20100).2 false (r.mayLaunch s.me.ctl.rcba 0x20100) true = 0 ∧ (rcbOf path).kind = 2 ∧
      r.poolRoom 0 (rcbOf path).parent = true ∧ r.overflowOf (rcbOf path).parent = []) ∧
    ((launching 0x7FFFFFFFFFF00 []).releaseHome 1).path 0x7FFFFFFFFFF00 = ([], false) ∧
    (let u := (launching 0x20000 []).releaseHome 1
     (u.path 0x20000).1 ≠ [] ∧ u.launchStatus 0 (u.path 0x20000).1 (u.path 0x20000).2 false (u.mayLaunch 0x20100 0x20000) true ≠ 0) ∧
    ((s.path 0x20100).1 ≠ [] ∧ s.launchStatus 0 (s.path 0x20100).1 (s.path 0x20100).2 false true true = 0 ∧
      (rcbOf (s.path 0x20100).1).kind = 2 ∧ s.poolRoom 0 (rcbOf (s.path 0x20100).1).parent = true ∧
      s.overflowOf (rcbOf (s.path 0x20100).1).parent = []) := by decide +kernel

/-- A region at 0x20200 and a job domain at 0x20300 below the root, the region with one parameter copy of 64 bytes, and a thread of the root that replays it. -/
def replays (a : Nat) (rpcn : Nat) : State :=
  let p := xs { thread with ctl := { thread.ctl with rcba := 0x20000 } } [(1, a)]
  words [(0x20300, 0x20000), (0x20308, 4 * 2 ^ 32), (0x20200, 0x20000), (0x20208, 2 ^ 18 + 5 * 2 ^ 32), (0x202F0, 0x30000), (0x202F8, rpcn + 64 * 2 ^ 32)]
    { placed p [] with cur := 1, slots := [(1, p)] }

theorem witness_LaunchAnswers_replay :
    let s := replays 0x20200 1
    (s.ready (.launch 0 1 2 true) = true ∧ s.me.burning = false ∧ s.me.sb = [] ∧ s.settled 1 = true ∧
      ((s.releaseHome 1).path 0x20200).1 ≠ [] ∧
      (s.releaseHome 1).replayBad 0x20200 ((s.releaseHome 1).mayLaunch 0x20000 0x20200) = false) ∧
    (((replays 0x20200 65).releaseHome 1).path 0x20200).1 ≠ [] ∧
    ((replays 0x20200 65).releaseHome 1).replayBad 0x20200 (((replays 0x20200 65).releaseHome 1).mayLaunch 0x20000 0x20200) = true ∧
    (((replays 0x7FFFFFFFFFF00 1).releaseHome 1).path 0x7FFFFFFFFFF00).1 = [] := by decide +kernel

/-- The nodes of the other kinds pass the checks. -/
theorem witness_LaunchAnswers_kinds :
    let s := (replays 0x20200 1).releaseHome 1
    let status (a : Word) : Nat := s.launchStatus 0 (s.path a).1 (s.path a).2 false (s.mayLaunch 0x20000 a) true
    (status 0x20200 = 0 ∧ (rcbOf (s.path 0x20200).1).kind = 1) ∧ (status 0x20300 = 0 ∧ (rcbOf (s.path 0x20300).1).kind = 0) := by
  decide +kernel

theorem witness_LaunchAnswers_full :
    let s := launching 0x20100 (List.replicate 4 (pend 1 []))
    let r := s.releaseHome s.cur
    let path := (r.path 0x20100).1
    s.ready (.launch 0 1 2 false) = true ∧ path ≠ [] ∧
    r.launchStatus 0 path (r.path 0x20100).2 false (r.mayLaunch s.me.ctl.rcba 0x20100) true = 0 ∧ (rcbOf path).kind = 2 ∧
    r.poolRoom 0 (rcbOf path).parent = false ∧ (r.overflowRoom (rcbOf path).parent = true) ∧
    ((words [(0x200A8, 2)] s).releaseHome 1).overflowRoom (rcbOf path).parent = false := by decide +kernel

theorem witness_LaunchEvents :
    (let e : Overflow := ⟨7, 0x20000, 0x20100, some (pend 1 []), 0, 0⟩
     let s := { placed stoker [] with hearths := [(0, { Hearth.reset with overflow := [e] })] }
     s.movable 0 = some e ∧ e.pend = some (pend 1 [])) ∧
    (let p := { pend 2 [] with prio := 6 }
     let s := at_ 1000000 (placed stoker [p])
     p ∈ (s.hearth 0).pool ∧ p.state = 2 ∧ p.prio < 7 ∧ p.since + 1000000 ≤ s.dtime ∧ (s.hearth 0).pool.Nodup) ∧
    (let p := pend 3 [⟨0, 0, 1, 3⟩]
     let s := placed stoker [p]
     s.entryBy 0 0x20100 s.mayComplete = some p) ∧
    (let p := { pend 3 [⟨0, 0, 1, 3⟩] with g := { (pend 3 []).g with flags := 65 } }
     (placed stoker [p]).entryBy 0 0x20100 Pend.rerunDue = some p) ∧
    (let k : Spark := .words 1 2 3 4
     let s := { placed stoker [] with cores := [(0, { Core.reset with sparksHeld := [k] })] }
     (s.core 0).sparksHeld = k :: [] ∧ (s.core 0).sparks.length < 32) := by decide +kernel

/-- Line 32 of hearth 0 has a dirty byte of slot 1, whose domain was `dom` when it wrote. -/
def failing (dom : Option Word) (p : Slot) (pool : List Pend) : State :=
  { st thread with
    slots := [(1, { p with reserved := dom })]
    hearths := [(0, { Hearth.reset with dirty := [(0x1000, ⟨5, [1], false⟩)], last := [(32, (1, dom))], pool := pool })] }

theorem witness_LaunchEvents_failure :
    (failing none thread []).lastWriter 0 32 = some (1, none) ∧
    ((failing (some 8) (burning thread) []).lastWriter 0 32 = some (1, some 8) ∧ (failing (some 8) (burning thread) []).slotsOf 8 = [1] ∧
      ((failing (some 8) (burning thread) []).slot 1).unreapable = true) ∧
    (let g := { pend 2 [⟨0, 0, 1, 1⟩] with g := { (pend 2 []).g with fdom := 8 } }
     let s := failing (some 8) thread [g]
     s.lastWriter 0 32 = some (1, some 8) ∧ s.slotsOf 8 = [1] ∧ (s.slot 1).unreapable = false ∧ s.recordSlot 1 8 = some 1 ∧
     g ∈ (s.hearth 0).pool ∧ s.inDomain 0 g 8 = true) := by decide +kernel

/-- A run of up to 2^17 bytes at a local address of this package lies there, where nothing of the range needs a table lookup. -/
theorem liesHere (s : State) (w : Word) (l n : Nat) (hp : s.pkg.number = 0) (hw : w.toNat = l) (hd : l + n ≤ 2 ^ 32)
    (hr : ∀ a, a < 2 ^ 32 → s.populated a = true) : LiesHere s w l n := by
  intro k hk
  have e : (w + BitVec.ofNat 64 k).toNat = l + k := by
    rw [BitVec.toNat_add, BitVec.toNat_ofNat, hw]; omega
  refine ⟨?_, ?_, hr _ (by omega)⟩
  · rw [hp, globalPkg, getField, fld, e]; omega
  · rw [globalLocal, getField, fld, e]; omega

theorem populated_low (s : State) (a : Nat) (h : a < 2 ^ 32) : s.populated a = true := by
  simp only [State.populated, isDram, Bool.or_eq_true, decide_eq_true_eq]
  left; left; omega

/-- Units with nothing on their way, beside L2s that hold nothing. -/
theorem unitsIdle (s : State) (h : Nat) (hu : s.pkg.units = []) (ho : s.othersDone (unitSlot h) true none = true)
    (he : ∀ e ∈ s.hearths, e.2.dirty = [] ∧ e.2.dtags = []) : UnitsIdle s h := by
  refine ⟨hu, ho, fun k a => ?_⟩
  have e := hearth_all s (fun x => x.dirty = [] ∧ x.dtags = []) ⟨rfl, rfl⟩ he k
  simp [State.holdsWord, e.1, e.2]

/-- The thread of slot 1 is being saved by a pre-emption of its group. -/
def preempted : State :=
  { placed stoker [pend 4 [⟨0, 0, 1, 1⟩]] with
    cores := [(0, { Core.reset with part := 67 })]
    slots := [(0, stoker), (1, { thread with
      mode := .leaving, lseq := 1, launcher := .hearth 0, ca := 0x40000, ctl := { thread.ctl with rcba := 0x20100 } })] }

theorem witness_LaunchEvents_save :
    let s := preempted
    let p := pend 4 [⟨0, 0, 1, 1⟩]
    (s.entryBy 0 0x20100 (fun p => p.state == 4) = some p ∧ p.replay = none ∧ (s.hearth 0).pool = [p] ∧
      (s.slot 1).mode = .leaving ∧ (s.slot 1).barrier = none ∧ s.saveReady 1 false = true ∧ s.groupOf 1 = some (0, p) ∧
      (s.slot 1).ctl.lid.toNat % 2 ^ 32 = 0 ∧ s.ownsTiles 1 = false ∧ s.nsg (coreOf 1) = 0 ∧ s.bad = [] ∧ hearthOf 1 = 0 ∧
      p.chain.map (·.rcba) = [0x20100, 0x20000]) := by decide +kernel

theorem witness_LaunchEvents_save_places :
    Safe preempted ∧ UnitsIdle preempted 0 ∧ LiesHere preempted 0x50000 0x50000 0x10000 ∧ LiesHere preempted 0x20100 0x20100 256 ∧
    LiesHere preempted 0x20000 0x20000 256 ∧ Apart 0x50000 0x10000 0x20100 256 ∧ Apart 0x50000 0x10000 0x20000 256 := by
  have l (w : Word) (a n : Nat) (h : w.toNat = a) (b : a + n ≤ 2 ^ 32) : LiesHere preempted w a n :=
    liesHere _ _ _ _ rfl h b (populated_low _)
  refine ⟨⟨by decide +kernel, by decide +kernel⟩, unitsIdle _ _ (by decide +kernel) (by decide +kernel) (by decide +kernel),
    l _ _ _ rfl (by decide), l _ _ _ rfl (by decide), l _ _ _ rfl (by decide), Or.inr (by decide), Or.inr (by decide)⟩

/-- The group of `pend` has ended; its RCB has the words of `l` besides. -/
def ended_ (l : List (Nat × Nat)) : State × Pend :=
  let s := words l (placed stoker [])
  let p := { s.newPend (s.path 0x20100).1 none none 0 with lseq := 1, state := 3, threads := [⟨0, 0, 1, 3⟩] }
  (s.updHearth 0 (fun h => { h with pool := [p] }), p)

/-- What every clause of a completion's record, tag, spark and successor needs, but for the places. -/
def Completes (l : List (Nat × Nat)) : Prop :=
  (ended_ l).1.entryBy 0 0x20100 (ended_ l).1.mayComplete = some (ended_ l).2 ∧ (ended_ l).2.replay = none ∧
    (ended_ l).2.window = none ∧ (ended_ l).1.bad = [] ∧ (ended_ l).2.g.succx = 0

/-- A group with a record ring, one with a tag, one with a spark, and one with a successor whose DEPCNT is `n`. -/
def withRecord : List (Nat × Nat) := [(0x20108, 2 ^ 10 + 6 * 2 ^ 32), (0x20148, 4 * 2 ^ 16), (0x20178, 0x60000)]
def withTag : List (Nat × Nat) := [(0x20108, 2 ^ 11 + 6 * 2 ^ 32), (0x20188, 0x60000)]
def withSpark : List (Nat × Nat) := [(0x20108, 2 ^ 12 + 6 * 2 ^ 32), (0x20190, 2 ^ 63)]
def withNext (n : Nat) : List (Nat × Nat) := [(0x20150, 0x60000), (0x60048, n * 2 ^ 32)]

theorem witness_LaunchEvents_record : Completes withRecord ∧
    (let p := (ended_ withRecord).2
     p.g.succ = [0, 0, 0, 0] ∧ p.g.caddr = 0x60000 ∧ p.g.crn = 4 ∧ p.g.ctag = 0 ∧ p.g.cspkd.getLsbD 63 = false) := by
  unfold Completes; decide +kernel

theorem witness_LaunchEvents_tag : Completes withTag ∧
    (let p := (ended_ withTag).2
     p.g.succ = [0, 0, 0, 0] ∧ p.g.caddr = 0 ∧ p.g.ctag = 0x60000 ∧ p.g.cspkd.getLsbD 63 = false) := by
  unfold Completes; decide +kernel

theorem witness_LaunchEvents_spark : Completes withSpark ∧
    (let p := (ended_ withSpark).2
     p.g.succ = [0, 0, 0, 0] ∧ p.g.cspkd.getLsbD 63 = true ∧ p.g.cspkd.toNat / 2 ^ 16 % 2 ^ 13 = (ended_ withSpark).1.pkg.number ∧
     p.g.caddr = 0 ∧ p.g.ctag = 0) := by
  unfold Completes; decide +kernel

theorem witness_LaunchEvents_successor : ∀ n ∈ [0, 1], Completes (withNext n) ∧
    (let p := (ended_ (withNext n)).2
     p.g.succ = [0x60000, 0, 0, 0] ∧ p.g.caddr = 0 ∧ p.g.ctag = 0 ∧ p.g.cspkd.getLsbD 63 = false ∧
     (ended_ (withNext n)).1.homeNat (0x60000 + 0x4C) 4 = n) := by
  unfold Completes; decide +kernel

theorem witness_LaunchEvents_complete_places :
    let s := (ended_ withRecord).1
    Safe s ∧ UnitsIdle s 0 ∧ LiesHere s 0x20100 0x20100 256 ∧ LiesHere s 0x60040 0x60040 64 ∧ LiesHere s 0x60000 0x60000 8 ∧
    LiesHere s 0x60000 0x60000 256 ∧ Apart 0x60040 64 0x20100 256 := by
  intro s
  have l (w : Word) (a n : Nat) (h : w.toNat = a) (b : a + n ≤ 2 ^ 32) : LiesHere s w a n :=
    liesHere _ _ _ _ (by decide +kernel) h b (populated_low _)
  exact ⟨⟨by decide +kernel, by decide +kernel⟩, unitsIdle _ _ (by decide +kernel) (by decide +kernel) (by decide +kernel),
    l _ _ _ rfl (by decide), l _ _ _ rfl (by decide), l _ _ _ rfl (by decide), l _ _ _ rfl (by decide), Or.inr (by decide)⟩


/-! ## Witnesses: the kiln and contexts -/

/-- A slot whose context area is 0. -/
def owner (c : Core) (p : Slot) : State := { st p with cores := [(0, { c with part := 1091, accown := 1 })] }

/-- A request of slot 1 for tile 0. -/
def req (kind : KKind) (timed : Bool) : KReq := { (st thread).request kind 0 0 128 0 0 0 false true [] with timed := timed }

theorem witness_KilnIssues :
    let s := owner Core.reset thread
    let busy := owner { Core.reset with kUntimed := some (req .zero false) } thread
    let noK := owner Core.reset { thread with sg := thread.sg.set 7 ⟨0x1FFFFFFC0000000, 0x1FFFF, 0x0F⟩ }
    let pitch := owner Core.reset (xs thread [(2, 64), (3, 128)])
    s.inFrame = false ∧
    (s.ready (.kmma 0 2 4 0 false true) = true ∧ (kilnRow s (.kmma 0 2 4 0 false true)).isSome = true) ∧
    ((kilnRow busy (.klda 1 2 false)).isSome = true ∧ busy.ready (.klda 1 2 false) = true ∧ busy.me.burning = false ∧
      busy.myCore.kUntimed ≠ none) ∧
    ((kilnRow (st thread) (.kzero 15)).isSome = true ∧ (st thread).ready (.kzero 15) = true ∧
      (st thread).myCore.kUntimed = none ∧ (st thread).myCore.accown.getLsbD 0 = false) ∧
    (s.myCore.kUntimed = none ∧ s.myCore.accown.getLsbD 0 = true ∧ s.myCore.accown.toNat / 2 ^ 17 = s.me.ca.toNat / 2 ^ 17) ∧
    (s.ready (.kcvt 0 2 3) = true ∧ ∀ k, kilnRow s (.kmma 0 2 4 0 true true) = some k → k.formatOk = false) ∧
    (noK.ready (.ksta 0 2) = true ∧ (noK.me.seg 7).rights.getLsbD 6 = false ∧
      ∀ k, kilnRow noK (.ksta 0 2) = some k → k.formatOk = true ∧ k.right = true) ∧
    (pitch.ready (.klda 0 2 true) = true ∧ ∀ k, kilnRow pitch (.klda 0 2 true) = some k → k.fault = some (Cause.align, 64)) ∧
    (∀ k, kilnRow s (.kzero 0) = some k → k.formatOk = true ∧ k.right = false ∧ k.fault = none) ∧
    (∀ k, kilnRow (owner Core.reset (burning thread)) (.kzero 0) = some k → k.fault = none) ∧
    ((owner Core.reset (burning thread)).ready (.kzero 0) = true ∧ (owner Core.reset (burning thread)).me.burning = true) := by
  simp only [kilnRow, matrixRow, rowsRow, Option.some.injEq, forall_eq']; decide +kernel

theorem witness_KilnIssues_others :
    let b (c : Core) : State := owner c { thread with barrier := some .ksync }
    ((st thread).ready (.kfmt 3 true true .e4m3 .e5m2) = true ∧ (st thread).ready (.kscaleA 1 2) = true ∧
      (st thread).ready (.kscaleB 1 2) = true ∧ (st thread).ready .ksync = true) ∧
    ((b { Core.reset with kUntimed := some (req .zero false) }).me.barrier = some .ksync ∧
      req .zero false ∈ (b { Core.reset with kUntimed := some (req .zero false) }).myCore.kilnOf 1 ∧ (req .zero false).cmd = none) ∧
    ((b Core.reset).me.barrier = some .ksync ∧ (b Core.reset).me.remoteTag = none ∧ (b Core.reset).me.mode = .running ∧ (b Core.reset).me.trapWait = none ∧
      (b Core.reset).myCore.kilnOf 1 = [] ∧ (b Core.reset).me.kDone ≤ (b Core.reset).cycle) ∧
    (let k : State := owner Core.reset { thread with barrier := some .ksync, kDone := 1 }
     k.me.barrier = some .ksync ∧ k.cycle < k.me.kDone) := by decide +kernel

theorem witness_KilnGrantsAndRetires :
    let run (q : KReq) : State := owner { Core.reset with kRun := [q] } thread
    ((st thread).clamp 0).kBusy ≤ (st thread).cycleOf 0 ∧
    (let s := owner { Core.reset with kTimed := some (req .zero true), kUntimed := some (req .zero false) } thread
     (s.core 0).kTimed = some (req .zero true) ∧ (req .zero true).timed = (s.core 0).kTimed.isSome ∧
     (req .zero true).grants + 1 = (req .zero true).needs ∧ 16 * 0 + ((s.clamp 0).lastCore + 1 + 0) % 16 = 0) ∧
    (∀ timed, { req .mmas timed with fmt := 64 }.grants + 1 < { req .mmas timed with fmt := 64 }.needs) ∧
    (let s := owner { Core.reset with kUntimed := some (req .lda false) } thread
     (s.core 0).kTimed = none ∧ (s.core 0).kUntimed = some (req .lda false)) ∧
    (let s : State := { st thread with clamps := [(0, { Clamp.reset with kBusy := 16 })] }
     s.cycleOf 0 < (s.clamp 0).kBusy) ∧
    (∀ k, k ∈ [KKind.zero, .mma, .mmas, .mmv, .sta] → ((run (req k false)).core 0).kRun = req k false :: [] ∧
      (req k false).ends ≤ (run (req k false)).cycleOf 0 ∧ (run (req k false)).ownsKiln 0 (req k false) = true ∧
      (req k false).bad = none ∧ (run (req k false)).tileBad 0 (req k false) = none) ∧
    (((run { req .lda false with bad := some 5 }).core 0).kRun = { req .lda false with bad := some 5 } :: []) ∧
    (let q : KReq := { req .lda false with a := List.replicate 32 ⟨List.replicate 128 1, [], [], false⟩ }
     ((run q).core 0).kRun = q :: [] ∧ q.a.length = 32 ∧ (∀ r ∈ q.a, r.data.length = 128) ∧
     (((run q).core 0).tile q.t.toNat).length = 1024) ∧
    (128 ≤ descRp (req .sta false).oa ∧ descBase (req .sta false).ea + 31 * descRp (req .sta false).oa + 128 ≤ 2 ^ 19 ∧
      (((run (req .sta false)).core 0).tile (req .sta false).t.toNat).length = 1024) := by decide +kernel

/-- An uncorrectable byte of the tile that KSTA reads; and KCVT's row in a format of its own. -/
theorem witness_KilnGrantsAndRetires_more :
    let run (q : KReq) : State := owner { Core.reset with kRun := [q] } thread
    (let q := req .sta false
     let s : State := { run q with bad := [(poolAddr 0 ((run q).tileByte 0 q.t.toNat), true)] }
     (s.core 0).kRun = q :: [] ∧ q.bad = none ∧ (s.tileBad 0 q).isSome = true) ∧
    (let q := { req .cvt false with fmt := 3 }
     (cvtFormat q.fmt).isSome = true ∧ (∀ k, cvtFormat q.fmt = some k → cvtRow k ≤ descRp q.oa ∧
       descBase q.ea + 31 * descRp q.oa + cvtRow k ≤ 2 ^ 19) ∧ q.bad = none ∧ (run q).tileBad 0 q = none ∧
     ((run q).core 0).kRun = q :: [] ∧ (((run q).core 0).tile q.t.toNat).length = 1024) := by
  decide +kernel

theorem witness_KilnGrantsAndRetires_safe : Safe (owner { Core.reset with kRun := [req .sta false] } thread) := ⟨rfl, rfl⟩

/-- The stoker saves slot 1. -/
def saving : State := two { stoker with barrier := some (.ctxsv 1 true) } { thread with mode := .leaving }

theorem witness_ContextsMove :
    let free := two stoker Slot.free
    ((st (burning thread)).ready (.ctxsv true 3) = true ∧ (st (burning thread)).me.burning = true) ∧
    ((st thread).ready (.ctxsv false 3) = true ∧ (st thread).me.burning = false ∧ slotNo (st thread).cur ≠ 0) ∧
    (free.ready (.ctxsv false 1) = true ∧ (free.slot 1).mode = .free) ∧
    ((two stoker { thread with mode := .halted }).ready (.ctxsv false 1) = true) ∧
    ((two stoker (burning thread)).ready (.ctxsv true 1) = true ∧ ((two stoker (burning thread)).slot 1).burning = true) ∧
    (let s := two stoker thread
     s.ready (.ctxsv true 1) = true ∧ s.cur ≠ 1 ∧ (s.slot 1).mode = .running ∧ (s.slot 1).burning = false ∧
     (s.slot 1).traph = false ∧ (s.slot 1).deferred = []) ∧
    (saving.me.barrier = some (.ctxsv 1 true) ∧ saving.me.remoteTag = none ∧ (saving.slot 1).mode = .leaving ∧
      saving.saveReady 1 true = true ∧ saving.groupOf 1 = none ∧ (saving.slot 1).ctl.rcba = 0 ∧
      globalPkg ((saving.slot 1).ca + 0x10000) = saving.pkg.number ∧ saving.populated (globalLocal ((saving.slot 1).ca + 0x10000)) = true) ∧
    ((st (burning thread)).ready (.ctxld 1 3) = true ∧ (st thread).ready (.ctxld 1 3) = true) ∧
    ((two stoker thread).ready (.ctxld 3 1) = true ∧ ((two stoker thread).me.getX 3).toNat % 131072 = 0 ∧ ((two stoker thread).slot 1).mode ≠ .free) ∧
    (free.ready (.ctxld 3 1) = true ∧ (free.slot 1).mode = .free ∧ free.cur ≠ 1) := by decide +kernel

theorem witness_ContextsMove_safe : Safe saving := ⟨by decide +kernel, by decide +kernel⟩

/-- Slot 1 of a group that lies here. -/
def savingGroup : State :=
  { placed stoker [pend 3 [⟨0, 0, 1, 1⟩]] with
    slots := [(0, { stoker with barrier := some (.ctxsv 1 true) }), (1, { thread with
      mode := .leaving, lseq := 1, launcher := .hearth 0, ca := 0x40000, ctl := { thread.ctl with rcba := 0x20100 } })] }

theorem witness_ContextsMove_group :
    savingGroup.saveReady 1 true = true ∧ savingGroup.groupOf 1 = some (0, pend 3 [⟨0, 0, 1, 1⟩]) ∧
    (pend 3 []).chain.map (·.rcba) = [0x20100, 0x20000] ∧ (savingGroup.slot 1).mode = .leaving ∧
    globalPkg ((savingGroup.slot 1).ca + 0x10000) = savingGroup.pkg.number ∧
    savingGroup.populated (globalLocal ((savingGroup.slot 1).ca + 0x10000)) = true ∧
    savingGroup.me.barrier = some (.ctxsv 1 true) := by decide +kernel

theorem witness_ContextsMove_group_places :
    Safe savingGroup ∧ UnitsIdle savingGroup 0 ∧ LiesHere savingGroup 0x20100 0x20100 256 ∧ LiesHere savingGroup 0x20000 0x20000 256 ∧
    Apart 0x50000 0x10000 0x20100 256 ∧ Apart 0x50000 0x10000 0x20000 256 := by
  have l (w : Word) (a n : Nat) (h : w.toNat = a) (b : a + n ≤ 2 ^ 32) : LiesHere savingGroup w a n :=
    liesHere _ _ _ _ rfl h b (populated_low _)
  exact ⟨⟨by decide +kernel, by decide +kernel⟩, unitsIdle _ _ (by decide +kernel) (by decide +kernel) (by decide +kernel),
    l _ _ _ rfl (by decide), l _ _ _ rfl (by decide), Or.inr (by decide), Or.inr (by decide)⟩

theorem witness_ContextsMove_tiles :
    let busy (p : Slot) := owner { Core.reset with kUntimed := some (req .zero false) } p
    ((st (burning thread)).ready .accspill = true ∧ (st thread).ready .accspill = true ∧ (st thread).me.priv = false) ∧
    ((st (super thread)).ready .accspill = true ∧ (st (super thread)).me.priv = true ∧ (st (super thread)).myCore.accown.getLsbD 0 = false) ∧
    ((busy (super thread)).ready .accspill = true ∧ (busy (super thread)).myCore.accown.getLsbD 0 = true ∧
      (busy (super thread)).myCore.kilnIdle = false) ∧
    (let s := owner Core.reset (super thread)
     s.ready .accspill = true ∧ s.myCore.kilnIdle = true ∧ s.spillPending (coreOf s.cur) = false ∧ s.ready .accfill = true) ∧
    ((busy (super thread)).ready .accfill = true ∧ (st (burning thread)).ready .accfill = true ∧ (st thread).ready .accfill = true) := by
  decide +kernel

/-- A record at 0x30000 of the context area 0x20000: the group at 0x20200 has its image at 0x22000. -/
def recorded : State :=
  words [(0x30000, 1), (0x30010, 1091), (0x30210, 0x40200), (0x40208, 0x7FFFF), (0x40230, 0x22000), (0x22000, 0x314B514E + 2 ^ 32),
    (0x22010, 64 + 4 * 2 ^ 32), (0x22018, 128)] (two (xs stoker [(4, 0x20000)]) Slot.free)

theorem witness_ContextsMove_load :
    ∃ ws image, recorded.ready (.ctxld 4 1) = true ∧ recorded.me.burning = false ∧ slotNo recorded.cur = 0 ∧
      (recorded.me.getX 4).toNat % 131072 = 0 ∧ (recorded.slot 1).mode = .free ∧
      recorded.readWords 0 (0x20000 + 0x10000) recordWords = (recorded, .ok ws) ∧ recorded.recordRefused 0 ws = false ∧
      (bitOf (fieldOf ws 1 1) 2 = true → bitOf (fieldOf ws 1 1) 0 = true) ∧ recorded.saved 1 (recWord ws 0x210) (fieldOf ws 0x208 4) = none ∧
      recorded.readImage 0 (rcbOf (recorded.path (recWord ws 0x210)).1).kaddr = (recorded, .ok image) :=
  ⟨_, _, by decide +kernel, by decide +kernel, rfl, by decide +kernel, by decide +kernel, rfl, by decide +kernel, by decide +kernel,
    by decide +kernel, rfl⟩

theorem witness_ContextsMove_fill :
    let s : State := { st (super thread) with cores := [(0, { Core.reset with part := 7 })] }
    s.ready .accfill = true ∧ s.me.priv = true ∧ s.myCore.kilnIdle = true ∧ s.myCore.part = 7 ∧ s.spillPending (coreOf s.cur) = false ∧
    (s.spill s.cur (coreOf s.cur)).spillPending (coreOf s.cur) = false ∧
    (∃ t : State, (s.spill s.cur (coreOf s.cur)).fillTiles s.cur s.me.ca (List.range 1) = (t, .ok ())) :=
  ⟨by decide +kernel, by decide +kernel, by decide +kernel, rfl, by decide +kernel, by decide +kernel, _, rfl⟩

/-- A record of an earlier CTXLD of the same core is let in, an empty one refused; and a slot that its stoker saves may be stopped, halted or leaving. -/
theorem witness_ContextsMove_refused :
    (let s := words [(0x30000, 0x501)] recorded
     ∃ ws, s.ready (.ctxld 4 1) = true ∧ s.readWords s.cur ((s.me.getX 4) + 0x10000) recordWords = (s, .ok ws) ∧
       bitOf (fieldOf ws 1 1) 2 = true ∧ bitOf (fieldOf ws 1 1) 0 = true ∧ s.recordRefused (coreOf s.cur) ws = false) ∧
    (let s := words [(0x30000, 0)] recorded
     ∃ ws, s.readWords s.cur ((s.me.getX 4) + 0x10000) recordWords = (s, .ok ws) ∧ s.recordRefused (coreOf s.cur) ws = true) ∧
    (∀ m ∈ [Mode.stopped, .halted, .leaving], (two stoker { thread with mode := m }).ready (.ctxsv true 1) = true ∧
      ((two stoker { thread with mode := m }).slot 1).mode = m ∧ (two stoker { thread with mode := m }).inFrame = false) :=
  ⟨⟨_, by decide +kernel, rfl, by decide +kernel, by decide +kernel, by decide +kernel⟩, ⟨_, rfl, by decide +kernel⟩, by decide +kernel⟩

/-- The tiles go to a context area of this package, so nothing is outstanding; those of a distant one are, and the next spill waits. -/
theorem witness_ContextsMove_spill :
    let s := owner Core.reset (super thread)
    let away : State := { owner { Core.reset with spilling := some 1 } (super thread) with
      flue := { Flue.reset with streams := [⟨4, 1, 1, [⟨0, 1, 1, false⟩], 1, false⟩] } }
    s.myCore.accown.getLsbD 0 = true ∧ s.myCore.kilnIdle = true ∧ (s.spill s.cur (coreOf s.cur)).sending s.cur = false ∧
    away.spillPending (coreOf away.cur) = true ∧ away.myCore.kilnIdle = true ∧ away.ready .accfill = true ∧ away.ready .accspill = true ∧
    away.myCore.accown.getLsbD 0 = true := by decide +kernel

/-! ## Witnesses: copies and the media -/

/-- The thread with the words w0, w4 and w5 in its mailbox. -/
def mailed (w0 w4 w5 : Nat) : Slot := { thread with mb := [BitVec.ofNat 64 w0, 0, 0, 0, BitVec.ofNat 64 w4, BitVec.ofNat 64 w5, 0, 0] }

/-- A submission of the thread: form f, MB0 = w0, an offset in the source, an offset in the destination, a length. -/
def submission (f w0 so d n : Nat) : Submission :=
  ⟨f, false, false, .core, 3, [BitVec.ofNat 64 w0, BitVec.ofNat 64 so, BitVec.ofNat 64 d, BitVec.ofNat 64 n, 0, 0, 0, 0],
    thread.sg.toList, [0, 0, 0, 0], false, 0⟩

theorem witness_CopyInstructions :
    let e := { thread with ctl := { thread.ctl with status := 8 } }
    let busy := { thread with sub := some (submission 0 0 0 0 1) }
    let b (p : Slot) : State := st { p with barrier := some (.cpyx 2) }
    (st thread).inFrame = false ∧
    ((st e).ready (.cpyw 1 2 3) = true ∧ (st e).me.ember = true ∧ (st e).ready (.cpyq 0) = true ∧ (st e).ready (.cpyx 0) = true ∧
      (st e).ready (.cpy 0 .none .core) = true) ∧
    ((st busy).ready (.cpyw 1 2 3) = true ∧ (st busy).me.ember = false ∧ (st busy).me.sub ≠ none ∧ (st busy).ready (.cpyk 0 .acq .pkg) = true) ∧
    ((st thread).ready (.cpyw 15 0 3) = true ∧ (st thread).me.sub = none ∧ (st thread).me.mb.length = 8) ∧
    ((st thread).ready (.cpyq 15) = true ∧ (st thread).ready (.cpyx 15) = true ∧ (st thread).me.burning = false ∧
      (st (burning thread)).ready (.cpyx 15) = true ∧ (st (burning thread)).me.burning = true) ∧
    ((b busy).me.barrier = some (.cpyx 2) ∧ (b busy).me.remoteTag = none ∧ (b busy).me.sub ≠ none) ∧
    ((b thread).me.barrier = some (.cpyx 2) ∧ (b thread).me.sub = none ∧ (b thread).commandsOf 1 = []) := by decide +kernel

theorem witness_CopyInstructions_forms :
    (copyRow (.cpys 4 .rel .sys)).isSome = true ∧ (st thread).ready (.cpys 4 .rel .sys) = true ∧
    ((st (mailed 2 0 3)).ready (.cpy 0 .none .core) = true ∧ ((st (mailed 2 0 3)).me.mb.getD 0 0).toNat % 4 = 2 ∧
      ((st (mailed 2 0 3)).me.mb.getD 5 0).toNat % 4 ≠ 0) ∧
    (((st (mailed 2 0 8)).me.mb.getD 5 0).toNat % 4 = 0) ∧
    (((st (mailed (1 + 2 ^ 21) 0 0)).me.mb.getD 0 0).toNat % 4 = 1) := by decide +kernel

theorem witness_CopyInstructions_blocks :
    BlockWrong 0 0x20 ∧ BlockWrong 0 3 ∧ ¬ BlockWrong 0 0 ∧ ¬ BlockWrong 0 2 ∧ ¬ BlockWrong 0 0x200001 ∧ ¬ BlockWrong 1 0xC0 ∧
    ¬ BlockWrong 2 0x100000000 ∧ ¬ BlockWrong 3 0x20 := by
  refine ⟨?_, ?_, ?_, ?_, ?_, ?_, ?_, ?_⟩ <;> (simp only [BlockWrong]; decide)

theorem witness_CopyInstructions_word :
    (∃ p, (st (mailed (1 + 2 ^ 21) 8 0)).resolve 1 (completionAccess (mailed (1 + 2 ^ 21) 8 0)) = (st (mailed (1 + 2 ^ 21) 8 0), .ok [p])) ∧
    ((st (mailed (1 + 2 ^ 21) 0x10000 0)).resolve 1 (completionAccess (mailed (1 + 2 ^ 21) 0x10000 0))).2 = .fault Cause.seglim :=
  ⟨⟨_, rfl⟩, by decide +kernel⟩

/-- A command of slot 1 with a status, the form f and the completion mode in w0. -/
def command (f w0 : Nat) (x : Option Nat) : Command := ⟨1, 0, 0, 0, submission f w0 0 0x100 8, x, 0, 0, none, false, false, some 0, true, false, false,
  false, false⟩

/-- Core 0 with these commands and reads of flash. -/
def queued (cs : List Command) (rs : List NvmeRead) : State :=
  { st thread with cores := [(0, { Core.reset with part := 1091, commands := cs })], pkg := { Pkg.reset with nvme := rs } }

theorem witness_CopyEvents_accept :
    let b (so d n : Nat) : Submission := { submission 0 (2 ^ 15 + 2 ^ 18) so d n with sg := (thread.sg.set 1 ⟨0x1000, 0xFFFF, 0x1B⟩).toList }
    let s (x : Submission) : State := st { thread with sub := some x }
    (((s (b 0 0x100 8)).core 0).commands.length < 32 ∧ ((s (b 0 0x100 8)).core 0).acceptNext = 0 ∧ ((s (b 0 0x100 8)).slot 0).sub = none ∧
      ((s (b 0 0x100 8)).slot 1).sub = some (b 0 0x100 8) ∧ ((s (b 0 0x100 8)).slot 1).mode ≠ .free) ∧
    ((b 0 0 0).form = 0 ∧ (b 0 0 0).tags = false ∧ (b 0 0 0).scoord = false ∧ (b 0 0 0).dcoord = false ∧ (b 0 0 0).ssg = 1 ∧
      (b 0 0 0).dsg = 1 ∧ segGlobal ((b 0 0 0).seg 1) = false ∧ (b 0 0 0).word 3 = 0) ∧
    (Inside ((b 0 0xFFF8 8).seg 1) 0xFFF8 8 ∧ ¬ Inside ((b 0 0xFFF9 8).seg 1) 0xFFF9 8 ∧ ((b 0 0 8).seg 1).rights.getLsbD 0 = true ∧
      ((b 0 0 8).seg 1).rights.getLsbD 1 = true) ∧
    ((b 0 7 8).soff.toNat < (b 0 7 8).doff.toNat + 8 ∧ (b 0 7 8).doff.toNat < (b 0 7 8).soff.toNat + 8 ∧
      (b 0 8 8).soff.toNat + 8 ≤ (b 0 8 8).doff.toNat) := by simp only [Inside]; decide +kernel

theorem witness_CopyEvents_window :
    let b (so d n : Nat) : Submission := { submission 0 (2 ^ 15 + 2 ^ 18) so d n with sg := (thread.sg.set 1 ⟨0x1000, 0xFFFF, 0x1B⟩).toList }
    OffWindow ((b 0 0x100 8).seg (b 0 0x100 8).ssg) (b 0 0x100 8).soff.toNat 8 ∧
    OffWindow ((b 0 0x100 8).seg (b 0 0x100 8).dsg) (b 0 0x100 8).doff.toNat 8 ∧ OffWindow ((b 0 0 0).seg 1) 0 0 := by
  simp only [OffWindow]; decide +kernel

theorem witness_CopyEvents_complete :
    let q (c : Command) := queued [c] []
    ((q (command 0 0 (some 5))).mayRun 0 0 = some (command 0 0 (some 5)) ∧ (command 0 0 (some 5)).pos = some 0 ∧ (q (command 0 0 (some 5))).streamDone 0 0 = true ∧ (command 0 0 (some 5)).filled = false ∧
      (command 0 0 (some 5)).status = some 5 ∧ (command 0 0 (some 5)).sub.cmode = 0 ∧
      (command 0 0 (some 5)).sub.rel = false ∧ (q (command 0 0 (some 5))).issuerHolds 0 (command 0 0 (some 5)) = true) ∧
    ((q (command 0 2 (some 0))).mayRun 0 0 = some (command 0 2 (some 0)) ∧ (q (command 0 2 (some 0))).streamDone 0 0 = true ∧
      (command 0 2 (some 0)).sub.cmode = 2 ∧ (command 0 2 (some 0)).noWord = false ∧ (command 0 2 (some 0)).sub.rel = false ∧
      (q (command 0 2 (some 0))).issuerHolds 0 (command 0 2 (some 0)) = true ∧ ((q (command 0 2 (some 0))).slot 1).completions.length < 8) ∧
    (let s : State := { q (command 0 0 (some 5)) with flue := { Flue.reset with streams := [⟨60, 1, 1, [⟨0, 1, 1, false⟩], 1, false⟩] } }
     s.mayRun 0 0 = some (command 0 0 (some 5)) ∧ s.streamDone 0 0 = false) ∧
    (let c := { command 0 0 none with parked := some 7 }
     ((q c).core 0).commands[0]? = some c ∧ c.parked = some 7) := by decide +kernel

/-- A CPYK whose bytes are moved: its kiln word names no form, or a KMMA of tile 0 while the core's tiles have the owner or not. -/
theorem witness_CopyEvents_kiln :
    let c (w0 : Nat) : Command := { command 2 w0 none with moved := (command 2 w0 none).sub.total }
    let k := 3019898896 * 2 ^ 32
    let s (c : Command) (own : Word) : State := { st thread with cores := [(0, { Core.reset with part := 1091, accown := own, commands := [c] })] }
    ((s (c 0) 1).kilnDue 0 0 = some (c 0) ∧ (s (c 0) 1).cpykRequest 0 (c 0) = .inr CStatus.badcmd) ∧
    ((s (c k) 0).kilnDue 0 0 = some (c k) ∧ kilnWord (c k).sub.kword ≠ none ∧ ((s (c k) 0).core 0).accown.getLsbD 0 = false) ∧
    ((s (c k) 1).kilnDue 0 0 = some (c k) ∧ ∃ r, (s (c k) 1).cpykRequest 0 (c k) = .inl r) :=
  ⟨by decide +kernel, by decide +kernel, by decide +kernel, _, rfl⟩

theorem witness_CopyEvents_copy :
    let c := command 0 (2 ^ 15 + 2 ^ 18) none
    let s := queued [c] []
    (s.mayRun 0 0 = some c ∧ c.pos ≠ none ∧ c.status = none ∧ c.lost = false ∧ c.sub.form = 0 ∧ c.sub.tags = false ∧ c.moved = 0 ∧
      c.sub.cmode = 0 ∧ c.sub.rel = false ∧
      c.sub.word 3 = 8 ∧ 8 ≤ 64 - ((c.sub.seg c.sub.dsg).base.toNat + c.sub.doff.toNat) % 64 ∧ s.bad = [] ∧ (s.hearth 0).bad = [] ∧ s.flue.streams = [] ∧
      s.flue.releases = [] ∧ (s.slot 15).sb = [] ∧ isPool 0x1100 = false ∧
      4096 * ((s.hearth 0).dirty.length + (s.hearth 0).dtags.length) < l2Bytes) ∧
    s.resolveAs 1 c.sub.root (!c.sub.priv) (c.sub.seg c.sub.ssg) ⟨c.sub.ssg, c.sub.soff, 8, 1, 0x01, 0, false, false⟩ = (s, .ok [⟨.here 0x1000, 8, none, none⟩]) ∧
    s.resolveAs 1 c.sub.root (!c.sub.priv) (c.sub.seg c.sub.dsg) ⟨c.sub.dsg, c.sub.doff, 8, 1, 0x02, 1, false, false⟩ = (s, .ok [⟨.here 0x1100, 8, none, none⟩]) :=
  ⟨by decide +kernel, rfl, rfl⟩

theorem witness_CopyEvents_storage :
    let r : NvmeRead := ⟨0, 0, 0, 0, 3, 1, 0, 8, 0, [], none⟩
    let c := { command 3 (2 ^ 18) none with handed := true }
    let s := queued [c] [r]
    ((queued [] [r]).pkg.nvme[0]? = some r ∧ r.data = none ∧ (queued [] [r]).readCommand r = none) ∧
    (s.pkg.nvme[0]? = some r ∧ s.readCommand r = some (0, c) ∧ r.stage = 0 ∧ 0 < r.bytes ∧ isDram 0x1100 = true) ∧
    ({ s with pkg := { s.pkg with nvme := s.pkg.nvme.eraseIdx 0 } } : State).resolveAs (16 * r.core + r.slot) c.sub.root (!c.sub.priv) (c.sub.seg c.sub.dsg)
      ⟨c.sub.dsg, c.sub.doff + 0, r.bytes, 1, 0x02, 1, false, false⟩ =
        ({ s with pkg := { s.pkg with nvme := s.pkg.nvme.eraseIdx 0 } }, .ok [⟨.here 0x1100, 8, none, none⟩]) ∧
    Safe s := ⟨by decide +kernel, by decide +kernel, rfl, by decide +kernel, by decide +kernel⟩

/-- A thread of slot 1 that belongs to a step with one record in its window. -/
def stepping (p : Slot) : State :=
  let w : StepWindow := ⟨0, 100000, [⟨0x60000, 0, 64, 5, 6, 7, false⟩]⟩
  let p := { p with lseq := 1, launcher := .hearth 0, ctl := { p.ctl with rcba := 0x20100 } }
  { placed stoker [{ pend 3 [⟨0, 0, 1, 1⟩] with window := some w }] with cur := 1, slots := [(1, p)] }

theorem witness_MediaInstructions :
    ((st thread).ready (.mack 3) = true ∧ (st thread).ready (.mwinCount 0) = true ∧ (st thread).ready (.mwin 15 2) = true ∧
      (st thread).ready (.mtick 0) = true ∧ (st thread).windowOf 1 = none) ∧
    (let s := stepping (xs thread [(1, 1)])
     (s.windowOf s.cur).isSome = true ∧ s.ready (.mwinCount 0) = true ∧ s.ready (.mtick 0) = true ∧
     s.ready (.mwin 15 0) = true ∧ (s.me.getX 0).toNat = 0 ∧ s.ready (.mwin 15 1) = true ∧ (s.me.getX 1).toNat = 1 ∧
     s.ready (.mack 1) = true ∧ s.me.fills = [] ∧ s.me.burning = false ∧ (s.groupOf s.cur).isSome = true ∧ (s.sink 0).done = [] ∧
     s.homeNat (0x60000 + 8) 8 = 0) ∧
    (let s := stepping (burning thread)
     s.ready (.mack 0) = true ∧ s.me.burning = true ∧ s.me.held < 32) ∧
    (stepping { thread with fills := [fill false 1 [] none] }).me.fills ≠ [] ∧
    (stepping { thread with fills := [fill false 1 [] none] }).ready (.mack 0) = true := by decide +kernel

/-- A thread of a step that another package launched: its window is not in this package (log 92). -/
def visiting (p : Slot) : State :=
  st { p with lseq := 1, launcher := .away, ctl := { p.ctl with rcba := BitVec.ofNat 64 (5 * 2 ^ 51 + 0x20100) } }

theorem witness_MediaInstructions_far (w : StepWindow) (h : farWindow (BitVec.ofNat 64 (5 * 2 ^ 51 + 0x20100)) 1 = some w) :
    let s := visiting thread
    s.windowOf s.cur = some w ∧ s.groupOf s.cur = none ∧ s.me.fills = [] ∧ s.me.burning = false ∧ s.ready (.mack 0) = true :=
  ⟨h, rfl, rfl, by decide +kernel, by decide +kernel⟩

theorem witness_MediaInstructions_safe : Safe (stepping (xs thread [(1, 1)])) := ⟨by decide +kernel, by decide +kernel⟩

/-- Descriptor 0 of a running tick generator: period 100,000 ns, no guard, sink 0x60000 of 4 records whose stream is 9; and the sink's
state. -/
def ticking (period prod : Nat) (k : Sink) : State :=
  let s := words [(0x50000, 0x20100), (0x50008, 0x60000), (0x50010, period), (0x50018, 100000), (0x50030, 1), (0x60000, prod),
    (0x60010, 4 + 9 * 2 ^ 32), (0x60048, 9 * 2 ^ 32)] (placed stoker [])
  { s with pkg := { s.pkg with tickctl := 0x50003, sinks := [(0, k)] } }

def sinkRec (off stamp : Nat) : SinkRec := ⟨⟨0x60000, 0, off, stamp, 9, 0, false⟩, 0, false⟩

/-- That descriptor, and the state that holds its tick. -/
def served : TickDesc := ((ticking 100000 0 Sink.reset).tickDesc 0).getD ⟨0, 0, 0, 0, 0, 0, 0, 0⟩
def slipped : State := ticking 100000 0 { Sink.reset with heldTick := some 0, heldDesc := some served }

/-- The descriptor in effect: due at 0, not due once the instant's tick has fired, and due when memory no longer enables it. -/
theorem witness_TicksAndTime_effect :
    (let s := ticking 100000 0 { Sink.reset with desc := some served }
     s.tickDesc 0 = some served ∧ (s.sink 0).desc = some served ∧ served.phase ≤ s.dtime ∧ (s.dtime - served.phase) % served.period = 0 ∧
     (s.sink 0).lastTick = none ∧ s.bad = []) ∧
    (let s := ticking 100000 0 { Sink.reset with desc := some served, lastTick := some 0 }
     s.tickDesc 0 = some served ∧ (s.sink 0).desc = some served ∧ (s.sink 0).lastTick = some 0 ∧ s.dtime = 0) ∧
    (let s := words [(0x50030, 0)] (ticking 100000 0 { Sink.reset with desc := some served })
     s.hasTick 0 = true ∧ (s.sink 0).desc = some served ∧ s.tickDesc 0 = none ∧ s.tickDue 0 served = true) := by decide +kernel

theorem witness_TicksAndTime :
    ((ticking 1 0 Sink.reset).tickDesc 0).isSome = true ∧ ((ticking 100000 0 Sink.reset).tickDesc 0).isSome = true ∧
    (∀ d, (ticking 1 0 Sink.reset).tickDesc 0 = some d → d.period < 100000 ∧ d.ctl / 16 % 2 = 0) ∧
    (∀ d, (ticking 100000 0 Sink.reset).tickDesc 0 = some d → d.legal = true ∧ d.phase = 0 ∧ d.period = 100000 ∧ d.sink = 0x60000 ∧
      d.ownTick 0 = 100000) ∧
    (let s := ticking 100000 0 { Sink.reset with step := some (0, 1) }
     (s.sink 0).step ≠ none ∧ (s.sink 0).recs = [] ∧ s.dtime = 0) ∧
    (let s := at_ 100000 (ticking 100000 0 { Sink.reset with step := some (0, 1), recs := [sinkRec 64 0] })
     (s.sink 0).recs = [sinkRec 64 0] ∧ (s.sink 0).passed = [] ∧ s.dtime = 100000) ∧
    ((ticking 100000 1 Sink.reset).nextRecord 0).isSome = true ∧
    (∀ d, (ticking 100000 1 Sink.reset).tickDesc 0 = some d → (ticking 100000 1 Sink.reset).recordBad d 0x60040 = false) ∧
    ((words [(0x60048, 0)] (ticking 100000 1 Sink.reset)).homeNat (0x60040 + 0x0C) 4 ≠ 9 ∧
      ((words [(0x60048, 0)] (ticking 100000 1 Sink.reset)).nextRecord 0).isSome = true) ∧
    ((at_ 200001 (ticking 100000 0 { Sink.reset with recs := [sinkRec 64 0] })).nextExpired 0).isSome = true ∧
    (slipped.slipDue 0 = some served ∧ (slipped.submit 0 served.rcba true (some ⟨0, 0, []⟩)).2 < 2 ^ 63 ∧
      (rcbOf (slipped.path served.rcba).1).kind = 2) := by
  refine ⟨by decide +kernel, by decide +kernel, ?_, ?_, by decide +kernel, by decide +kernel, by decide +kernel, ?_, by decide +kernel,
    by decide +kernel, by decide +kernel⟩
  · intro d h; cases h; decide +kernel
  · intro d h; cases h; decide +kernel
  · intro d h; cases h; decide +kernel

theorem witness_TicksAndTime_safe : Safe (ticking 100000 1 Sink.reset) := ⟨by decide +kernel, by decide +kernel⟩

theorem witness_TicksAndTime_steps :
    (∃ e ∈ (st (burning thread)).slots, e.2.mode ≠ .free ∧ e.2.mode ≠ .stopped ∧ e.2.burning = true) ∧
    (∀ e ∈ (st thread).slots, e.2.mode ≠ .free → e.2.mode ≠ .stopped → e.2.burning = false) ∧
    (∀ e ∈ (st { burning thread with mode := .stopped }).slots, e.2.mode ≠ .free → e.2.mode ≠ .stopped → e.2.burning = false) ∧
    (⟨0, true, 2 ^ 40, 10 ^ 6⟩ : TimeReference).kind < 3 ∧ 2 < (⟨3, true, 0, 0⟩ : TimeReference).kind := by decide +kernel

/-! ## Witnesses: embers and the fabric -/

/-- A packet for a thread of an unknown group. -/
def packet : EmberPacket := ⟨0x40200, 1, 0, 1, 0xFFFF, 0x40, 8, List.replicate 16 7, List.replicate 8 Seg.empty⟩

theorem witness_EmbersMove :
    let c (k : Clamp) : State := { st thread with clamps := [(1, k)] }
    let b (k : Barrier) : State := st { thread with barrier := some k, ctl := { thread.ctl with status := 8 } }
    ((packet.rcba, packet.lid, packet.mseq) ∈ ((c { Clamp.reset with accepted := [(0x40200, 1, 1)] }).clamp 1).accepted) ∧
    ((packet.rcba, packet.lid, packet.mseq) ∉ ((c Clamp.reset).clamp 1).accepted ∧ ((c Clamp.reset).clamp 1).embers.length < 64) ∧
    (64 ≤ ((c { Clamp.reset with embers := List.replicate 64 packet }).clamp 1).embers.length ∧ 5 ≠ (st thread).pkg.number) ∧
    (((b (.sent 5 1 packet false)).slot 1).barrier = some (.sent 5 1 packet false) ∧
      ((b (.sent 5 1 packet true)).slot 1).barrier = some (.sent 5 1 packet true)) ∧
    (let s := words [(0x40208, 0x7FFFF), (0x40218, 1)] (c { Clamp.reset with embers := [packet] })
     (s.clamp 1).embers = packet :: [] ∧ s.clampOff 1 = false ∧ (s.emberSlot 1 packet).isSome = true) ∧
    (let s : State := { c { Clamp.reset with embers := [packet] } with
       cores := (List.range 16).map (fun k => (16 + k, { Core.reset with closed := true })) }
     (s.clamp 1).embers = packet :: [] ∧ s.emberSlot 1 packet = none) ∧
    (let s := b (.depart 0 1 0 0x44)
     s.me.barrier = some (.depart s.pkg.number 1 0 0x44) ∧ s.me.remoteTag = none ∧ s.me.deferred = [] ∧ s.fenced s.cur .none = true ∧
     s.me.written = [] ∧ s.remoteDone s.cur = true ∧ s.sending s.cur = false ∧ s.me.ember = true ∧
     globalPkg (s.me.ca + 0x10000) = s.pkg.number ∧ (s.clamp 1).embers.length < 64 ∧
     (s.me.ctl.rcba, s.me.ctl.lid, s.me.mseq + 1) ∉ (s.clamp 1).accepted ∧
     64 ≤ (({ s with clamps := [(1, { Clamp.reset with embers := List.replicate 64 packet })] } : State).clamp 1).embers.length ∧
     (s.me.ctl.rcba, s.me.ctl.lid, s.me.mseq + 1) ∉
       (({ s with clamps := [(1, { Clamp.reset with embers := List.replicate 64 packet })] } : State).clamp 1).accepted) := by decide +kernel

theorem witness_EmbersMove_landing :
    let s := { recorded with cur := 1, slots := [(1, landed packet 0 false)] }
    ∃ path ws image, s.me.barrier = some (.landing packet) ∧ s.me.remoteTag = none ∧
      s.readPath s.cur 8 packet.rcba = (s, .ok (path, true)) ∧ s.allPends = [] ∧
      s.readWords s.cur ((rcbOf path).savea + BitVec.ofNat 64 (131072 * (packet.lid.toNat % 2 ^ 32)) + 0x10000) recordWords = (s, .ok ws) ∧
      s.readImage s.cur (rcbOf path).kaddr = (s, .ok image) :=
  ⟨_, _, _, rfl, rfl, rfl, rfl, rfl, rfl⟩

/-- Keys of both directions of a link. -/
def someKeys : KeySet := ⟨[1], [2], [3, 3, 3, 3], [3, 3, 3, 3]⟩

/-- Port 0 is the only link with keys. -/
def linked (l : Link) : State := booted { st thread with flue := { Flue.reset with links := [(0, { l with keys := some someKeys })] } }

/-- A flit that arrives with a body. -/
def flit (b : FlitBody) : LinkFlit := sealed { { Link.reset with keys := some someKeys }.frame 0 0 b with len := 8 }

theorem witness_LinksCarry_sends :
    let l := linked Link.reset
    (∀ p, p < 32 → ((st thread).link p).live = false) ∧
    (∃ d, flitDest (.emberack 5000 1 true) = some d ∧ l.inTree 5000 = true ∧
      ({ l with flue := { l.flue with levels := 2 } } : State).inTree 5000 = false) ∧
    ((∀ q, q < 32 → q ≠ 0 → (l.link q).live = false) ∧ (l.link 0).live = true ∧ (l.link 0).replay.length < 512 ∧
      flitsBefore (.emberack 5 1 true) = 0 ∧ (l.link 0).keyoutAt = none ∧ (l.link 0).stalled = false ∧ (l.link 0).fctr < 2 ^ 40 - 1 ∧
      (l.link 0).paused = false ∧ (l.link 0).held = [] ∧ (l.link 0).again = [] ∧ (l.link 0).owed = []) ∧
    OnlyLink l 0 := by
  refine ⟨by decide +kernel, ⟨_, rfl, rfl, rfl⟩, by decide +kernel, ?_⟩
  simp only [OnlyLink]; decide +kernel

theorem witness_LinksCarry_receives :
    let l := linked Link.reset
    (∀ b ∈ [FlitBody.lack 3 false, .pause true, .idle, .flagack ⟨0, 1, 0⟩, .flagack ⟨2 ^ 17, 1, 0⟩], legalFlit (flit b) = true ∧
      (flit b).crcOk = true ∧ (l.link 0).sealHolds (flit b) = true ∧ (flit b).type ≠ 0x22) ∧
    (legalFlit { flit .idle with spare := 1 } = false ∧ legalFlit { flit .idle with len := 225 } = false ∧
      { flit .idle with crcOk := false }.crcOk = false ∧
      (l.link 0).sealHolds { flit .idle with tagOk := false } = false ∧ (l.link 0).sealHolds { flit .idle with fctr := 1 } = false) ∧
    (flitDest (flit (.flagack ⟨0, 1, 0⟩)).body = some 0 ∧ (flit (.flagack ⟨0, 1, 0⟩)).lseq = (l.link 0).rxNext ∧ l.answersTo 0 = true ∧
      flitDest (flit (.flagack ⟨2 ^ 17, 1, 0⟩)).body = some 1 ∧ l.answersTo 1 = false ∧
      ((linked { Link.reset with rxNext := 1 }).link 0).rxNext ≠ 0) ∧ ((st thread).link 0).live = false ∧
    (let m (sg : List Byte) : KeyExchange := { offerOf 0 0 [] with signature := sg }
     legalFlit (flit (.keyx (m []))) = true ∧ legalFlit (flit (.keyx (m [1]))) = true ∧ (m [1]).signature ≠ [] ∧
     (l.link 0).sealHolds (flit (.keyx (m []))) = true ∧ (l.link 0).rekeying = false ∧
     ((linked { Link.reset with rekeying := true }).link 0).rekeying = true ∧ ((linked { Link.reset with rekeying := true }).link 0).signed = false ∧
     ((linked { Link.reset with rekeying := true, signed := true }).link 0).signed = true) := by
  refine ⟨by decide +kernel, by decide +kernel, by decide +kernel, by decide +kernel, rfl, by decide +kernel⟩

theorem witness_LinksCarry :
    let l := linked Link.reset
    let unsent := linked { Link.reset with replay := [(3, ⟨.idle, 0⟩), (4, ⟨.idle, 0⟩)] }
    ((unsent.link 0).replay = [] ++ (3, ⟨FlitBody.idle, 0⟩) :: [(4, ⟨.idle, 0⟩)] ∧ (unsent.link 0).held = [] ∧ (unsent.link 0).again = [] ∧
      (∀ e ∈ (unsent.link 0).replay, e.1 ≠ 2) ∧ (unsent.link 0).fctr + (unsent.link 0).replay.length < 2 ^ 40 ∧
      (unsent.link 0).down = false ∧ ∀ q, q < 32 → q ≠ 0 → (unsent.link q).live = false) ∧
    (let s : State := { unsent with flue := { unsent.flue with links := unsent.flue.links ++ [(1, { Link.reset with keys := some someKeys })] } }
     (s.link 0).down = false ∧ (s.link 1).live = true ∧ (∀ k, k < 32 → k ≠ 0 → k ≠ 1 → (s.link k).live = false) ∧
     (s.link 1).replay.length + 2 ≤ 512 ∧ (s.link 1).fctr + 2 ≤ 2 ^ 40 - 1 ∧ (s.link 1).keyoutAt = none ∧ (s.link 1).stalled = false ∧
     (s.link 1).paused = false ∧ (s.link 1).held = [] ∧ (s.link 1).again = []) ∧
    (((linked { Link.reset with fctr := 2 ^ 39 }).link 0).live = true ∧ ((linked { Link.reset with fctr := 2 ^ 39 }).link 0).rekeying = false ∧
      2 ^ 39 ≤ ((linked { Link.reset with fctr := 2 ^ 39 }).link 0).fctr ∧ (l.link 0).fctr < 2 ^ 39) ∧
    (2 ^ 40 - 1 ≤ ((linked { Link.reset with fctr := 2 ^ 40 - 1 }).link 0).fctr) ∧
    (((linked { Link.reset with keyoutAt := some 5 }).link 0).keyoutAt = some 5 ∧ 5 + 50000000 ≤ (at_ 50000005 l).dtime ∧
      l.dtime < 5 + 50000000) ∧ l.flue.waiting = [] ∧ (l.link 0).owed = [] ∧ (l.link 0).stalled = false ∧ (l.link 0).held = [] ∧
    (l.link 0).again = [] := by decide +kernel

/-- The signature of a peer is good or not: the free function decides, and the statement speaks of both. -/
theorem witness_LinksCarry_keys (m : KeyExchange) :
    Config.ed448Verify m.identity (transcript 0 ((linked Link.reset).link 0).epoch m) m.signature = true ∨
    Config.ed448Verify m.identity (transcript 0 ((linked Link.reset).link 0).epoch m) m.signature = false := by
  cases Config.ed448Verify m.identity (transcript 0 ((linked Link.reset).link 0).epoch m) m.signature <;> simp

/-- A package whose window 0 admits every right, with this flue. -/
def open_ (f : Flue) : State :=
  { st thread with flue := f, pkg := { Pkg.reset with gwb := [(0, 1)], gwl := [(0, BitVec.ofNat 64 ((2 ^ 35 - 1) * 2 ^ 16 + 0x1F))] } }

/-- A package that freezes what it does not let in. -/
def freezing (f : Flue) : State := { st thread with flue := f, pkg := { Pkg.reset with fzsvc := 0x8000000000000000 } }

/-- The entry of stream 4 with these windows. -/
def stream4 (ws : List ArrWindow) : StreamEntry := ⟨0, 4, 0, ws, 0, none⟩

def release4 (n : Nat) : ReleaseFlit := ⟨4, 1, [⟨0, n, 0, 0⟩, ⟨0, 0, 0, 0⟩, ⟨0, 0, 0, 0⟩, ⟨0, 0, 0, 0⟩], .write 0x2000 [1, 2, 3, 4, 5, 6, 7, 8] none, false⟩

theorem witness_ArrivalsApply_writes :
    let f := (sending 0 0).flit
    let t (e : StreamEntry) : Flue := { Flue.reset with table := [e] }
    (1 ≠ f.sid % 4) ∧ ((open_ Flue.reset).entryOf f.sid = none) ∧
    (let s := open_ (t (stream4 []))
     s.flue.hold = [] ∧ s.flue.withheld = [] ∧ (∀ e ∈ s.flue.table, (e.win e.oldest).complete = false) ∧
     s.entryOf f.sid = some (stream4 []) ∧ (stream4 []).frozen = none ∧ f.win = (stream4 []).oldest ∧ (stream4 []).seen f = false ∧
     s.heldAlready f = false ∧ f.atomic = none ∧ f.reduce = none ∧ ((stream4 []).win f.win).base = none ∧ s.bad = [] ∧
     s.admit280 f.block 64 0x02 = .ok) ∧
    ((stream4 [⟨0, none, 0, [0], 0, false⟩]).seen f = true) ∧
    (let s := freezing (t (stream4 []))
     s.admit280 f.block 64 0x02 ≠ .ok ∧ s.pkg.fzsvc.getLsbD 63 = true ∧ s.entryOf f.sid = some (stream4 [])) := by decide +kernel

theorem witness_ArrivalsApply_full (n : Nat) (hn : n = 65536) :
    let s := open_ { Flue.reset with table := List.replicate n ⟨0, 8, 0, [], 0, none⟩ }
    s.entryOf 4 = none ∧ 65536 ≤ (s.flue.table.filter (fun e => e.grate == 4 % 4)).length := by
  intro s
  constructor
  · refine List.find?_eq_none.mpr (fun e he => ?_)
    rw [List.eq_of_mem_replicate he]; decide
  · have h : ((List.replicate n (⟨0, 8, 0, [], 0, none⟩ : StreamEntry)).filter (fun e => e.grate == 4 % 4)).length = 65536 := by
      rw [List.filter_replicate_of_pos (by decide), List.length_replicate, hn]
    exact Nat.le_of_eq h.symm

theorem witness_ArrivalsApply_releases :
    let t (e : StreamEntry) : Flue := { Flue.reset with table := [e] }
    (let e := stream4 [⟨0, none, 0, [0], 0, false⟩]
     let s := open_ (t e)
     windowsOf (release4 1) = [(4, ⟨0, 1, 0, 0⟩)] ∧ (release4 1).probe = false ∧ s.entryOf 4 = some e ∧ e.frozen = none ∧ e.oldest = 0 ∧
     (e.win 0).applied.length = 1 ∧ (e.win 0).failed = false ∧ ((stream4 [⟨0, none, 0, [0], 0, true⟩]).win 0).failed = true ∧ s.bad = [] ∧
     (e.win 1).base = none ∧ s.admit280 0x2000 8 0x02 = .ok ∧ s.flue.hold = [] ∧ s.flue.withheld = [] ∧
     (∀ e ∈ s.flue.table, (e.win e.oldest).complete = false)) ∧
    (((stream4 []).win 0).applied.length < 1) ∧
    (let e (rounds : Nat) := stream4 [⟨0, some 0, 2, [0], rounds, false⟩]
     let s (rounds : Nat) : State := at_ 400000 (open_ { t (e rounds) with withheld := [⟨0, release4 2, 0⟩] })
     (s 0).shortDue ⟨4, 1, 0⟩ = true ∧ (s 0).entryOf 4 = some (e 0) ∧ ((e 0).win 0).rounds < 3 ∧
     (s 3).shortDue ⟨4, 1, 0⟩ = true ∧ 3 ≤ ((e 3).win 0).rounds ∧ (s 3).flue.hold = [] ∧ (s 3).flue.withheld = [⟨0, release4 2, 0⟩] ∧
     windowsOf (release4 2) = [(4, ⟨0, 2, 0, 0⟩)] ∧ (s 3).flue.table = [e 3] ∧ (e 3).oldest = 0) := by decide +kernel

theorem witness_ArrivalsApply_requests :
    let t (e : StreamEntry) : Flue := { Flue.reset with table := [e] }
    let probe : ReleaseFlit := ⟨4, 1, [], .none, true⟩
    let read : ReadFlit := ⟨5, 0, 9, 0x1000, 8, true, none⟩
    (windowsOf probe = [] ∧ probe.body = .none ∧ (open_ (t { stream4 [] with frozen := some 7 })).entryOf (probe.sid / 4 * 4 + 0) =
      some { stream4 [] with frozen := some 7 }) ∧
    ((open_ Flue.reset).admit280 0x1000 8 0x09 = .ok ∧ (open_ Flue.reset).badAt 0x1000 8 = false ∧ read.atomic = none) ∧
    ({ open_ Flue.reset with bad := [(0x1000, true)] } : State).badAt 0x1000 8 = true ∧
    ((st thread).admit280 0x1000 8 0x09 ≠ .ok ∧ (st thread).pkg.fzsvc.getLsbD 63 = false ∧
      (freezing Flue.reset).admit280 0x1000 8 0x09 ≠ .ok ∧ (freezing Flue.reset).pkg.fzsvc.getLsbD 63 = true) ∧
    (let h : Faulted := ⟨0, 7, .read read⟩
     let s := open_ { Flue.reset with faulted := [h] }
     s.flue.faulted.find? (fun h => h.token == 7) = some h ∧ h.body = .read read) ∧
    (let e := { stream4 [] with frozen := some 7 }
     let s := open_ (t e)
     (∀ h ∈ s.flue.faulted, h.token ≠ 7) ∧ s.flue.table.find? (fun e => e.frozen == some 7 && e.grate == 0) = some e ∧
     s.entryOf e.sid = some e ∧ (e.win 1).base = none ∧ (∀ e ∈ s.flue.table, (e.win e.oldest).complete = false)) ∧
    (∀ e ∈ (open_ (t (stream4 []))).flue.table, e.frozen ≠ some 7) := by decide +kernel

theorem witness_ArrivalsApply_safe : Safe (open_ { Flue.reset with table := [stream4 []] }) := ⟨rfl, rfl⟩

/-- The sending side of stream 4 toward package 1, with window 0. -/
def source (closed : Bool) (es : List SendEntry) (rs : List OutRelease) : State :=
  { st thread with flue := { Flue.reset with streams := [⟨4, 1, 1, [⟨0, 0, 1, closed⟩], 1, false⟩], store := es, releases := rs } }

def sentRelease (probe : Bool) : OutRelease := ⟨1, 1, { release4 1 with probe := probe }, [4], [⟨4, 1, 0⟩], 0x2000, 0x40, false, false⟩

theorem witness_SourceRecovers :
    let w : WindowName := ⟨4, 1, 0⟩
    let e := sending 0 0
    (∃ x ∈ ((source true [e] []).stream w.sid w.dst).wins, x.win = w.win ∧ x.closed = true) ∧
    ((sentRelease false).wins = [w] ∧ (sentRelease false).slot = sidSlot w.sid ∧ windowsOf (sentRelease false).flit ≠ []) ∧
    (let s := source false [e] []
     s.flue.store = [e] ∧ e.flit.sid = w.sid ∧ e.flit.dst = w.dst ∧ e.flit.win = w.win ∧ e.flit.atomic = none ∧ e.flit.reduce = none ∧ e.bad = false ∧ e.unit = false ∧
     s.windowBaseOf w = 0 ∧ (0 : Nat).testBit 0 = false ∧ (1 : Nat).testBit 0 = true ∧ (s.slot (sidSlot w.sid)).sb = [] ∧
     (∃ x ∈ (s.stream w.sid w.dst).wins, x.win = w.win) ∧ s.entryAt w 0 = some e ∧ e.backoff = none) ∧
    ((source true [e] [sentRelease false]).flue.releases = [sentRelease false] ∧ w ∈ (sentRelease false).wins ∧
      (sentRelease false).queued = false ∧ (sentRelease false).unit = false ∧ (sentRelease false).dst = w.dst ∧ (sentRelease false).flit.probe = false ∧
      (sentRelease false).flit.body = .write 0x2000 [1, 2, 3, 4, 5, 6, 7, 8] none) ∧
    (let s := source false [{ e with backoff := some (0, 64000, 5) }] []
     s.entryAt w 0 = some { e with backoff := some (0, 64000, 5) } ∧ s.dtime < 0 + 10 ^ 7 ∧ 0 + 10 ^ 7 ≤ (at_ 10000000 s).dtime ∧
     s.dtime < 5 ∧ 5 ≤ (at_ 5 s).dtime) ∧
    ((source true [] [sentRelease true]).flue.releases.find? (fun r => r.flit.probe && r.slot == sidSlot w.sid && r.dst == w.dst) =
      some (sentRelease true)) ∧
    (let s := source false [e] []
     (∀ x ∈ s.flue.store, x.flit.dst = 1 → x.flit.atomic = none) ∧ s.flue.releases = [] ∧ s.flue.waiting = [] ∧
     (∀ x ∈ s.slots, s.awaited x.2 1 = []) ∧ e.flit.dst = 1) := by decide +kernel

/-! ## Witnesses: the host, the device and the machine -/

/-- The package with these registers. -/
def dev (p : Pkg) : State := booted { st thread with pkg := p }

/-- Ring 127 in a state. -/
def ringed (r : Ring) : State := dev { Pkg.reset with rings := [(127, r)] }

theorem witness_HostAndDevice_rings :
    let r : Ring := ⟨0x70000, 1, true, 3, 2, 0, 0⟩
    ((5 : Word).toNat < ((ringed { r with tail := 6 }).ring 127).tail ∧ ((ringed r).ring 127).tail ≤ (3 : Word).toNat) ∧
    ((0x103 : Word).getLsbD 9 = false ∧ ((ringed Ring.reset).ring 127).en = false ∧ (0x103 : Word).getLsbD 8 = true ∧ ((ringed r).ring 127).en = true) ∧
    (((ringed { r with state := 2 }).ring 127).state = 2 ∧ ((ringed r).ring 127).state ≠ 2) ∧
    ((ringed r).recovering = false ∧ (ringed r).badAt 0x70000 128 = false ∧
      ({ ringed r with bad := [(0x70040, true)] } : State).badAt 0x70000 128 = true ∧ (st thread).recovering = true) ∧
    (((ringed r).ring 127).accept < ((ringed r).ring 127).tail ∧
      (ringed r).homeNat (((ringed r).ring 127).rbase.toNat + 128 * (((ringed r).ring 127).accept % 2 ^ ((ringed r).ring 127).log2n)) 8 ≠ 3 ∧
      (words [(0x70000, 3)] (ringed r)).homeNat 0x70000 8 = 3) ∧
    (let s := words [(0x70000, 3), (0x70008, 0x20100)] { placed stoker [] with pkg := { Pkg.reset with rings := [(127, r)] } }
     s.homeNat 0x70000 8 = (s.ring 127).accept + 1 ∧ (s.submitRecord 127 0x70000).2 ≠ 2 ^ 63 + 0x10) ∧
    (let s := words [(0x70000, 3), (0x70008, 0x20100)] { placed stoker (List.replicate 4 (pend 1 [])) with pkg := { Pkg.reset with rings := [(127, r)] } }
     s.homeNat 0x70000 8 = (s.ring 127).accept + 1 ∧ (words [(0x200A8, 2)] s |>.submitRecord 127 0x70000).2 = 2 ^ 63 + 0x10) := by decide +kernel

theorem witness_HostAndDevice_memory :
    ([1] : List Byte) ≠ [] ∧ isDram 0x1000 = true ∧ isDram (0x1000 + 1 - 1) = true ∧ (st thread).bad = [] ∧
    (st thread).badAt 0x1000 8 = false ∧ (st thread).populated 0x1000 = true ∧ (st thread).inBar2 1 0x1000 8 = true ∧ (booted (st thread)).recovering = false ∧
    (st thread).inBar2 0 (2 ^ 36 - 8) 8 = true ∧ (st thread).inBar2 0 (2 ^ 36 - 7) 8 = false ∧
    (dev { Pkg.reset with bar2 := [(1, 0x1000000000)] }).inBar2 1 0x1000 8 = false ∧ 2 ^ 36 - 7 < 2 ^ 51 := by decide +kernel

theorem witness_HostAndDevice_handlers :
    ((words [(0, 2)] (st thread)).handlerWords 0).all handlerWord = true ∧
    ((words [(0, 0x4C000000)] (st thread)).handlerWords 0).all handlerWord = false := by
  decide +kernel

theorem witness_HostAndDevice_islands :
    (Table.find (st thread).pkg.islceil 155 = none ∧ Table.find (dev { Pkg.reset with islceil := [(155, 7)] }).pkg.islceil 155 = some 7) ∧
    ((st (burning thread)).floorHeld 0 = true ∧ (st thread).floorHeld 0 = false ∧
      (Table.get 0 (st thread).pkg.islceil 0).toNat < 1 ∧ 0 < (st thread).islandFreq 0) ∧
    ((5 :: Table.get [] (st thread).pkg.samples 0).take 100 = [5] ∧ [5].sum / [5].length = 5 ∧
      (Table.get 0 (st thread).pkg.islceil 0).toNat < 5 ∧ [0].sum / [0].length ≤ (Table.get 0 (st thread).pkg.islceil 0).toNat) ∧
    (0 ≤ (Table.get 0 (st thread).pkg.islceil 0).toNat ∧ (dev { Pkg.reset with islfreq := [(0, 1800)] }).islandFreq 0 < islandNominal 0) := by
  decide +kernel

theorem witness_HostAndDevice_safe : Safe (st thread) ∧ Safe (st (burning thread)) ∧ Safe (ringed Ring.reset) := ⟨⟨rfl, rfl⟩, ⟨rfl, rfl⟩, ⟨rfl, rfl⟩⟩

theorem witness_HostAndDevice_resets :
    (st thread).pkg.bootState ≠ 1 ∧ (st thread).pkg.bootState ≠ 3 ∧ (booted (st thread)).pkg.bootState = 1 ∧
    (let c (w : Word) : State := { st thread with pkg := { Pkg.reset with islceil := (List.range 156).map (fun i => (i, w)) } }
     (∀ i, i < 156 → Table.find (c 24000).pkg.islceil i ≠ none) ∧ 3600000 < (c 24000).powerSum ∧ (c 0).powerSum ≤ 3600000 ∧
     Table.find (st thread).pkg.islceil 0 = none) ∧
    ((st thread).populated 0x1000 = true ∧ (dirty false).holdsWord 0 0x1000 = true) ∧ (List.replicate 32 (0 : Byte)).length = 32 ∧
    (dev { Pkg.reset with fwDigest := List.replicate 64 1 }).pkg.fwDigest.length = 64 ∧
    (((placed stoker []).slot 0).mode = .running ∧ ((placed stoker []).core 0).resetting = false) ∧ ((st thread).slot 0).mode ≠ .running := by
  decide +kernel

/-- The fused values decide between the two outcomes of a boot, and the statement speaks of both. -/
theorem witness_HostAndDevice_boot (image : List Byte) :
    let ok := Config.shake256 (Config.imageKey image) 32 = Config.fusedKeyDigest ∧
      Config.ed448Verify (Config.imageKey image) (Config.shake256 (Config.imageBody image) 64) (Config.imageSignature image) = true ∧
      Config.fusedVersion ≤ Config.imageVersion image
    ok ∨ ¬ ok := Classical.em _

theorem witness_EveryInstructionChecks :
    (let s := { st thread with cores := [] }
     (encode (.vadd 31 0 0 .n32 false)).isSome = true ∧ s.legalIn s.cur (.vadd 31 0 0 .f32 false) = false) ∧
    (let f : Frame := ⟨1, [.vadd 0 0 0 .n32 false], 2, 1, 1, 0, 0, 0x40, false, 0⟩
     let s : State := { st thread with cores := [(0, { Core.reset with part := 1091, frame := some f })] }
     s.legalIn s.cur (.vadd 0 1 2 .n32 false) = true ∧ s.inFrame = false ∧ (uses (.vadd 0 1 2 .n32 false)).heavy = true ∧
     s.myCore.frameOf s.cur = some f ∧ f.frozen = false) ∧
    (let s := st { thread with xf := 0x7FFF }
     s.legalIn s.cur (.add 0 15 1 .w64) = true ∧ s.frameBusy (.add 0 15 1 .w64) = false ∧ s.inFrame = false ∧
     (uses (.add 0 15 1 .w64)).xs.find? (fun r => !s.me.fullX r) = some 15) ∧
    (let s := st { thread with lat := [(15, 5)] }
     s.legalIn s.cur (.add 0 15 1 .w64) = true ∧ s.frameBusy (.add 0 15 1 .w64) = false ∧
     (∀ r ∈ (uses (.add 0 15 1 .w64)).xs, s.me.fullX r = true) ∧
     (∀ v ∈ (uses (.add 0 15 1 .w64)).vs, s.me.presentAt (s.cycleOf (coreOf s.cur)) v = true) ∧
     (∃ r ∈ (uses (.add 0 15 1 .w64)).xs, s.me.ran (s.cycleOf (coreOf s.cur)) r.toNat = false)) ∧
    (let s := st { thread with vp := 0x7FFFFFFF }
     s.legalIn s.cur (.vadd 0 0 31 .n32 false) = true ∧ s.frameBusy (.vadd 0 0 31 .n32 false) = false ∧
     (∀ r ∈ (uses (.vadd 0 0 31 .n32 false)).xs, s.me.fullX r = true) ∧
     (uses (.vadd 0 0 31 .n32 false)).vs.find? (fun v => !s.me.presentAt (s.cycleOf (coreOf s.cur)) v) = some 31) ∧
    (let s := st { thread with fills := [fill false 15 [] none] }
     s.legalIn s.cur (.add 15 0 1 .w64) = true ∧ s.frameBusy (.add 15 0 1 .w64) = false ∧
     (∀ r ∈ (uses (.add 15 0 1 .w64)).xs, s.me.fullX r = true) ∧
     (∀ v ∈ (uses (.add 15 0 1 .w64)).vs, s.me.presentAt (s.cycleOf (coreOf s.cur)) v = true) ∧
     (∃ r ∈ (uses (.add 15 0 1 .w64)).xd, s.me.fillX r.toNat = true)) ∧
    ((burning thread).illHere .exit = true ∧ (st thread).me.illHere (.tlbi 0 1 .pkg) = false ∧ (st thread).privHere (.tlbi 0 1 .pkg) = true ∧
      (st thread).me.illHere .nop = false ∧ (st thread).privHere .nop = false) := by
  decide +kernel

/-- Slot 1 of core 0 has its turn next, with a word at its PC. -/
def fetching (w : Nat) : State :=
  let s := (st thread).writeHomeNat 0x100040 4 w
  { s with todo := [0], cycle := 17 }

theorem witness_StepRunsDecoded :
    let s := fetching 0x24C00008
    let u : State := { s with todo := [], cur := 1 }
    s.agenda = [] ∧ (due s).isNone = true ∧ s.todo.head? = some 0 ∧ 16 * 0 + s.cycleOf 0 % 16 = 1 ∧ s.todo.filter (fun c => c != 0) = [] ∧
    u.me.mode = .running ∧ u.me.haltRequest = false ∧ u.me.overdue u.dtime 1 = false ∧ u.me.overdue u.dtime 2 = false ∧ u.me.trapWait = none ∧ u.me.deferred = [] ∧ u.me.barrier = none ∧
    u.me.remoteTag = none ∧ u.me.park = none ∧ u.me.yielded = false ∧ u.me.userPending = false ∧
    readWord 0x24C00008 = some (.movw 3 0 false 8) ∧ u.late (.movw 3 0 false 8) = false ∧ readWord 0 = none := by decide +kernel

/-- A word that reads a mask register whose result latency still runs does not issue on this turn. -/
theorem witness_StepRunsDecoded_late :
    let s := fetching 0x9060028A
    let u : State := { s with todo := [], cur := 1, slots := [(1, { thread with lat := [(48, 30)] })] }
    readWord 0x9060028A = some (.mpopc 3 0 .n32 false) ∧ u.legalIn u.cur (.mpopc 3 0 .n32 false) = true ∧ u.late (.mpopc 3 0 .n32 false) = true ∧
    u.fetch 1 0x40 = (u, .word 0x9060028A) := ⟨by decide +kernel, by decide +kernel, by decide +kernel, rfl⟩

theorem witness_StepRunsDecoded_fetch :
    (let s := fetching 0x24C00008
     { s with todo := [], cur := 1 }.fetch 1 0x40 = ({ s with todo := [], cur := 1 }, .word 0x24C00008)) ∧
    (let s := fetching 0
     { s with todo := [], cur := 1 }.fetch 1 0x40 = ({ s with todo := [], cur := 1 }, .word 0)) ∧
    (let s := st thread
     let p := s.slot 1
     let l := globalLocal (p.seg 0).base + p.pc.toNat
     p.seg 0 ≠ Seg.empty ∧ (p.seg 0).rights.getLsbD 2 = true ∧ (p.seg 0).rights.getLsbD 7 = true ∧ globalPkg (p.seg 0).base = s.pkg.number ∧
     p.pc.toNat % 4 = 0 ∧ p.pc.toNat + 3 ≤ (p.seg 0).limit.toNat ∧ l < 2 ^ 51 ∧ s.populated l = true ∧ s.populated (l + 3) = true ∧
     p.overlays = [] ∧ p.sb = [] ∧ s.bad = []) := ⟨rfl, rfl, by decide +kernel⟩

theorem witness_EncodingsRoundTrip :
    wellFormed (.kmma 15 14 14 3 true true) = true ∧ encode (.add 7 2 9 .w32) = some 0x09CA4010 ∧
    decode 0x09CA4010 = .ok (.add 7 2 9 .w32) := ⟨rfl, rfl, rfl⟩

theorem witness_StepKeepsMemory : Safe (fetching 0x24C00008) ∧ L2Ordered (fetching 0x24C00008) ∧
    ∃ t : State, step (fetching 0x24C00008) = .next t := ⟨⟨rfl, rfl⟩, rfl, _, rfl⟩

end Sys2Proof.Tests
end

section
/-! PROOFS. The scalar family (04_scalar R60 to R78): a ready instruction writes the value that the tables of Safety/Scalar give.
The proofs rest on two facts about the model: `gate_ready` (Machine/Uses), and the w-bit results read as bit vectors (Laws/Words). -/
namespace Sys2Proof.Machine

/-! ## The forms of a ready instruction -/

/-- R63: a row reads the low w bits of its sources; its result `f` over natural numbers, read as the bit vector `r`, is
sign-extended. -/
theorem alu2_row {i : Instr} {d a b : Reg} {sz : Width} {n : Nat} {f : Nat → Nat → Nat → Nat}
    {r : (w : Nat) → BitVec w → BitVec w → BitVec w} {k : AluRow} {s : State}
    (hk : some ⟨d, a, b, sz, n, r⟩ = some k) (hr : s.ready i = true)
    (hf : ∀ w, 0 < w → ∀ x y : BitVec w, BitVec.ofNat w (f w x.toNat y.toNat) = r w x y) :
    (.next (alu2 i d a b sz n f s) : Out) = .next ((s.writeX k.d (k.value s.me) k.latency).advance) := by
  cases hk
  have hw := widthBits_pos sz
  rw [alu2, gate_ready _ _ _ hr]
  simp only [mod_toNat, sext_eq _ _ hw, hf _ hw, AluRow.value]

/-- A form with one source is a form with two that does not look at the second. -/
theorem alu1_row {i : Instr} {d a : Reg} {sz : Width} {n : Nat} {f : Nat → Nat → Nat}
    {r : (w : Nat) → BitVec w → BitVec w → BitVec w} {k : AluRow} {s : State}
    (hk : some ⟨d, a, a, sz, n, r⟩ = some k) (hr : s.ready i = true)
    (hf : ∀ w, 0 < w → ∀ x y : BitVec w, BitVec.ofNat w (f w x.toNat) = r w x y) :
    (.next (alu1 i d a sz n f s) : Out) = .next ((s.writeX k.d (k.value s.me) k.latency).advance) :=
  alu2_row (f := fun w x _ => f w x) hk hr hf

/-- A form at 64 bits writes its value, which is the row's. -/
theorem gate_row {i : Instr} {d : Reg} {n : Nat} {val : State → Word} {v : Slot → Word} {k : WordRow} {s : State}
    (hk : some ⟨d, v, n⟩ = some k) (hr : s.ready i = true) (hv : val s = v s.me) :
    (.next (gate i s fun s => (s.writeX d (val s) n).advance) : Out) =
      .next ((s.writeX k.d (k.value s.me) k.latency).advance) := by
  cases hk
  rw [gate_ready _ _ _ hr, hv]

/-! ## The rows of the ALU table (R64 to R69, R71) -/

/-- Sums, products, quotients and logic; those that read S() need a width above zero. -/
theorem exec_arithRow {i : Instr} {k : AluRow} {s : State} (hk : arithRow i = some k) (hr : s.ready i = true) :
    exec i s = .next ((s.writeX k.d (k.value s.me) k.latency).advance) := by
  cases i with
  | add => exact alu2_row hk hr fun w _ => alu_add w
  | sub => exact alu2_row hk hr fun w _ => alu_sub w
  | mul => exact alu2_row hk hr fun w _ => alu_mul w
  | mulh => exact alu2_row hk hr alu_mulh
  | mulhn => exact alu2_row hk hr fun w _ => alu_mulhn w
  | div => exact alu2_row hk hr alu_div
  | divn => exact alu2_row hk hr fun w _ => alu_divn w
  | rem => exact alu2_row hk hr alu_rem
  | remn => exact alu2_row hk hr fun w _ => alu_remn w
  | and => exact alu2_row hk hr fun w _ => alu_and w
  | andn => exact alu2_row hk hr fun w _ => alu_andn w
  | or => exact alu2_row hk hr fun w _ => alu_or w
  | xor => exact alu2_row hk hr fun w _ => alu_xor w
  | _ => cases hk

/-- Shifts, rotates, the smaller and the larger, and comparisons. -/
theorem exec_shiftRow {i : Instr} {k : AluRow} {s : State} (hk : shiftRow i = some k) (hr : s.ready i = true) :
    exec i s = .next ((s.writeX k.d (k.value s.me) k.latency).advance) := by
  cases i with
  | shl => exact alu2_row hk hr fun w _ => alu_shl w
  | shr => exact alu2_row hk hr fun w _ => alu_shr w
  | sra => exact alu2_row hk hr alu_sra
  | rol => exact alu2_row hk hr alu_rol
  | ror => exact alu2_row hk hr alu_ror
  | min => exact alu2_row hk hr alu_min
  | max => exact alu2_row hk hr alu_max
  | minn => exact alu2_row hk hr fun w _ => alu_minn w
  | maxn => exact alu2_row hk hr fun w _ => alu_maxn w
  | cmpeq => exact alu2_row hk hr fun w _ => alu_cmpeq w
  | cmpne => exact alu2_row hk hr fun w _ => alu_cmpne w
  | cmplt => exact alu2_row hk hr alu_cmplt
  | cmpltn => exact alu2_row hk hr fun w _ => alu_cmpltn w
  | cmple => exact alu2_row hk hr alu_cmple
  | cmplen => exact alu2_row hk hr fun w _ => alu_cmplen w
  | _ => cases hk

/-- MOV copies all 64 bits: the row's width changes are none (R71). -/
theorem movRow_value (d a : Reg) (p : Slot) : AluRow.value ⟨d, a, a, .w64, 2, fun _ x _ => x⟩ p = p.getX a := by
  simp [AluRow.value, widthBits]

/-- Absolute value, negation, counts, reversal and SEXT at width w; MOV at 64 bits. -/
theorem exec_unaryRow {i : Instr} {k : AluRow} {s : State} (hk : unaryRow i = some k) (hr : s.ready i = true) :
    exec i s = .next ((s.writeX k.d (k.value s.me) k.latency).advance) := by
  cases i with
  | abs => exact alu1_row hk hr fun w h a _ => alu_abs w h a
  | neg => exact alu1_row hk hr fun w _ a _ => alu_neg w a
  | clz => exact alu1_row hk hr fun w _ a _ => congrArg _ (alu_clz w a)
  | ctz => exact alu1_row hk hr fun w _ a _ => congrArg _ (alu_ctz w a)
  | popc => exact alu1_row hk hr fun w _ a _ => congrArg _ (alu_popc w a)
  | brev => exact alu1_row hk hr fun w _ a _ => alu_brev w a
  | sext => exact alu1_row hk hr fun w _ a _ => ofNat_self w a
  | mov d a => cases hk; rw [movRow_value]; exact congrArg _ (gate_ready _ _ _ hr)
  | _ => cases hk

/-- Settles O1: the three tables together are the rows of R64 to R69 and R71. -/
theorem integerResults : Obligations.IntegerResults := by
  unfold Obligations.IntegerResults
  rintro i k s (hk | hk | hk) hr
  · exact exec_arithRow hk hr
  · exact exec_shiftRow hk hr
  · exact exec_unaryRow hk hr

/-! ## Immediates, SEL, ZEXT and MOVW (R68, R71, R73, R74, R77) -/

theorem shiftLeft_eq_ofNat (x : Word) (k : Nat) : x <<< k = BitVec.ofNat 64 (x.toNat * 2 ^ k) :=
  BitVec.eq_of_toNat_eq (by rw [BitVec.toNat_shiftLeft, BitVec.toNat_ofNat, Nat.shiftLeft_eq])

theorem ushiftRight_eq_ofNat (x : Word) (k : Nat) : x >>> k = BitVec.ofNat 64 (x.toNat / 2 ^ k) := by
  rw [← Nat.shiftRight_eq_div_pow, ← BitVec.toNat_ushiftRight, BitVec.ofNat_toNat, BitVec.setWidth_eq]

theorem sshiftRight_eq_ofInt (x : Word) (k : Nat) : x.sshiftRight k = BitVec.ofInt 64 (x.toInt / (2 ^ k : Nat)) := by
  rw [BitVec.sshiftRight, Int.shiftRight_eq_div_pow]

theorem zext_eq (w : Nat) (x : Word) : zext w x.toNat = (x.setWidth w).zeroExtend 64 := by
  rw [zext, mod_toNat, BitVec.ofNat_toNat]

/-- A field put into a register, as a sum of the bits above it, its own, and the bits below it. -/
theorem putField_eq_sum (x : Word) (lo n : Nat) {v : Nat} (hv : v < 2 ^ n) :
    putField x lo n v =
      BitVec.ofNat 64 (x.toNat / 2 ^ (lo + n) * 2 ^ (lo + n) + v * 2 ^ lo + x.toNat % 2 ^ lo) := by
  have hlo : x.toNat % 2 ^ lo < 2 ^ lo := Nat.mod_lt _ (by positivity)
  have hmid : 2 ^ lo * v + x.toNat % 2 ^ lo < 2 ^ (lo + n) := by
    calc 2 ^ lo * v + x.toNat % 2 ^ lo < 2 ^ lo * (v + 1) := by rw [Nat.mul_succ]; omega
      _ ≤ 2 ^ (lo + n) := by rw [pow_add]; exact Nat.mul_le_mul_left _ hv
  apply BitVec.eq_of_getLsbD_eq
  intro k hk
  rw [putField_getLsbD x lo n v k hk, BitVec.getLsbD_ofNat, decide_eq_true hk, Bool.true_and, Nat.add_assoc,
    Nat.mul_comm _ (2 ^ (lo + n)), Nat.mul_comm v, Nat.testBit_two_pow_mul_add _ hmid, Nat.testBit_two_pow_mul_add _ hlo]
  by_cases h1 : k < lo
  · rw [if_neg (by omega), if_pos (by omega), if_pos h1, Nat.testBit_mod_two_pow, decide_eq_true h1, Bool.true_and,
      BitVec.testBit_toNat]
  by_cases h2 : k < lo + n
  · rw [if_pos ⟨by omega, h2⟩, if_pos h2, if_neg h1]
  · rw [if_neg (by omega), if_neg h2, Nat.testBit_div_two_pow, Nat.sub_add_cancel (by omega), BitVec.testBit_toNat]

/-- MOVW without keep puts its field into zero (R77). -/
theorem putField_zero (lo : Nat) (imm : BitVec 16) : putField 0 lo 16 imm.toNat = imm.zeroExtend 64 <<< lo := by
  rw [putField_eq_sum 0 lo 16 imm.isLt, shiftLeft_eq_ofNat, BitVec.toNat_setWidth_of_le (by decide)]
  simp

/-- Each row's value is the model's by definition, or by one of the readings above; SEL's test is the other way round. -/
theorem exec_immediateRow {i : Instr} {k : WordRow} {s : State} (hk : immediateRow i = some k) (hr : s.ready i = true) :
    exec i s = .next ((s.writeX k.d (k.value s.me) k.latency).advance) := by
  cases i with
  | addi => exact gate_row hk hr rfl
  | andi => exact gate_row hk hr rfl
  | ori => exact gate_row hk hr rfl
  | xori => exact gate_row hk hr rfl
  | muli => exact gate_row hk hr rfl
  | shli => exact gate_row hk hr (shiftLeft_eq_ofNat _ _)
  | shri => exact gate_row hk hr (ushiftRight_eq_ofNat _ _)
  | srai => exact gate_row hk hr (sshiftRight_eq_ofInt _ _)
  | movw d hw keep imm =>
    cases keep with
    | false => exact gate_row hk hr (putField_zero _ imm)
    | true => exact gate_row hk hr (putField_eq_sum _ _ _ imm.isLt)
  | zext => exact gate_row hk hr (zext_eq _ _)
  | sel => exact gate_row hk hr (ite_not _ _ _)
  | _ => cases hk

/-! ## CMPI (R44, R75) -/

theorem condHolds_iff (c : Cond) (a b : Word) : condHolds c a b = true ↔ condition c a b := by
  cases c <;> simp [condHolds, condition, BitVec.slt, BitVec.ult]

theorem exec_cmpi {d a : Reg} {c : Cond} {m : BitVec 14} {s : State} (hr : s.ready (.cmpi d a c m) = true) :
    exec (.cmpi d a c m) s =
      .next ((s.writeX d (if condHolds c (s.me.getX a) (m.signExtend 64) then 1 else 0) 2).advance) :=
  congrArg _ (gate_ready _ _ _ hr)

/-- Settles O2: the immediate forms by their rows, CMPI by the two values of its condition. -/
theorem immediateResults : Obligations.ImmediateResults := by
  unfold Obligations.ImmediateResults
  refine ⟨fun i k s hk hr => exec_immediateRow hk hr, fun d a c m s hr => ⟨fun hc => ?_, fun hc => ?_⟩⟩
  · rw [exec_cmpi hr, if_pos ((condHolds_iff _ _ _).2 hc)]
  · rw [exec_cmpi hr, if_neg (mt (condHolds_iff _ _ _).1 hc)]

/-! ## LEA (R78, R108) -/

/-- LEA needs no rights and neither writes nor fetches: EINFO holds the segment and the size alone. -/
theorem lea_einfo (g : SegNo) (o : Word) (size : Nat) : Access.einfo ⟨g.toNat, o, size, 1, 0, 0, false, false⟩ =
    BitVec.ofNat 64 (g.toNat * 2 ^ 16 + sizeCode size * 2 ^ 21) := by
  simp [Access.einfo]

/-- An empty segment is beyond its limit whatever the offset is (R31, R78). -/
theorem seglim_test_iff (g : Seg) (last : Nat) :
    (segEmpty g || decide (g.limit.toNat < last)) = true ↔ g = Seg.empty ∨ g.limit.toNat < last := by
  simp [segEmpty]

/-- A segment address is the low 57 bits of base plus offset (R31). -/
theorem segmentAddress_eq (x : Word) : BitVec.ofNat 64 (x.toNat % 2 ^ 57) = (x.extractLsb' 0 57).zeroExtend 64 := by
  apply BitVec.eq_of_toNat_eq
  simp

/-- Settles O4: the model's one test decides between the two outcomes. -/
theorem leaResult : Obligations.LeaResult := by
  unfold Obligations.LeaResult
  intro t a g sz off s hr o sg
  have hx : exec (.lea t a g sz off) s = .next (if segEmpty sg || decide (sg.limit.toNat < o.toNat + msizeBytes sz - 1) then
      s.raise Cause.seglim o (Access.einfo ⟨g.toNat, o, msizeBytes sz, 1, 0, 0, false, false⟩)
    else (s.writeX t (BitVec.ofNat 64 ((sg.base + o).toNat % 2 ^ 57)) 3).advance) := congrArg _ (gate_ready _ _ _ hr)
  rw [hx, lea_einfo, segmentAddress_eq]
  constructor
  · intro he hl
    rw [if_neg (by rw [seglim_test_iff, not_or, not_lt]; exact ⟨he, hl⟩)]
  · intro h
    rw [if_pos ((seglim_test_iff _ _).2 h)]

end Sys2Proof.Machine
end

section
/-! PROOFS. Branches, loops, calls and register jumps (05_flow_and_burns R80 to R82). A ready instruction passes its gate
(`gate_ready`, Machine/Uses); what remains is one of two shapes: a transfer on a condition, or a jump to a register's value. -/
namespace Sys2Proof.Machine

/-! ## Transfers on a condition (R81) -/

theorem branch_taken {take : Bool} (s : State) (to_ : Word) (h : take = true) : s.branch take to_ = s.jump to_ := if_pos h

theorem branch_not_taken {take : Bool} (s : State) (to_ : Word) (h : take = false) : s.branch take to_ = s.advance :=
  if_neg (Bool.eq_false_iff.1 h)

/-- B and BC: an instruction that only branches on a condition of two words goes to its target or to the next word. -/
theorem exec_conditionalBranch {i : Instr} {c : Cond} {x y to_ : State → Word} {s : State} (hr : s.ready i = true)
    (hx : exec i s = .next (gate i s fun s => s.branch (condHolds c (x s) (y s)) (to_ s))) :
    (condition c (x s) (y s) → exec i s = .next (s.jump (to_ s))) ∧
    (¬ condition c (x s) (y s) → exec i s = .next s.advance) := by
  rw [hx, gate_ready _ _ _ hr]
  constructor
  · intro hc
    rw [branch_taken _ _ ((condHolds_iff _ _ _).2 hc)]
  · intro hc
    rw [branch_not_taken _ _ (Bool.eq_false_iff.2 (mt (condHolds_iff _ _ _).1 hc))]

theorem exec_loop {a : Reg} {disp : BitVec 18} {s : State} (hr : s.ready (.loop a disp) = true) :
    exec (.loop a disp) s =
      .next ((s.writeX a (s.me.getX a - 1) 2).branch (s.me.getX a - 1 != 0) (s.me.pc + 4 * disp.signExtend 64)) :=
  congrArg _ (gate_ready _ _ _ hr)

/-- LOOP leaves at xa = 1 alone; xa = 0 wraps to all ones and branches. -/
theorem exec_loop_cases {a : Reg} {disp : BitVec 18} {s : State} (hr : s.ready (.loop a disp) = true) :
    (s.me.getX a = 1 → exec (.loop a disp) s = .next ((s.writeX a 0 2).advance)) ∧
    (s.me.getX a ≠ 1 →
      exec (.loop a disp) s = .next ((s.writeX a (s.me.getX a - 1) 2).jump (s.me.pc + 4 * disp.signExtend 64))) := by
  rw [exec_loop hr]
  constructor
  · intro h
    have hv : s.me.getX a - 1 = 0 := sub_eq_zero.2 h
    rw [hv, branch_not_taken _ _ (bne_self_eq_false _)]
  · intro h
    have hv : s.me.getX a - 1 ≠ 0 := sub_ne_zero.2 h
    rw [branch_taken _ _ (bne_iff_ne.2 hv)]

/-! ## Jumps to a register's value (R82) -/

theorem jumpTo_aligned {t : Word} (s : State) (k : State → State) (h : t.toNat % 4 = 0) : s.jumpTo t k = k s :=
  if_neg (not_not.2 h)

theorem jumpTo_misaligned {t : Word} (s : State) (k : State → State) (h : t.toNat % 4 ≠ 0) :
    s.jumpTo t k = s.raise Cause.align t targetInfo := if_pos h

/-- JR, RET and CALLR: the continuation `k` runs at an aligned target; at any other, ALIGN alone. -/
theorem exec_registerJump {i : Instr} {t : State → Word} {k : State → State} {s : State} (hr : s.ready i = true)
    (hx : exec i s = .next (gate i s fun s => s.jumpTo (t s) k)) :
    ((t s).toNat % 4 = 0 → exec i s = .next (k s)) ∧
    ((t s).toNat % 4 ≠ 0 → exec i s = .next (s.raise Cause.align (t s) targetInfo)) := by
  rw [hx, gate_ready _ _ _ hr]
  constructor
  · intro h
    rw [jumpTo_aligned _ _ h]
  · intro h
    rw [jumpTo_misaligned _ _ h]

theorem exec_call {disp : BitVec 26} {s : State} (hr : s.ready (.call disp) = true) :
    exec (.call disp) s = .next ((s.writeX 15 (s.me.pc + 4) 2).jump (s.me.pc + 4 * disp.signExtend 64)) :=
  congrArg _ (gate_ready _ _ _ hr)

/-- Settles O6: B and BC transfer on a condition, JR, RET and CALLR jump to a register, LOOP and CALL write before they
transfer. -/
theorem branchResults : Obligations.BranchResults := by
  unfold Obligations.BranchResults
  intro s _
  refine ⟨?b, ?bc, ?loop, ?call, ?jr, ?ret, ?callr⟩
  case b => exact fun _ _ _ hr => exec_conditionalBranch (y := fun _ => 0) hr rfl
  case bc => exact fun _ _ _ _ hr => exec_conditionalBranch hr rfl
  case loop => exact fun _ _ hr => exec_loop_cases hr
  case call => exact fun _ hr => exec_call hr
  case jr => exact fun _ hr => exec_registerJump hr rfl
  case ret => exact fun hr => exec_registerJump hr rfl
  case callr => exact fun _ hr => exec_registerJump hr rfl

end Sys2Proof.Machine
end

section
/-! PROOFS. What a vector instruction that writes one register with its sticky bits does (14_vector R221, R223; 13_numbers R210),
and lanes read back from the register written (R220). -/
namespace Sys2Proof.Machine

/-! ## The gate of a vector instruction (R223) -/

theorem vgate_ready {i : Instr} {s : State} {body : State → State} (hr : s.ready i = true) (hb : s.vregBad i = none) :
    vgate i s body = body s := by
  rw [vgate, gate_ready _ _ _ hr, hb]

/-! ## The issuing slot after the shared operations -/

@[simp] theorem State.me_stick (s : State) (f : Sticky) (n : Nat) :
    (s.stick f n).me = s.me.stick f (s.cycleOf (coreOf s.cur) + n) := State.me_upd _ _

@[simp] theorem State.me_putV (s : State) (d : VReg) (v : VWord) (n : Nat) :
    (s.putV d v n).me = (s.me.setV d v).late (s.cycleOf (coreOf s.cur)) (16 + d.toNat) n := State.me_upd _ _

/-- Of the issuing slot, the end of an instruction moves the PC and ends a park, or changes nothing (R41, R85). -/
theorem State.me_advance_cases (s : State) :
    s.advance.me = s.me ∨ s.advance.me = { s.me with pc := s.me.pc + 4, park := none } := by
  rw [State.advance]
  split
  · exact .inl rfl
  · exact .inr (State.me_upd _ _)

@[simp] theorem State.getV_me_advance (s : State) (r : VReg) : s.advance.me.getV r = s.me.getV r := by
  rcases s.me_advance_cases with h | h <;> rw [h]; rfl

@[simp] theorem State.fpstAt_me_advance (s : State) (now : Nat) : s.advance.me.fpstAt now = s.me.fpstAt now := by
  rcases s.me_advance_cases with h | h <;> rw [h]; rfl

@[simp] theorem State.fltstAt_me_advance (s : State) (now : Nat) : s.advance.me.fltstAt now = s.me.fltstAt now := by
  rcases s.me_advance_cases with h | h <;> rw [h]; rfl

/-! ## The register written, and the frame around it -/

theorem getV_vectorWrite (s : State) (f : Sticky) (d : VReg) (v : VWord) (n : Nat) :
    ((s.stick f n).putV d v n).advance.me.getV d = v := by
  rw [State.getV_me_advance, State.me_putV, Slot.getV_late, Slot.getV_setV, if_pos rfl]

/-- The issuing slot after a vector instruction of the rotation that raises `f` and writes `v` into `d` at latency n (R41, R210, R221). -/
def Slot.issueV (p : Slot) (f : Sticky) (d : VReg) (v : VWord) (now n : Nat) : Slot :=
  { ((p.stick f (now + n)).setV d v).late now (16 + d.toNat) n with pc := p.pc + 4, park := none }

theorem sameRegisters_issueV (p : Slot) (f : Sticky) (d : VReg) (v : VWord) (now n : Nat) :
    SameRegisters [] [d] p (p.issueV f d v now n) := by
  refine ⟨fun r _ => ⟨rfl, rfl⟩, fun r hr => ⟨?_, ?_⟩⟩
  · exact (Slot.getV_setV _ r d v).trans (if_neg (List.ne_of_not_mem_cons hr))
  · exact (Slot.presentV_setV _ r d v).trans (if_neg (List.ne_of_not_mem_cons hr))

/-- In the rotation everything that the write changes is in the issuing slot, but for the errors of the register's block (R355). -/
theorem putV_advance (s : State) (d : VReg) (v : VWord) (n : Nat) (h : s.inFrame = false) :
    (s.putV d v n).advance = State.upd { s with bad := clearBad s.bad (64 * s.vregBlock s.cur d) 64 } (fun p =>
      { (p.setV d v).late (s.cycleOf (coreOf s.cur)) (16 + d.toNat) n with pc := p.pc + 4, park := none }) :=
  State.writeV_advance _ d v n h

theorem me_vectorWrite (s : State) (f : Sticky) (d : VReg) (v : VWord) (n : Nat) (h : s.inFrame = false) :
    ((s.stick f n).putV d v n).advance.me = s.me.issueV f d v (s.cycleOf (coreOf s.cur)) n := by
  rw [putV_advance (s.stick f n) d v n h, State.me_upd]
  exact congrArg (fun p : Slot => { (p.setV d v).late (s.cycleOf (coreOf s.cur)) (16 + d.toNat) n with pc := p.pc + 4, park := none })
    (State.me_stick s f n)

theorem slot_vectorWrite_ne (s : State) (f : Sticky) (d : VReg) (v : VWord) (n k : Nat) (h : s.inFrame = false) (hk : k ≠ s.cur) :
    ((s.stick f n).putV d v n).advance.slot k = s.slot k := by
  have hstick : (s.stick f n).slot k = s.slot k := State.slot_upd_ne s k _ hk
  rw [putV_advance (s.stick f n) d v n h]
  exact Eq.trans (State.slot_upd_ne _ k _ (show k ≠ (s.stick f n).cur from hk)) hstick

theorem sameMemory_vectorWrite (s : State) (f : Sticky) (d : VReg) (v : VWord) (n : Nat) (h : s.inFrame = false) :
    SameMemory s ((s.stick f n).putV d v n).advance := by
  rw [putV_advance (s.stick f n) d v n h]
  exact ⟨fun _ => ⟨rfl, rfl⟩, fun _ _ => ⟨rfl, rfl⟩⟩

theorem sameElsewhere_vectorWrite (s : State) (f : Sticky) (d : VReg) (v : VWord) (n : Nat) (h : s.inFrame = false) :
    SameElsewhere s ((s.stick f n).putV d v n).advance := by
  refine ⟨fun k => slot_vectorWrite_ne s f d v n k h, ?_⟩
  rw [putV_advance (s.stick f n) d v n h]
  exact ⟨rfl, rfl, rfl, rfl, rfl, rfl, rfl, rfl, rfl, rfl, rfl⟩

theorem vectorWrite_frame (s : State) (f : Sticky) (d : VReg) (v : VWord) (n : Nat) (h : s.inFrame = false) :
    VectorFrame [] [d] [] s ((s.stick f n).putV d v n).advance := by
  have hmemory := sameMemory_vectorWrite s f d v n h
  have helsewhere := sameElsewhere_vectorWrite s f d v n h
  unfold VectorFrame
  rw [me_vectorWrite s f d v n h]
  generalize s.me = p
  exact ⟨rfl, sameRegisters_issueV p f d v _ n, fun _ _ => rfl, rfl, rfl, rfl, rfl, rfl, rfl, rfl, rfl, rfl, hmemory, helsewhere⟩

/-! ## Sticky bits (R210) -/

/-- `f` holds the bits that one or another of `raises` holds. -/
def Sticky.Gathers (f : Sticky) (raises : Sticky → Prop) : Prop :=
  (∀ b, f.fp.getLsbD b = true ↔ ∃ g, raises g ∧ g.fp.getLsbD b = true) ∧
  ∀ b, f.flt.getLsbD b = true ↔ ∃ g, raises g ∧ g.flt.getLsbD b = true

theorem Sticky.gathers_clear {raises : Sticky → Prop} (h : ∀ g, ¬ raises g) : Sticky.clear.Gathers raises := by
  simp [Sticky.Gathers, Sticky.clear, h]

theorem Sticky.Gathers.or {f g : Sticky} {p q : Sticky → Prop} (hf : f.Gathers p) (hg : g.Gathers q) :
    (f.or g).Gathers (fun x => p x ∨ q x) := by
  simp only [Sticky.Gathers, Sticky.or, BitVec.getLsbD_or, Bool.or_eq_true, hf.1, hf.2, hg.1, hg.2, or_and_right, exists_or,
    implies_true, and_self]

theorem Sticky.gathers_self (f : Sticky) : f.Gathers (fun x => x = f) := by
  simp [Sticky.Gathers]

theorem Sticky.Gathers.congr {f : Sticky} {p q : Sticky → Prop} (hf : f.Gathers p) (h : ∀ g, p g ↔ q g) : f.Gathers q := by
  simpa only [Sticky.Gathers, h] using hf

theorem allFlags_gathers (rs : List Res) : (allFlags rs).Gathers (fun f => ∃ r ∈ rs, f = r.2) := by
  induction rs with
  | nil => exact Sticky.gathers_clear (by simp)
  | cons r rs ih => exact ((Sticky.gathers_self r.2).or ih).congr (by simp)

theorem stickBits_append (l m : List (Word × Word × Nat)) :
    stickBits (l ++ m) = ((stickBits l).1 ||| (stickBits m).1, (stickBits l).2 ||| (stickBits m).2) := by
  induction l with
  | nil => simp [stickBits]
  | cons e l ih => simp [stickBits, ih, BitVec.or_assoc]

theorem Slot.fpstAt_stick (p : Slot) (f : Sticky) (at_ now : Nat) :
    (p.stick f at_).fpstAt now = p.fpstAt now ||| if at_ ≤ now then f.fp.setWidth 64 else 0 := by
  unfold Slot.stick Slot.fpstAt
  by_cases hf : f = Sticky.clear
  · simp [hf, Sticky.clear]
  · by_cases h : at_ ≤ now <;> simp [hf, h, stickBits_append, stickBits, BitVec.or_assoc]

theorem Slot.fltstAt_stick (p : Slot) (f : Sticky) (at_ now : Nat) :
    (p.stick f at_).fltstAt now = p.fltstAt now ||| if at_ ≤ now then f.flt.setWidth 64 else 0 := by
  unfold Slot.stick Slot.fltstAt
  by_cases hf : f = Sticky.clear
  · simp [hf, Sticky.clear]
  · by_cases h : at_ ≤ now <;> simp [hf, h, stickBits_append, stickBits, BitVec.or_assoc]

/-- A status word with the bits of `f` added to it (R38). -/
theorem getLsbD_or_setWidth {k : Nat} (hk : k ≤ 64) (w : Word) (f : BitVec k) (b : Nat) :
    (w ||| f.setWidth 64).getLsbD b = true ↔ w.getLsbD b = true ∨ f.getLsbD b = true := by
  have hf : f.getLsbD b = true → b < 64 := fun h => by
    have := BitVec.lt_of_getLsbD h
    omega
  simp only [BitVec.getLsbD_or, BitVec.getLsbD_setWidth, Bool.or_eq_true, Bool.and_eq_true, decide_eq_true_eq]
  tauto

@[simp] theorem Slot.fpstAt_late (p : Slot) (a r n now : Nat) : (p.late a r n).fpstAt now = p.fpstAt now := rfl
@[simp] theorem Slot.fltstAt_late (p : Slot) (a r n now : Nat) : (p.late a r n).fltstAt now = p.fltstAt now := rfl
@[simp] theorem Slot.fpstAt_setV (p : Slot) (d : VReg) (v : VWord) (now : Nat) : (p.setV d v).fpstAt now = p.fpstAt now := rfl
@[simp] theorem Slot.fltstAt_setV (p : Slot) (d : VReg) (v : VWord) (now : Nat) : (p.setV d v).fltstAt now = p.fltstAt now := rfl

theorem fpstAt_vectorWrite (s : State) (f : Sticky) (d : VReg) (v : VWord) (n m : Nat) :
    ((s.stick f n).putV d v n).advance.me.fpstAt (s.cycleOf (coreOf s.cur) + m) =
      s.me.fpstAt (s.cycleOf (coreOf s.cur) + m) ||| if n ≤ m then f.fp.setWidth 64 else 0 := by
  simp only [State.fpstAt_me_advance, State.me_putV, State.me_stick, Slot.fpstAt_late, Slot.fpstAt_setV, Slot.fpstAt_stick,
    Nat.add_le_add_iff_left]

theorem fltstAt_vectorWrite (s : State) (f : Sticky) (d : VReg) (v : VWord) (n m : Nat) :
    ((s.stick f n).putV d v n).advance.me.fltstAt (s.cycleOf (coreOf s.cur) + m) =
      s.me.fltstAt (s.cycleOf (coreOf s.cur) + m) ||| if n ≤ m then f.flt.setWidth 64 else 0 := by
  simp only [State.fltstAt_me_advance, State.me_putV, State.me_stick, Slot.fltstAt_late, Slot.fltstAt_setV, Slot.fltstAt_stick,
    Nat.add_le_add_iff_left]

theorem vectorWrite_sticks (s : State) {f : Sticky} (d : VReg) (v : VWord) (n : Nat) {raises : Sticky → Prop} (hf : f.Gathers raises) :
    Sticks s ((s.stick f n).putV d v n).advance n raises := by
  obtain ⟨hfp, hflt⟩ := hf
  refine ⟨fun m b hm => ⟨?_, ?_⟩, fun m hm => ⟨?_, ?_⟩⟩
  · rw [fpstAt_vectorWrite, if_pos hm, getLsbD_or_setWidth (by decide), hfp]
  · rw [fltstAt_vectorWrite, if_pos hm, getLsbD_or_setWidth (by decide), hflt]
  · rw [fpstAt_vectorWrite, if_neg (Nat.not_le.2 hm)]; exact BitVec.or_zero
  · rw [fltstAt_vectorWrite, if_neg (Nat.not_le.2 hm)]; exact BitVec.or_zero

/-! ## Lanes (R220) -/

theorem lane_eq (w : Nat) (v : VWord) (i : Nat) : lane w v i = (laneBits w v i).toNat := by
  rw [lane, fld, laneBits, BitVec.extractLsb'_toNat, Nat.shiftRight_eq_div_pow]

theorem excludes_eq (p : Slot) (mk : Bool) (i : Nat) : p.excludes mk i = maskedLane mk p i := rfl

theorem joinLanes_lane (w : Nat) (xs : List Nat) (i : Nat) :
    joinLanes w xs / 2 ^ (w * i) % 2 ^ w = ((xs[i]?).getD 0) % 2 ^ w := by
  induction xs generalizing i with
  | nil => simp [joinLanes]
  | cons x xs ih =>
    rw [joinLanes]
    cases i with
    | zero => simp
    | succ i =>
      rw [Nat.mul_succ, Nat.add_comm (w * i), pow_add, ← Nat.div_div_eq_div_mul, Nat.add_mul_div_left _ _ (by positivity),
        Nat.div_eq_of_lt (Nat.mod_lt _ (by positivity)), Nat.zero_add, ih, List.getElem?_cons_succ]

theorem laneBits_ofLanes (w : Nat) (xs : List Nat) (i : Nat) (h : w * i + w ≤ 512) :
    laneBits w (ofLanes w xs) i = BitVec.ofNat w ((xs[i]?).getD 0) := by
  apply BitVec.eq_of_getLsbD_eq
  intro j hj
  have hbit := congrArg (Nat.testBit · j) (joinLanes_lane w xs i)
  rw [laneBits, BitVec.getLsbD_extractLsb', ofLanes, BitVec.getLsbD_ofNat, BitVec.getLsbD_ofNat, decide_eq_true hj,
    decide_eq_true (show w * i + j < 512 by omega), Bool.true_and, Bool.true_and, Bool.true_and]
  simpa only [Nat.testBit_mod_two_pow, Nat.testBit_div_two_pow, decide_eq_true hj, Bool.true_and, Nat.add_comm j] using hbit

end Sys2Proof.Machine
end

section
/-! PROOFS. The fixed tree of R218: the levels that the model computes are the nodes of `treeNode`, and VSCAN's blocks combine them as
`scanFrom` does (14_vector R234, R235). -/
namespace Sys2Proof.Machine

/-! ## Levels of the tree (R218) -/

/-- A level over an even number of lanes combines neighbours. -/
theorem treeLevel_range (op : Nat → Nat → Res) (n : Nat → Nat) (k : Nat) :
    treeLevel op ((List.range (2 * k)).map n) = (List.range k).map (fun i => op (n (2 * i)) (n (2 * i + 1))) := by
  induction k generalizing n with
  | zero => rfl
  | succ k ih =>
    rw [Nat.mul_succ, List.range_succ_eq_map, List.range_succ_eq_map, List.range_succ_eq_map]
    simp only [List.map_cons, List.map_map, treeLevel]
    exact congrArg _ (ih (fun i => n (i + 2)))

/-- The tree over the first level's nodes is the tree over the lanes from its second level on. -/
theorem treeNode_firstLevel (op : Nat → Nat → Res) (n : Nat → Nat) (d i : Nat) :
    treeNode op (treeNode op n 1) d i = treeNode op n (d + 1) i := by
  induction d generalizing i with
  | zero => rfl
  | succ d ih => rw [treeNode, ih, ih]; rfl

theorem treeLevels_succ (op : Nat → Nat → Res) (n : Nat → Nat) (depth : Nat) :
    treeLevels op (depth + 1) ((List.range (2 ^ (depth + 1))).map n) =
      let rest := treeLevels op depth ((List.range (2 ^ depth)).map (treeNode op n 1))
      (((List.range (2 ^ (depth + 1))).map n) :: rest.1,
        (allFlags ((List.range (2 ^ depth)).map (fun i => op (n (2 * i)) (n (2 * i + 1))))).or rest.2) := by
  rw [treeLevels, pow_succ', treeLevel_range, List.map_map]
  rfl

/-- Level d of the tree over 2^depth lanes holds the nodes of that level, from the left. -/
theorem treeLevels_level (op : Nat → Nat → Res) (n : Nat → Nat) (depth d : Nat) (h : d ≤ depth) :
    (treeLevels op depth ((List.range (2 ^ depth)).map n)).1[d]? = some ((List.range (2 ^ (depth - d))).map (treeNode op n d)) := by
  induction depth generalizing n d with
  | zero => obtain rfl := Nat.le_zero.1 h; rfl
  | succ depth ih =>
    rw [treeLevels_succ]
    cases d with
    | zero => rfl
    | succ d =>
      rw [List.getElem?_cons_succ, ih _ _ (Nat.le_of_succ_le_succ h), Nat.succ_sub_succ, funext (treeNode_firstLevel op n d)]

theorem treeLevels_length (op : Nat → Nat → Res) (depth : Nat) (xs : List Nat) : (treeLevels op depth xs).1.length = depth + 1 := by
  induction depth generalizing xs with
  | zero => rfl
  | succ depth ih => exact congrArg (· + 1) (ih _)

/-- The root, as the reductions read it. -/
theorem treeLevels_root (op : Nat → Nat → Res) (n : Nat → Nat) (depth : Nat) :
    ((treeLevels op depth ((List.range (2 ^ depth)).map n)).1.getLastD []).headD 0 = treeNode op n depth 0 := by
  rw [List.getLastD_eq_getLast?, List.getLast?_eq_getElem?, treeLevels_length, Nat.add_sub_cancel, treeLevels_level op n depth depth le_rfl,
    Nat.sub_self]
  rfl

/-- The sticky bits of a node (R234). -/
def NodeRaises (op : Nat → Nat → Res) (n : Nat → Nat) (depth : Nat) (f : Sticky) : Prop :=
  ∃ l j, l < depth ∧ j < 2 ^ depth / 2 ^ (l + 1) ∧ f = (op (treeNode op n l (2 * j)) (treeNode op n l (2 * j + 1))).2

theorem nodeRaises_succ (op : Nat → Nat → Res) (n : Nat → Nat) (depth : Nat) (f : Sticky) :
    NodeRaises op n (depth + 1) f ↔
      (∃ j, j < 2 ^ depth ∧ f = (op (n (2 * j)) (n (2 * j + 1))).2) ∨ NodeRaises op (treeNode op n 1) depth f := by
  have hdiv (l : Nat) : 2 ^ (depth + 1) / 2 ^ (l + 1) = 2 ^ depth / 2 ^ l := by
    rw [pow_succ, pow_succ, Nat.mul_div_mul_right _ _ (by decide)]
  simp only [NodeRaises, hdiv, treeNode_firstLevel]
  constructor
  · rintro ⟨l, j, hl, hj, hf⟩
    cases l with
    | zero => exact .inl ⟨j, by simpa using hj, hf⟩
    | succ l => exact .inr ⟨l, j, Nat.lt_of_succ_lt_succ hl, hj, hf⟩
  · rintro (⟨j, hj, hf⟩ | ⟨l, j, hl, hj, hf⟩)
    · exact ⟨0, j, Nat.succ_pos _, by simpa using hj, hf⟩
    · exact ⟨l + 1, j, Nat.succ_lt_succ hl, hj, hf⟩

theorem treeLevels_flags (op : Nat → Nat → Res) (n : Nat → Nat) (depth : Nat) :
    (treeLevels op depth ((List.range (2 ^ depth)).map n)).2.Gathers (NodeRaises op n depth) := by
  induction depth generalizing n with
  | zero => exact Sticky.gathers_clear (by rintro g ⟨l, j, hl, _⟩; exact Nat.not_lt_zero _ hl)
  | succ depth ih =>
    rw [treeLevels_succ]
    refine ((allFlags_gathers _).or (ih _)).congr (fun g => ?_)
    rw [nodeRaises_succ]
    simp

/-! ## The blocks of VSCAN (R235) -/

/-- `ls` holds the nodes of every level. -/
def HoldsTree (op : Nat → Nat → Res) (n : Nat → Nat) (depth : Nat) (ls : List (List Nat)) : Prop :=
  ∀ d i, d ≤ depth → i < 2 ^ (depth - d) → (((ls[d]?).getD [])[i]?).getD 0 = treeNode op n d i

theorem treeLevels_holdsTree (op : Nat → Nat → Res) (n : Nat → Nat) (depth : Nat) :
    HoldsTree op n depth (treeLevels op depth ((List.range (2 ^ depth)).map n)).1 := by
  intro d i hd hi
  rw [treeLevels_level op n depth d hd]
  simp [List.getElem?_range hi]

/-- With d block sizes left, the blocks taken cover the lanes below the bits of i + 1 from d up, which is where the next block
stands in its level. -/
theorem scanLane_eq {op : Nat → Nat → Res} {n : Nat → Nat} {depth i : Nat} {ls : List (List Nat)} (hls : HoldsTree op n depth ls)
    (hi : i < 2 ^ depth) (d : Nat) (hd : d ≤ depth + 1) (base : Nat) (hbase : base = (i + 1) / 2 ^ d * 2 ^ d) (acc : Option Nat) :
    (scanLane op ls i d base acc).1 = scanFrom op n i d base acc := by
  induction d generalizing base acc with
  | zero => rfl
  | succ d ih =>
    have hsplit : (i + 1) / 2 ^ d = 2 * ((i + 1) / 2 ^ (d + 1)) + (i + 1) / 2 ^ d % 2 := by
      rw [pow_succ, ← Nat.div_div_eq_div_mul, Nat.div_add_mod]
    have hb : base = 2 * ((i + 1) / 2 ^ (d + 1)) * 2 ^ d := by rw [hbase, pow_succ]; ring
    rw [scanLane, scanFrom]
    by_cases hbit : (i + 1) / 2 ^ d % 2 = 1
    · rw [hbit] at hsplit
      have hnext : base + 2 ^ d = (i + 1) / 2 ^ d * 2 ^ d := by rw [hsplit, hb]; ring
      have hblock : base / 2 ^ d < 2 ^ (depth - d) := by
        rw [Nat.div_lt_iff_lt_mul (by positivity), ← pow_add, Nat.sub_add_cancel (Nat.le_of_succ_le_succ hd)]
        have := Nat.div_mul_le_self (i + 1) (2 ^ d)
        have : 0 < 2 ^ d := by positivity
        omega
      have hnode := hls d (base / 2 ^ d) (Nat.le_of_succ_le_succ hd) hblock
      rw [if_pos (by simpa [bitOf] using hbit), if_pos hbit, ← ih (Nat.le_of_succ_le hd) _ hnext]
      cases acc <;> simp only [hnode]
    · have h0 : (i + 1) / 2 ^ d % 2 = 0 := by omega
      rw [if_neg (by simpa [bitOf] using hbit), if_neg hbit]
      exact ih (Nat.le_of_succ_le hd) base (by rw [hsplit, h0, hb]; ring) acc

/-- No block is left where no bit of i + 1 is. -/
theorem scanFrom_done (op : Nat → Nat → Res) (n : Nat → Nat) (i d base : Nat) (acc : Option Nat)
    (h : ∀ e < d, (i + 1) / 2 ^ e % 2 = 0) : scanFrom op n i d base acc = acc.getD 0 := by
  induction d with
  | zero => rfl
  | succ d ih =>
    rw [scanFrom, if_neg (by rw [h d (Nat.lt_succ_self d)]; decide)]
    exact ih (fun e he => h e (Nat.lt_succ_of_lt he))

/-- All lanes together are one block, the whole tree. -/
theorem scanFrom_all (op : Nat → Nat → Res) (n : Nat → Nat) (depth i : Nat) (h : i + 1 = 2 ^ depth) :
    scanFrom op n i (depth + 1) 0 none = treeNode op n depth 0 := by
  have hlow (e : Nat) (he : e < depth) : (i + 1) / 2 ^ e % 2 = 0 := by
    rw [h, Nat.pow_div (Nat.le_of_lt he) (by decide), ← Nat.sub_one_add_one (Nat.sub_ne_zero_of_lt he), pow_succ, Nat.mul_mod_left]
  rw [scanFrom, if_pos (by rw [h, Nat.div_self (by positivity)]), Nat.zero_div, scanFrom_done op n i depth _ _ hlow]
  rfl

end Sys2Proof.Machine
end

section
/-! PROOFS. Sums of a format with infinities are numbers, infinities or the default NaN (13_numbers R205, R207), so VSCAN writes a node of
the tree as it stands; and the identity of VRMAX is below every number (14_vector R234). -/
namespace Sys2Proof.Machine

/-! ## Encodings that are no NaN (R204, R205) -/

/-- A format with infinities, whose largest finite encoding lies below them (R204). -/
structure FloatFmt.Ieee (f : FloatFmt) : Prop where
  hasInf : f.hasInf = true
  top : f.top ≤ f.infBits
  ew : 0 < f.ew

theorem FloatFmt.infBits_lt (f : FloatFmt) : f.infBits < 2 ^ f.sign := by
  rw [FloatFmt.infBits, FloatFmt.sign, pow_add]
  exact Nat.mul_lt_mul_of_pos_right (Nat.sub_lt (by positivity) Nat.one_pos) (by positivity)

theorem FloatFmt.two_pow_mw_le_infBits {f : FloatFmt} (h : 0 < f.ew) : 2 ^ f.mw ≤ f.infBits := by
  have : 2 ≤ 2 ^ f.ew := Nat.le_self_pow h.ne' 2
  exact Nat.le_mul_of_pos_left _ (by omega)

/-- Only magnitudes above infinity are NaNs. -/
theorem FloatFmt.isNan_read {f : FloatFmt} (hf : f.hasInf = true) {b : Nat} (hb : b % 2 ^ f.sign ≤ f.infBits) :
    (f.read b).isNan = false := by
  have he : fld b f.mw f.ew = b % 2 ^ f.sign / 2 ^ f.mw := by
    rw [fld, FloatFmt.sign, Nat.add_comm, pow_add, Nat.mod_mul_right_div_self]
  have hm : fld b 0 f.mw = b % 2 ^ f.sign % 2 ^ f.mw := by
    rw [fld, pow_zero, Nat.div_one, FloatFmt.sign, Nat.mod_mod_of_dvd b (pow_dvd_pow 2 (Nat.le_add_left f.mw f.ew))]
  have hfmt : f ≠ fmtE4m3 := by rintro rfl; exact absurd hf (by decide)
  rw [FloatFmt.read, he, hm]
  by_cases htop : b % 2 ^ f.sign / 2 ^ f.mw = 2 ^ f.ew - 1
  · have hsplit := Nat.div_add_mod (b % 2 ^ f.sign) (2 ^ f.mw)
    rw [htop, Nat.mul_comm, ← FloatFmt.infBits] at hsplit
    have h0 : b % 2 ^ f.sign % 2 ^ f.mw = 0 := by omega
    simp [hf, htop, h0, Num.isNan]
  · simp only [hf, htop, hfmt, false_and, and_false, if_false]
    split <;> rfl

/-- A sign and a magnitude no larger than infinity's. -/
def FloatFmt.Numeric (f : FloatFmt) (b : Nat) : Prop := ∃ neg : Bool, ∃ t ≤ f.infBits, b = (if neg then 2 ^ f.sign else 0) + t

theorem FloatFmt.Numeric.isNan_read {f : FloatFmt} (hf : f.hasInf = true) {b : Nat} (hb : f.Numeric b) : (f.read b).isNan = false := by
  obtain ⟨neg, t, ht, rfl⟩ := hb
  apply FloatFmt.isNan_read hf
  have hlt := f.infBits_lt
  have hmod : t % 2 ^ f.sign = t := Nat.mod_eq_of_lt (lt_of_le_of_lt ht hlt)
  cases neg <;> simpa [hmod] using ht

theorem FloatFmt.numeric_inf (f : FloatFmt) (neg : Bool) : f.Numeric (f.inf neg) := ⟨neg, _, le_rfl, rfl⟩

/-! ## Round (R207) -/

/-- A magnitude below 2^m in the units it is rounded to rounds to 2^m at most. -/
theorem roundShift_le (mode : Round) (neg : Bool) (mag : Nat) (sh : Int) (m : Nat) (h : (Nat.log2 mag : Int) + 1 ≤ sh + m) :
    (roundShift mode neg mag sh).1 ≤ 2 ^ m := by
  have hmag : mag < 2 ^ (Nat.log2 mag + 1) := Nat.lt_log2_self
  rw [roundShift]
  split
  case isTrue hsh =>
    have hle : 2 ^ (Nat.log2 mag + 1) * 2 ^ (-sh).toNat ≤ 2 ^ m := by
      rw [← pow_add]
      exact Nat.pow_le_pow_right (by decide) (by omega)
    exact le_trans (Nat.mul_le_mul_right _ hmag.le) hle
  case isFalse hsh =>
    have hle : 2 ^ (Nat.log2 mag + 1) ≤ 2 ^ m * 2 ^ sh.toNat := by
      rw [← pow_add]
      exact Nat.pow_le_pow_right (by decide) (by omega)
    have hq : mag / 2 ^ sh.toNat < 2 ^ m := (Nat.div_lt_iff_lt_mul (by positivity)).2 (lt_of_lt_of_le hmag hle)
    dsimp only
    split <;> omega

/-- A normal result that does not pass the largest finite value. -/
theorem normal_le_top (f : FloatFmt) (e : Int) (sig : Nat) (hsig : sig < 2 ^ (f.mw + 1)) (he : ¬ e < 1 - (f.bias : Int))
    (h : ¬ (f.topExp < e ∨ (f.topExp = e ∧ f.topSig < sig))) : (e + f.bias).toNat * 2 ^ f.mw + (sig - 2 ^ f.mw) ≤ f.top := by
  have htop := Nat.div_add_mod f.top (2 ^ f.mw)
  rw [FloatFmt.topExp, FloatFmt.topSig] at h
  rw [pow_succ] at hsig
  obtain ⟨k, hk⟩ : ∃ k : Nat, e + f.bias = k := ⟨_, (Int.toNat_of_nonneg (by omega)).symm⟩
  rw [hk, Int.toNat_natCast]
  rcases Nat.lt_trichotomy k (f.top / 2 ^ f.mw) with hlt | heq | hgt
  · have := Nat.mul_le_mul_left (2 ^ f.mw) (Nat.succ_le_of_lt hlt)
    rw [Nat.mul_succ, Nat.mul_comm (2 ^ f.mw) k] at this
    omega
  · have : sig ≤ 2 ^ f.mw + f.top % 2 ^ f.mw := by omega
    rw [heq, Nat.mul_comm]
    omega
  · omega

/-- A significand that rounds up to the next power of two is taken one exponent higher. -/
theorem carried_significand (lead : Int) {u m : Nat} (hu : u ≤ 2 ^ (m + 1)) :
    ∃ e sig, (if u = 2 ^ (m + 1) then (lead + 1, 2 ^ m) else (lead, u)) = (e, sig) ∧ lead ≤ e ∧ sig < 2 ^ (m + 1) := by
  split
  · exact ⟨_, _, rfl, by omega, Nat.pow_lt_pow_succ (by decide)⟩
  · exact ⟨_, _, rfl, le_rfl, by omega⟩

theorem FloatFmt.numeric_roundMag {f : FloatFmt} (hf : f.Ieee) (mode : Round) (neg : Bool) (mag : Nat) (exp : Int) :
    f.Numeric (f.roundMag mode neg mag exp).bits := by
  have hu := roundShift_le mode neg mag (exp + (Nat.log2 mag : Int) - f.mw - exp) (f.mw + 1) (by omega)
  unfold FloatFmt.roundMag
  dsimp only
  generalize (roundShift mode neg mag (exp + (Nat.log2 mag : Int) - f.mw - exp)).1 = u at hu ⊢
  obtain ⟨e, sig, hpair, hlead, hsig⟩ := carried_significand (exp + (Nat.log2 mag : Int)) hu
  rw [hpair]
  dsimp only
  split
  case isTrue =>
    refine ⟨neg, _, ?_, rfl⟩
    split
    · exact le_rfl
    · exact hf.top
  case isFalse hover =>
    split
    case isTrue hsub =>
      exact ⟨neg, _, (roundShift_le _ _ _ _ f.mw (by omega)).trans (FloatFmt.two_pow_mw_le_infBits hf.ew), rfl⟩
    case isFalse hnormal =>
      exact ⟨neg, _, (normal_le_top f e sig hsig hnormal hover).trans hf.top, Nat.add_assoc _ _ _⟩

theorem FloatFmt.numeric_round {f : FloatFmt} (hf : f.Ieee) (mode : Round) (d : Dyadic) (zeroNeg : Bool) :
    f.Numeric (f.round mode d zeroNeg).bits := by
  rw [FloatFmt.round]
  split
  · exact ⟨zeroNeg, 0, Nat.zero_le _, rfl⟩
  · exact FloatFmt.numeric_roundMag hf _ _ _ _

/-! ## Sums (R205) -/

theorem FloatFmt.addNum_cases {f : FloatFmt} (hf : f.Ieee) (a b : Num) :
    (f.addNum a b).1 = f.nanBits ∨ f.Numeric (f.addNum a b).1 := by
  cases a with
  | nan s => cases b <;> exact .inl rfl
  | inf p =>
    cases b with
    | nan s => exact .inl rfl
    | inf q =>
      rw [FloatFmt.addNum]
      split
      · exact .inr (f.numeric_inf p)
      · exact .inl rfl
    | fin q y e => exact .inr (f.numeric_inf p)
  | fin p x d =>
    cases b with
    | nan s => exact .inl rfl
    | inf q => exact .inr (f.numeric_inf q)
    | fin q y e => exact .inr (FloatFmt.numeric_round hf _ _ _)

theorem tyFmt_ieee {ty : Ty} (h : ty.isFloat = true) : (tyFmt ty).Ieee := by
  cases ty with
  | f16 => exact ⟨rfl, by decide, by decide⟩
  | bf16 => exact ⟨rfl, by decide, by decide⟩
  | f32 => exact ⟨rfl, by decide, by decide⟩
  | f64 => exact ⟨rfl, by decide, by decide⟩
  | _ => cases h

theorem tyInt_eq_isInt (ty : Ty) : tyInt ty = ty.isInt := by cases ty <;> rfl

/-- A sum is written as it stands: a NaN among the sums is the default NaN. -/
theorem nanResult_sum {ty : Ty} (hty : (ty.isInt || ty.isFloat) = true) (x y : Nat) :
    nanResult ty (redOp 0 ty x y).1 = (redOp 0 ty x y).1 := by
  cases hint : tyInt ty with
  | true => simp [nanResult, hint]
  | false =>
    have hfloat : ty.isFloat = true := by simpa [← tyInt_eq_isInt, hint] using hty
    have hsum : (redOp 0 ty x y).1 = ((tyFmt ty).addNum ((tyFmt ty).read x) ((tyFmt ty).read y)).1 := by
      simp [redOp, hint, laneFadd, FloatFmt.add]
    rw [hsum, nanResult]
    rcases FloatFmt.addNum_cases (tyFmt_ieee hfloat) ((tyFmt ty).read x) ((tyFmt ty).read y) with h | h
    · rw [h, ite_self]
    · rw [h.isNan_read (tyFmt_ieee hfloat).hasInf, Bool.and_false, if_neg Bool.false_ne_true]

/-! ## The identity of VRMAX (R234) -/

theorem sgn_lower (n v : Nat) (h : 0 < n) : -((2 ^ (n - 1) : Nat) : Int) ≤ sgn n v := by
  have hpow : 2 ^ n = 2 * 2 ^ (n - 1) := by rw [← pow_succ', Nat.sub_add_cancel h]
  rw [sgn]
  split <;> omega

theorem tyBits_pos (ty : Ty) : 0 < tyBits ty := by cases ty <;> decide

theorem intMin_le (ty : Ty) (x : Nat) : intMin ty ≤ intValue ty x := by
  rw [intMin, intValue]
  split
  · exact sgn_lower _ _ (tyBits_pos ty)
  · exact Int.natCast_nonneg _

theorem intValue_intMin (ty : Ty) : intValue ty (wrap (tyBits ty) (intMin ty)) = intMin ty := by
  cases ty <;> decide

theorem read_inf {ty : Ty} (h : ty.isFloat = true) (neg : Bool) : (tyFmt ty).read ((tyFmt ty).inf neg) = .inf neg := by
  cases ty with
  | f16 => cases neg <;> decide
  | bf16 => cases neg <;> decide
  | f32 => cases neg <;> decide
  | f64 => cases neg <;> decide
  | _ => cases h

/-- Nothing is below the identity. -/
theorem above_identity {ty : Ty} (hty : (ty.isInt || ty.isFloat) = true) (x : Nat) : above ty (redIdentity 1 ty) x = false := by
  rw [above, redIdentity, tyInt_eq_isInt]
  cases hint : ty.isInt with
  | true => simpa [intValue_intMin] using intMin_le ty x
  | false =>
    rw [hint, Bool.false_or] at hty
    have hid : (tyFmt ty).read ((tyFmt ty).inf true) = .inf true := read_inf hty true
    cases hx : (tyFmt ty).read x <;> simp [hid, numBelow]

end Sys2Proof.Machine
end

section
/-! PROOFS. The reductions of 14_vector (R218, R222, R234, R235): VRADD, VRMAX and VRMIN write the root of the fixed tree, VSCAN the
blocks of every lane combined, VRMAXI the best pair of the lanes. -/
namespace Sys2Proof.Machine

/-! ## Lanes of a type (R220) -/

theorem wellFormed_of_ready {i : Instr} {s : State} (hr : s.ready i = true) : wellFormed i = true := by
  simp only [State.ready, State.legalIn, Bool.and_eq_true] at hr
  tauto

theorem laneCount_eq_two_pow (ty : Ty) : 512 / tyBits ty = 2 ^ treeDepth ty := by cases ty <;> decide

theorem laneBits_ofLanes_of_lt {ty : Ty} {k : Nat} (xs : List Nat) (h : k < 512 / tyBits ty) :
    laneBits (tyBits ty) (ofLanes (tyBits ty) xs) k = BitVec.ofNat (tyBits ty) ((xs[k]?).getD 0) :=
  laneBits_ofLanes _ _ _ (by rw [← Nat.mul_succ, Nat.mul_comm]; exact Nat.mul_le_of_le_div _ _ _ h)

/-- A reduction's list of lanes is the lanes of the statement, a masked one as the identity (R222, R234). -/
theorem redLanes_eq (p : Slot) (a : VReg) (ty : Ty) (mk : Bool) (identity : Nat) :
    p.redLanes a ty mk identity = (List.range (2 ^ treeDepth ty)).map (reductionLane p a ty mk identity) := by
  rw [Slot.redLanes, laneCount, laneCount_eq_two_pow]
  simp only [lane_eq, excludes_eq]
  rfl

/-! ## VRADD, VRMAX, VRMIN (R234) -/

theorem vecReduce_eq {i : Instr} {d a : VReg} {ty : Ty} {mk : Bool} {s : State} (kind : Nat) (hr : s.ready i = true)
    (hb : s.vregBad i = none) :
    let n := reductionLane s.me a ty mk (redIdentity kind ty)
    ∃ f : Sticky, f.Gathers (NodeRaises (redOp kind ty) n (treeDepth ty)) ∧
      s.vecReduce i d a ty mk kind =
        ((s.stick f 8).putV d (ofLanes (tyBits ty) [treeNode (redOp kind ty) n (treeDepth ty) 0]) 8).advance := by
  refine ⟨_, treeLevels_flags _ _ _, ?_⟩
  rw [State.vecReduce, vgate_ready hr hb, redLanes_eq]
  dsimp only
  rw [treeLevels_root]

theorem exec_reduction {i : Instr} {d a : VReg} {ty : Ty} {mk : Bool} {kind : Nat} (s : State)
    (hi : (i = .vradd d a ty mk ∧ kind = 0) ∨ (i = .vrmax d a ty mk ∧ kind = 1) ∨ (i = .vrmin d a ty mk ∧ kind = 2)) :
    exec i s = .next (s.vecReduce i d a ty mk kind) := by
  rcases hi with ⟨rfl, rfl⟩ | ⟨rfl, rfl⟩ | ⟨rfl, rfl⟩ <;> rfl

/-! ## VSCAN (R235) -/

/-- Lane k of VSCAN's result. -/
def scanResult (p : Slot) (a : VReg) (ty : Ty) (mk : Bool) (k : Nat) : Nat :=
  nanResult ty (scanFrom (redOp 0 ty) (reductionLane p a ty mk (redIdentity 0 ty)) k (treeDepth ty + 1) 0 none)

theorem exec_vscan {d a : VReg} {ty : Ty} {mk : Bool} {s : State} (hr : s.ready (.vscan d a ty mk) = true)
    (hb : s.vregBad (.vscan d a ty mk) = none) : ∃ f : Sticky, exec (.vscan d a ty mk) s =
      .next ((s.stick f 10).putV d (ofLanes (tyBits ty) ((List.range (512 / tyBits ty)).map (scanResult s.me a ty mk))) 10).advance := by
  have hls := treeLevels_holdsTree (redOp 0 ty) (reductionLane s.me a ty mk (redIdentity 0 ty)) (treeDepth ty)
  have hx : exec (.vscan d a ty mk) s = execVscan d a ty mk s := rfl
  rw [hx, execVscan, vgate_ready hr hb, redLanes_eq]
  dsimp only
  refine ⟨_, congrArg (fun l => Host.Outcome.next ((s.stick _ 10).putV d (ofLanes (tyBits ty) l) 10).advance) ?_⟩
  rw [List.map_map]
  refine List.map_congr_left (fun k hk => congrArg (nanResult ty) ?_)
  have hk : k < 2 ^ treeDepth ty := laneCount_eq_two_pow ty ▸ List.mem_range.1 hk
  exact scanLane_eq hls hk _ le_rfl 0 (by rw [Nat.div_eq_of_lt (by rw [pow_succ]; omega), Nat.zero_mul]) none

theorem laneBits_scan {ty : Ty} {k : Nat} (r : Nat → Nat) (hk : k < 512 / tyBits ty) :
    laneBits (tyBits ty) (ofLanes (tyBits ty) ((List.range (512 / tyBits ty)).map r)) k = BitVec.ofNat (tyBits ty) (r k) := by
  rw [laneBits_ofLanes_of_lt _ hk, List.getElem?_map, List.getElem?_range hk]
  rfl

/-- The last lane is the root, which VRADD writes. -/
theorem scanResult_last {p : Slot} {a : VReg} {ty : Ty} {mk : Bool} (hty : (ty.isInt || ty.isFloat) = true) :
    scanResult p a ty mk (512 / tyBits ty - 1) =
      treeNode (redOp 0 ty) (reductionLane p a ty mk (redIdentity 0 ty)) (treeDepth ty) 0 := by
  have hlanes : 512 / tyBits ty - 1 + 1 = 2 ^ treeDepth ty := by
    rw [laneCount_eq_two_pow, Nat.sub_add_cancel (Nat.one_le_two_pow)]
  obtain ⟨depth, hdepth⟩ : ∃ depth, treeDepth ty = depth + 1 := ⟨treeDepth ty - 1, by cases ty <;> decide⟩
  rw [scanResult, scanFrom_all _ _ _ _ hlanes, hdepth, treeNode, nanResult_sum hty]

/-! ## VRMAXI (R234) -/

/-- A lane that enters VRMAXI with its own value: neither masked nor a NaN. -/
def Contends (p : Slot) (a : VReg) (ty : Ty) (mk : Bool) (k : Nat) : Prop :=
  k < 512 / tyBits ty ∧ maskedLane mk p k = false ∧ (tyInt ty = false → ((tyFmt ty).read (laneEnc ty (p.getV a) k)).isNan = false)

/-- The pair of a lane that does not contend. -/
def identityPair (ty : Ty) : Nat × Nat := (redIdentity 1 ty, 2 ^ tyBits ty - 1)

/-- The pair with which a lane enters VRMAXI. -/
def maxEntry (p : Slot) (a : VReg) (ty : Ty) (mk : Bool) (k : Nat) : Nat × Nat :=
  if maskedLane mk p k then identityPair ty
  else if !tyInt ty && ((tyFmt ty).read (laneEnc ty (p.getV a) k)).isNan then identityPair ty
  else (laneEnc ty (p.getV a) k, k)

/-- The pair that VRMAXI writes. -/
def maxWinner (p : Slot) (a : VReg) (ty : Ty) (mk : Bool) : Nat × Nat :=
  ((List.range (512 / tyBits ty)).map (maxEntry p a ty mk)).foldl (maxPair ty) (identityPair ty)

theorem exec_vrmaxi {d a : VReg} {ty : Ty} {mk : Bool} {s : State} (hr : s.ready (.vrmaxi d a ty mk) = true)
    (hb : s.vregBad (.vrmaxi d a ty mk) = none) : ∃ f : Sticky, exec (.vrmaxi d a ty mk) s =
      .next ((s.stick f 8).putV d (ofLanes (tyBits ty) [(maxWinner s.me a ty mk).1, (maxWinner s.me a ty mk).2]) 8).advance := by
  have hx : exec (.vrmaxi d a ty mk) s = execVrmaxi d a ty mk s := rfl
  rw [hx, execVrmaxi, vgate_ready hr hb]
  dsimp only
  refine ⟨_, congrArg (fun r : Nat × Nat => Host.Outcome.next ((s.stick _ 8).putV d (ofLanes (tyBits ty) [r.1, r.2]) 8).advance) ?_⟩
  rw [List.map_map]
  refine congrArg (List.foldl _ _) (List.map_congr_left fun k _ => ?_)
  simp only [Function.comp, lane_eq, excludes_eq, apply_ite Prod.fst]
  rfl

theorem maxEntry_of_contends {p : Slot} {a : VReg} {ty : Ty} {mk : Bool} {k : Nat} (h : Contends p a ty mk k) :
    maxEntry p a ty mk k = (laneEnc ty (p.getV a) k, k) := by
  obtain ⟨-, hmask, hnan⟩ := h
  rw [maxEntry, hmask, if_neg Bool.false_ne_true, if_neg]
  cases hint : tyInt ty with
  | true => simp
  | false => simp [hnan hint]

theorem maxEntry_of_not_contends {p : Slot} {a : VReg} {ty : Ty} {mk : Bool} {k : Nat} (hk : k < 512 / tyBits ty)
    (h : ¬ Contends p a ty mk k) : maxEntry p a ty mk k = identityPair ty := by
  rw [maxEntry]
  split
  · rfl
  · split
    · rfl
    case isFalse hmask hnan =>
      exact absurd ⟨hk, by simpa using hmask, fun hint => by simpa [hint] using hnan⟩ h

/-! ### The best of a list -/

theorem foldl_of_absorbs {α : Type} {f : α → α → α} {p : α} {xs : List α} (h : ∀ x ∈ xs, f p x = p) : xs.foldl f p = p := by
  induction xs with
  | nil => rfl
  | cons x xs ih =>
    rw [List.foldl_cons, h x List.mem_cons_self]
    exact ih fun y hy => h y (List.mem_cons_of_mem _ hy)

/-- An operation that selects one of its operands, over a list with one element that it always selects, selects that one. -/
theorem foldl_of_selects {α : Type} {f : α → α → α} (hsel : ∀ x y, f x y = x ∨ f x y = y) {p : α} {xs : List α} (hp : p ∈ xs)
    (hxs : ∀ x ∈ xs, f x p = p ∧ f p x = p) {a : α} (ha : f a p = p) : xs.foldl f a = p := by
  induction xs generalizing a with
  | nil => cases hp
  | cons x xs ih =>
    rw [List.foldl_cons]
    have hrest : ∀ y ∈ xs, f y p = p ∧ f p y = p := fun y hy => hxs y (List.mem_cons_of_mem _ hy)
    rcases List.mem_cons.1 hp with rfl | hmem
    · rw [ha]
      exact foldl_of_absorbs fun y hy => (hrest y hy).2
    · apply ih hmem hrest
      rcases hsel a x with h | h
      · rw [h, ha]
      · rw [h, (hxs x List.mem_cons_self).1]

theorem maxPair_selects (ty : Ty) (x y : Nat × Nat) : maxPair ty x y = x ∨ maxPair ty x y = y := by
  unfold maxPair
  split
  · exact .inl rfl
  · split
    · exact .inr rfl
    · split
      · exact .inl rfl
      · exact .inr rfl

/-- A pair that no other value is above, and that comes first among its equals, wins on either side. -/
theorem maxPair_of_best {ty : Ty} {x p : Nat × Nat} (hval : above ty x.1 p.1 = false)
    (hidx : above ty p.1 x.1 = false → p.2 < x.2 ∨ x = p) : maxPair ty x p = p ∧ maxPair ty p x = p := by
  unfold maxPair
  rw [hval]
  cases h : above ty p.1 x.1 with
  | true => exact ⟨rfl, rfl⟩
  | false =>
    rcases hidx h with hlt | rfl
    · simp [hlt.le, Nat.not_le.2 hlt]
    · simp

theorem lanes_lt_index (ty : Ty) (h : (ty.isInt || ty.isFloat) = true) : 512 / tyBits ty ≤ 2 ^ tyBits ty - 1 := by
  cases ty with
  | e2m1 => cases h
  | _ => decide

/-- The identity pair loses against every lane that contends: no value is below the identity, and its index is above every lane. -/
theorem maxPair_identity {ty : Ty} (hty : (ty.isInt || ty.isFloat) = true) {v k : Nat} (hk : k < 512 / tyBits ty) :
    maxPair ty (identityPair ty) (v, k) = (v, k) ∧ maxPair ty (v, k) (identityPair ty) = (v, k) :=
  maxPair_of_best (above_identity hty v) fun _ => .inl (lt_of_lt_of_le hk (lanes_lt_index ty hty))

theorem maxWinner_of_best {p : Slot} {a : VReg} {ty : Ty} {mk : Bool} (hty : (ty.isInt || ty.isFloat) = true) {j : Nat}
    (hj : Contends p a ty mk j)
    (hbest : ∀ k, Contends p a ty mk k → above ty (laneEnc ty (p.getV a) k) (laneEnc ty (p.getV a) j) = false ∧
      (above ty (laneEnc ty (p.getV a) j) (laneEnc ty (p.getV a) k) = false → j ≤ k)) :
    maxWinner p a ty mk = (laneEnc ty (p.getV a) j, j) := by
  have hlane : j < 512 / tyBits ty := hj.1
  refine foldl_of_selects (maxPair_selects ty) ?_ ?_ (maxPair_identity hty hlane).1
  · exact List.mem_map.2 ⟨j, List.mem_range.2 hlane, maxEntry_of_contends hj⟩
  · intro x hx
    obtain ⟨k, hk, rfl⟩ := List.mem_map.1 hx
    by_cases hc : Contends p a ty mk k
    · obtain ⟨hval, hidx⟩ := hbest k hc
      rw [maxEntry_of_contends hc]
      refine maxPair_of_best hval fun h => ?_
      rcases Nat.lt_or_eq_of_le (hidx h) with hlt | rfl
      · exact .inl hlt
      · exact .inr rfl
    · rw [maxEntry_of_not_contends (List.mem_range.1 hk) hc]
      exact maxPair_identity hty hlane

theorem maxWinner_of_none {p : Slot} {a : VReg} {ty : Ty} {mk : Bool} (h : ∀ k, ¬ Contends p a ty mk k) :
    maxWinner p a ty mk = identityPair ty := by
  refine foldl_of_absorbs fun x hx => ?_
  obtain ⟨k, hk, rfl⟩ := List.mem_map.1 hx
  rw [maxEntry_of_not_contends (List.mem_range.1 hk) (h k)]
  exact (maxPair_selects ty _ _).elim id id

/-! ## The statement -/

theorem two_lt_lanes (ty : Ty) : 2 < 512 / tyBits ty := by cases ty <;> decide

/-- Settles O39: each form writes its register by `vectorWrite_frame`; the lanes are the root of the tree, its blocks
combined, or the best pair. -/
theorem vectorReductions : Obligations.VectorReductions := by
  unfold Obligations.VectorReductions
  intro d a ty mk s w depth
  have hlanes : 2 < 512 / w := two_lt_lanes ty
  refine ⟨?reduce, ?scan, ?maxi⟩
  case reduce =>
    intro i kind hi hr hb n
    obtain ⟨f, hf, ht⟩ := vecReduce_eq (d := d) (a := a) (ty := ty) (mk := mk) kind hr hb
    refine ⟨_, (exec_reduction s hi).trans (congrArg _ ht), ?_, fun k hk hk' => ?_, vectorWrite_frame s f d _ 8,
      vectorWrite_sticks s d _ 8 (hf.congr fun g => ?_)⟩
    · rw [getV_vectorWrite, laneBits_ofLanes_of_lt _ (Nat.zero_lt_of_lt hlanes)]
      rfl
    · rw [getV_vectorWrite, laneBits_ofLanes_of_lt _ hk', List.getElem?_eq_none hk]
      rfl
    · rw [NodeRaises, ← laneCount_eq_two_pow]
      rfl
  case scan =>
    intro hr hb n
    obtain ⟨f, hx⟩ := exec_vscan hr hb
    refine ⟨_, hx, vectorWrite_frame s f d _ 10, fun k hk => ?_, ?_⟩
    · rw [getV_vectorWrite, laneBits_scan _ hk]
      rfl
    · rw [getV_vectorWrite, laneBits_scan _ (Nat.sub_one_lt_of_lt hlanes), scanResult_last (wellFormed_of_ready hr)]
      rfl
  case maxi =>
    intro hr hb v candidate
    obtain ⟨f, hx⟩ := exec_vrmaxi hr hb
    have h0 (x y : Nat) : laneBits w (ofLanes w [x, y]) 0 = BitVec.ofNat w x := laneBits_ofLanes_of_lt _ (Nat.zero_lt_of_lt hlanes)
    have h1 (x y : Nat) : laneBits w (ofLanes w [x, y]) 1 = BitVec.ofNat w y := laneBits_ofLanes_of_lt _ (Nat.lt_of_succ_lt hlanes)
    refine ⟨_, hx, vectorWrite_frame s f d _ 8, fun j hj hbest => ?_, fun hnone => ?_, fun k hk hk' => ?_⟩
    · rw [getV_vectorWrite, maxWinner_of_best (wellFormed_of_ready hr) hj hbest]
      exact ⟨h0 _ _, h1 _ _⟩
    · rw [getV_vectorWrite, maxWinner_of_none hnone]
      exact ⟨h0 _ _, (h1 _ _).trans (ofNat_ones _)⟩
    · rw [getV_vectorWrite, laneBits_ofLanes_of_lt _ hk', List.getElem?_eq_none hk]
      rfl

end Sys2Proof.Machine
end
